-- ==== Sys2Proof/Word.lean ====
section
/-! DEFINITION. Sys2Proof/Word.lean: the word types of the machine (R8) and the plainest bit arithmetic on natural
numbers. -/
namespace Sys2Proof

/-- A byte (R8). -/
abbrev Byte := BitVec 8
/-- A word, the width of a lane (R8, R9). -/
abbrev Word := BitVec 32
/-- A doubleword, the width of a scalar or system register (R8, R53, R56). -/
abbrev DWord := BitVec 64
/-- A vector register, a communication register or a cell-SRAM row (R23): lane i is bits 32i+31:32i (R9). -/
abbrev VecReg := BitVec 1024
/-- An accumulator tile: element (i,j) is the 32 bits at 32(16i+j) (R23, R126). -/
abbrev TileReg := BitVec 8192
/-- A bundle, the unit of issue (R67). -/
abbrev Bundle := BitVec 512

/-- Bits `lo + len - 1 : lo` of `w`, as a number. -/
def bitsAt (w lo len : Nat) : Nat := w / 2 ^ lo % 2 ^ len

/-- Bit `i` of `w`. -/
def bitAt (w i : Nat) : Bool := w / 2 ^ i % 2 == 1

/-- 1 for true, 0 for false. -/
def b2n (b : Bool) : Nat := if b then 1 else 0

end Sys2Proof
end

