-- ==== Sys2Proof/Syntax.lean ====
section
/-! DEFINITION. Sys2Proof/Syntax.lean: the instructions. One constructor of `Instr` for each row of the opcode table:
the operations a bundle's slots may hold (R67 to R85), and the steps of the other agents of the module, which the
table lists as rows of their own. Operand fields are numbers; WellFormed.lean gives their bounds. -/
namespace Sys2Proof

/-- The two sequencer slots of a bundle (R67). -/
inductive SeqSlot where
  | sa | sb
  deriving DecidableEq, Repr, Inhabited

/-- The two vector slots of a bundle (R67). -/
inductive VSlot where
  | v0 | v1
  deriving DecidableEq, Repr, Inhabited

/-- Format S-R of R70. -/
structure FmtSR where
  d : Nat
  a : Nat
  b : Nat
  qp : Nat
  qn : Nat
  k : Nat
  deriving DecidableEq, Repr, Inhabited

/-- Format S-I of R70. -/
structure FmtSI where
  d : Nat
  a : Nat
  qp : Nat
  qn : Nat
  imm : Nat
  deriving DecidableEq, Repr, Inhabited

/-- Format S-M of R70. -/
structure FmtSM where
  d : Nat
  base : Nat
  qp : Nat
  qn : Nat
  size : Nat
  oc : Nat
  off : Nat
  deriving DecidableEq, Repr, Inhabited

/-- Format S-B of R70. -/
structure FmtSB where
  qp : Nat
  qn : Nat
  a : Nat
  imm : Nat
  deriving DecidableEq, Repr, Inhabited

/-- Format S-Y of R70. -/
structure FmtSY where
  d : Nat
  a : Nat
  qp : Nat
  qn : Nat
  func : Nat
  imm : Nat
  deriving DecidableEq, Repr, Inhabited

/-- Format S-A of R70. -/
structure FmtSA where
  d : Nat
  base : Nat
  value : Nat
  qp : Nat
  qn : Nat
  amo : Nat
  oc : Nat
  off : Nat
  deriving DecidableEq, Repr, Inhabited

/-- The format of V0 and V1 (R75), less the opcode. -/
structure FmtV where
  width : Nat
  part : Nat
  type : Nat
  pred : Nat
  pneg : Nat
  d : Nat
  a : Nat
  b : Nat
  aux : Nat
  deriving DecidableEq, Repr, Inhabited

/-- The format of M (R79), less the opcode. -/
structure FmtM where
  acc : Nat
  a : Nat
  b : Nat
  scale : Nat
  fmt : Nat
  pred : Nat
  pneg : Nat
  ah : Nat
  bh : Nat
  sstep : Nat
  clr : Nat
  dq : Nat
  dmode : Nat
  deriving DecidableEq, Repr, Inhabited

/-- The format of X (R80), less the opcode. -/
structure FmtX where
  v : Nat
  addr : Nat
  lcsel : Nat
  stride : Nat
  pred : Nat
  pneg : Nat
  aux : Nat
  deriving DecidableEq, Repr, Inhabited

/-- The format of LD and ST (R83), less the opcode. -/
structure FmtEdge where
  pack : Nat
  oc : Nat
  swz : Nat
  ring : Nat
  cp : Nat
  fmt : Nat
  rows : Nat
  imm : Nat
  deriving DecidableEq, Repr, Inhabited

/-- The format of E (R84), less the opcode. -/
structure FmtE where
  pack : Nat
  produce : Nat
  c0 : Nat
  c1 : Nat
  c2 : Nat
  oc : Nat
  ev : Nat
  pf : Nat
  scope : Nat
  ap : Nat
  deriving DecidableEq, Repr, Inhabited

/-- Who makes a register write: the PCIe function it arrives through and the host's requester ID (R360, R366, R368). -/
structure Req where
  fn : Nat
  rid : Nat
  deriving DecidableEq, Repr, Inhabited

/-- Four doublewords, written together (the 32-byte registers of R365). -/
structure Quad where
  d0 : Nat
  d1 : Nat
  d2 : Nat
  d3 : Nat
  deriving DecidableEq, Repr, Inhabited

/-- What reaches a module about a system-level barrier or a LEVEL-3 collective (R309): the domain, the group, the
member's count, the member's module and a tag that names the member (a head array, or a command); `gen`: the home's number of the
collective it has closed. -/
structure SysMsg where
  sdom : Nat
  group : Nat
  count : Nat
  module : Nat
  member : Nat
  coll : Bool
  gen : Nat
  deriving DecidableEq, Repr, Inhabited

/-- A part of an engine element written over a link as a whole (R231): 0 data, 1 data whose scales follow, 2 a scale. -/
structure LinkPart where
  kind : Nat
  off : Nat
  len : Nat
  data : Nat
  deriving DecidableEq, Repr, Inhabited

/-- The source elements of a participant of a LEVEL-3 collective (R309): domain, group and TAG, the home's number of the collective, the
participant's module, command and rank, and what all participants must give alike. -/
structure CollShare where
  sdom : Nat
  group : Nat
  gen : Nat
  module : Nat
  member : Nat
  rank : Nat
  params : List Nat
  elems : List Nat
  deriving DecidableEq, Repr, Inhabited

/-- An access sent over a link (R221, R323): what is read, written or combined at the remote port. `amo` is 0 for a
plain access, 1 plus the AOP of R247, or 9 for an optimizer step (R251); `data` is the data written, little-endian. In an answer
`data` holds the bytes read, `stack` the stack they lie in (R190) and `fail` the kind of a check that failed, with 16 where source 11 is charged (R355), or 0. `parts`: an element of
several parts; `share`: it brings a participant's elements and asks for no answer. -/
structure LinkAccess where
  id : Nat
  fromModule : Nat
  fromCtx : Nat
  sdom : Nat
  toModule : Nat
  ctx : Nat
  buf : Nat
  off : Nat
  len : Nat
  write : Bool
  amo : Nat
  data : Nat
  stack : Nat
  fail : Nat
  parts : List LinkPart
  share : Option CollShare
  deriving DecidableEq, Repr, Inhabited

/-- A flit (R357): its sequence number, whether its CRC holds at the receiver, and what it carries: an access, or the
answer to access `id` with the bytes read. -/
structure Flit where
  seq : Nat
  crcOk : Bool
  answer : Bool
  access : LinkAccess
  deriving DecidableEq, Repr, Inhabited

/-- The peer a port trains with (R370), and whether the training succeeds. -/
structure Peer where
  up : Bool
  module : Nat
  port : Nat
  deriving DecidableEq, Repr, Inhabited

/-- What a step of bring-up finds (R371). `fresh`: reset is released now; otherwise the step that BOOTSTAT reports ends: with the
self-test mask of the dies (step 1), or whether the mesh trains with the seam latencies of R21 and HBM4E trains (step 3). -/
structure BootResult where
  fresh : Bool
  bist : Nat
  hbmOk : Bool
  meshOk : Bool
  deriving DecidableEq, Repr, Inhabited

/-- The rows of the opcode table. -/
inductive Instr where
  /-- SELECTION (R29). Bundle header naming the row, column and position masks that decide which cells and positions act on the bundle. -/
  | selection (p c r : Nat)
  /-- NOP_SEQ (R72). Sequencer no-operation in SA or SB. -/
  | nopSeq (u : SeqSlot)
  /-- ADD (R163). Writes s[d] := s[a] + s[b], wrapping at 64 bits. -/
  | add (u : SeqSlot) (f : FmtSR)
  /-- SUB (R163). Writes s[d] := s[a] - s[b], wrapping at 64 bits. -/
  | sub (u : SeqSlot) (f : FmtSR)
  /-- MUL (R163). Writes the low 64 bits of the product with latency 3. -/
  | mul (u : SeqSlot) (f : FmtSR)
  /-- MULH (R163). Writes the high 64 bits of the signed or unsigned 128-bit product. -/
  | mulh (u : SeqSlot) (f : FmtSR)
  /-- DIV (R163). Writes the quotient rounded toward zero, all ones for a divisor of 0. -/
  | div (u : SeqSlot) (f : FmtSR)
  /-- REM (R163). Writes the remainder of div, the dividend for a divisor of 0. -/
  | rem (u : SeqSlot) (f : FmtSR)
  /-- AND (R163). Writes the bitwise AND of two scalar registers. -/
  | and (u : SeqSlot) (f : FmtSR)
  /-- OR (R163). Writes the bitwise OR of two scalar registers. -/
  | or (u : SeqSlot) (f : FmtSR)
  /-- XOR (R163). Writes the bitwise XOR of two scalar registers. -/
  | xor (u : SeqSlot) (f : FmtSR)
  /-- SHL (R163). Shifts s[a] left by s[b] mod 64. -/
  | shl (u : SeqSlot) (f : FmtSR)
  /-- SHR (R163). Shifts s[a] right, arithmetically or logically, by s[b] mod 64. -/
  | shr (u : SeqSlot) (f : FmtSR)
  /-- MIN (R163). Writes the smaller of two scalar registers, signed or unsigned. -/
  | min (u : SeqSlot) (f : FmtSR)
  /-- MAX (R163). Writes the larger of two scalar registers, signed or unsigned. -/
  | max (u : SeqSlot) (f : FmtSR)
  /-- CLZ (R163). Writes the number of leading zeros of s[a]. -/
  | clz (u : SeqSlot) (f : FmtSR)
  /-- POPC (R163). Writes the number of ones in s[a]. -/
  | popc (u : SeqSlot) (f : FmtSR)
  /-- SEL (R163). Writes s[a] or s[b] according to a sequencer predicate. -/
  | sel (u : SeqSlot) (f : FmtSR)
  /-- ADDSC (R163). Writes s[a] + s[b] shifted left by the immediate k. -/
  | addsc (u : SeqSlot) (f : FmtSR)
  /-- CMP (R165). Compares two scalar registers under a condition and writes a sequencer predicate. -/
  | cmp (u : SeqSlot) (f : FmtSR)
  /-- BFX (R163). Extracts a bit field of s[a] at the position in s[b]. -/
  | bfx (u : SeqSlot) (f : FmtSR)
  /-- BFI (R163). Inserts the low bits of s[a] into s[d] at the position in s[b]. -/
  | bfi (u : SeqSlot) (f : FmtSR)
  /-- ADDI (R164). Adds a sign-extended immediate to s[a]. -/
  | addi (u : SeqSlot) (f : FmtSI)
  /-- MULI (R164). Multiplies s[a] by a sign-extended immediate. -/
  | muli (u : SeqSlot) (f : FmtSI)
  /-- ANDI (R164). ANDs s[a] with a sign-extended immediate. -/
  | andi (u : SeqSlot) (f : FmtSI)
  /-- ORI (R164). ORs s[a] with a zero-extended immediate. -/
  | ori (u : SeqSlot) (f : FmtSI)
  /-- XORI (R164). XORs s[a] with a zero-extended immediate. -/
  | xori (u : SeqSlot) (f : FmtSI)
  /-- SHLI (R164). Shifts s[a] left by an immediate amount. -/
  | shli (u : SeqSlot) (f : FmtSI)
  /-- SHRI (R164). Shifts s[a] right by an immediate amount, arithmetically or logically. -/
  | shri (u : SeqSlot) (f : FmtSI)
  /-- MOVI (R164). Writes a sign-extended 23-bit immediate to s[d]. -/
  | movi (u : SeqSlot) (f : FmtSI)
  /-- MOVH (R164). Writes s[a] shifted left 23 bits ORed with a 23-bit immediate. -/
  | movh (u : SeqSlot) (f : FmtSI)
  /-- CMPI (R165). Compares s[a] with a 19-bit immediate and writes a sequencer predicate. -/
  | cmpi (u : SeqSlot) (f : FmtSI)
  /-- QAND (R165). Writes the AND of two sequencer predicates. -/
  | qand (u : SeqSlot) (f : FmtSR)
  /-- QOR (R165). Writes the OR of two sequencer predicates. -/
  | qor (u : SeqSlot) (f : FmtSR)
  /-- QXOR (R165). Writes the XOR of two sequencer predicates. -/
  | qxor (u : SeqSlot) (f : FmtSR)
  /-- QNOT (R165). Writes the inverse of a sequencer predicate. -/
  | qnot (u : SeqSlot) (f : FmtSR)
  /-- SLD (R183). Loads 1 to 8 bytes of the head die's shared SRAM, zero-extended, into s[d]. -/
  | sld (u : SeqSlot) (f : FmtSM)
  /-- SST (R183). Stores the low 1 to 8 bytes of s[d] into the head die's shared SRAM. -/
  | sst (u : SeqSlot) (f : FmtSM)
  /-- SAMO (R183). Performs an indivisible read-modify-write of a shared-SRAM doubleword and returns the old value. -/
  | samo (u : SeqSlot) (f : FmtSA)
  /-- BR (R167). Branches to a bundle offset relative to the branching bundle. -/
  | br (f : FmtSB)
  /-- CALL (R168). Pushes a return frame onto the call stack and branches. -/
  | call (f : FmtSB)
  /-- RET (R168). Pops a frame from the call stack and branches to its return address. -/
  | ret (f : FmtSB)
  /-- BRX (R167). Branches to the absolute bundle address s[a] plus an immediate. -/
  | brx (f : FmtSB)
  /-- BAGG (R171). Waits for the latest aggregate and branches on its ANY or ALL bit. -/
  | bagg (f : FmtSB)
  /-- LOOP (R169). Decrements a loop counter and branches while it, or the stage vector, is non-zero. -/
  | loop (f : FmtSB)
  /-- LOOPI (R169). Sets a loop counter from an immediate or from s[a]. -/
  | loopi (f : FmtSY)
  /-- MFS (R56). Reads a system register into s[d], waiting for flag merges where required. -/
  | mfs (f : FmtSY)
  /-- MTS (R56). Writes s[a] to a system register, subject to privilege checks. -/
  | mts (f : FmtSY)
  /-- FTSET (R172). Writes a format-table entry from s[a], trapping on a reserved encoding. -/
  | ftset (f : FmtSY)
  /-- MSKSET (R172). Writes a row, column or position mask from s[a]. -/
  | mskset (f : FmtSY)
  /-- ROT (R172). Sets the rotation size and resets the rotation base to zero. -/
  | rot (f : FmtSY)
  /-- STAGE (R170). Sets stage mode, stage vector and stage depth. -/
  | stage (f : FmtSY)
  /-- FPCLR (R111). Clears selected bytes of $fpf and the VALID bit of $fpev after earlier flags merge. -/
  | fpclr (f : FmtSY)
  /-- DSET (R108). Sets the Dandelion key, resets the word index and empties the random-bit queue. -/
  | dset (f : FmtSY)
  /-- TRAP (R339). Commits and then enters the trap handler with kind 15. -/
  | trap (f : FmtSY)
  /-- BRK (R339). Commits and then traps, or halts the task for an attached debugger. -/
  | brk (f : FmtSY)
  /-- ERET (R341). Lands pending handler results, leaves trap mode and resumes at $epc. -/
  | eret (f : FmtSY)
  /-- DONE (R307). Waits for outstanding work, releases at system scope and ends the task, freeing its chain. -/
  | done (f : FmtSY)
  /-- TWAIT (R212). Waits while a token slot is BUSY, then acquires, returns its status and frees it. -/
  | twait (f : FmtSY)
  /-- TSTAT (R212). Returns a token slot's state and status without waiting. -/
  | tstat (f : FmtSY)
  /-- RWAIT (R214). Waits until a ring holds at least n filled entries, then acquires. -/
  | rwait (f : FmtSY)
  /-- RFREE (R214). Waits until a ring has at least n free entries, then acquires. -/
  | rfree (f : FmtSY)
  /-- RADV (R214). Releases and advances a ring's producer or consumer count and cursor. -/
  | radv (f : FmtSY)
  /-- SEMW (R215). Joins a semaphore's wait list and commits when granted, subtracting the amount and acquiring. -/
  | semw (f : FmtSY)
  /-- SEMSIG (R215). Releases and adds an amount to a semaphore. -/
  | semsig (f : FmtSY)
  /-- BAR (R308). Arrives at a barrier of one level and waits until every member of its generation has arrived. -/
  | bar (f : FmtSY)
  /-- FENCE (R213). Waits for earlier accesses of the named classes to perform at a scope, ordering later ones after them. -/
  | fence (f : FmtSY)
  /-- REL (R213). Waits as fence and orders every later write after earlier accesses of the named classes. -/
  | rel (f : FmtSY)
  /-- ACQ (R213). Waits for earlier reads to perform and orders later accesses of the named classes after them. -/
  | acq (f : FmtSY)
  /-- LAUNCH (R304). Copies a launch record from shared SRAM into the pending-launch pool without blocking. -/
  | launch (f : FmtSY)
  /-- TRIG (R306). Marks the task triggered for mode-2 dependants and releases at module scope. -/
  | trig (f : FmtSY)
  /-- EVPOP (R216). Pops the oldest event-queue record into two scalar registers and acquires. -/
  | evpop (f : FmtSY)
  /-- NOP_V (R69). Vector no-operation in V0 or V1. -/
  | nopV (u : VSlot)
  /-- VADD (R137). Wrapping element-wise integer addition. -/
  | vadd (u : VSlot) (f : FmtV)
  /-- VSUB (R137). Wrapping element-wise integer subtraction. -/
  | vsub (u : VSlot) (f : FmtV)
  /-- VMUL (R137). Wrapping element-wise integer multiplication. -/
  | vmul (u : VSlot) (f : FmtV)
  /-- VMULH (R137). High half of element-wise integer products. -/
  | vmulh (u : VSlot) (f : FmtV)
  /-- VMAD (R137). Wrapping element-wise integer multiply-add into d. -/
  | vmad (u : VSlot) (f : FmtV)
  /-- VAND (R137). Element-wise bitwise AND. -/
  | vand (u : VSlot) (f : FmtV)
  /-- VOR (R137). Element-wise bitwise OR. -/
  | vor (u : VSlot) (f : FmtV)
  /-- VXOR (R137). Element-wise bitwise XOR. -/
  | vxor (u : VSlot) (f : FmtV)
  /-- VSHL (R137). Element-wise left shift. -/
  | vshl (u : VSlot) (f : FmtV)
  /-- VSHR (R137). Element-wise logical right shift. -/
  | vshr (u : VSlot) (f : FmtV)
  /-- VSAR (R137). Element-wise arithmetic right shift. -/
  | vsar (u : VSlot) (f : FmtV)
  /-- VMIN (R137). Element-wise integer minimum. -/
  | vmin (u : VSlot) (f : FmtV)
  /-- VMAX (R137). Element-wise integer maximum. -/
  | vmax (u : VSlot) (f : FmtV)
  /-- VABS (R137). Element-wise wrapping absolute value. -/
  | vabs (u : VSlot) (f : FmtV)
  /-- VCLZ (R137). Element-wise count of leading zeros. -/
  | vclz (u : VSlot) (f : FmtV)
  /-- VPOPC (R137). Element-wise count of ones. -/
  | vpopc (u : VSlot) (f : FmtV)
  /-- VADDS (R137). Element-wise saturating addition. -/
  | vadds (u : VSlot) (f : FmtV)
  /-- VSUBS (R137). Element-wise saturating subtraction. -/
  | vsubs (u : VSlot) (f : FmtV)
  /-- VCMP (R138). Element-wise integer compare into a mask or a predicate. -/
  | vcmp (u : VSlot) (f : FmtV)
  /-- VFADD (R140). Element-wise floating-point addition with one rounding. -/
  | vfadd (u : VSlot) (f : FmtV)
  /-- VFSUB (R140). Element-wise floating-point subtraction. -/
  | vfsub (u : VSlot) (f : FmtV)
  /-- VFMUL (R140). Element-wise floating-point multiplication. -/
  | vfmul (u : VSlot) (f : FmtV)
  /-- VFMA (R140). Element-wise fused multiply-add into d with one rounding. -/
  | vfma (u : VSlot) (f : FmtV)
  /-- VFMIN (R140). Element-wise floating-point minimum. -/
  | vfmin (u : VSlot) (f : FmtV)
  /-- VFMAX (R140). Element-wise floating-point maximum. -/
  | vfmax (u : VSlot) (f : FmtV)
  /-- VFABS (R140). Clears the sign bit of each element. -/
  | vfabs (u : VSlot) (f : FmtV)
  /-- VFNEG (R140). Inverts the sign bit of each element. -/
  | vfneg (u : VSlot) (f : FmtV)
  /-- VFCMP (R141). Element-wise floating-point compare into a mask or a predicate. -/
  | vfcmp (u : VSlot) (f : FmtV)
  /-- VFCLASS (R141). Writes a one-hot class code for each element. -/
  | vfclass (u : VSlot) (f : FmtV)
  /-- VRCP (R142). Correctly rounded reciprocal of each FP32 lane. -/
  | vrcp (u : VSlot) (f : FmtV)
  /-- VRSQ (R142). Correctly rounded reciprocal square root of each FP32 lane. -/
  | vrsq (u : VSlot) (f : FmtV)
  /-- VSQRT (R142). Correctly rounded square root of each FP32 lane. -/
  | vsqrt (u : VSlot) (f : FmtV)
  /-- VEXP2 (R142). Correctly rounded 2^x of each FP32 lane. -/
  | vexp2 (u : VSlot) (f : FmtV)
  /-- VLOG2 (R142). Correctly rounded log2 of each FP32 lane. -/
  | vlog2 (u : VSlot) (f : FmtV)
  /-- VTANH (R142). Correctly rounded tanh of each FP32 lane. -/
  | vtanh (u : VSlot) (f : FmtV)
  /-- VCVT (R145). Converts floating-point elements between floating formats. -/
  | vcvt (u : VSlot) (f : FmtV)
  /-- VCVTI (R145). Converts floating-point or integer elements to an integer format. -/
  | vcvti (u : VSlot) (f : FmtV)
  /-- VCVTF (R145). Converts integer elements to a floating format. -/
  | vcvtf (u : VSlot) (f : FmtV)
  /-- VPACK (R146). Packs 32 FP32 lanes into the element data of one MX block. -/
  | vpack (u : VSlot) (f : FmtV)
  /-- VMXS (R146). Writes the scale byte of the MX block packed from 32 FP32 lanes. -/
  | vmxs (u : VSlot) (f : FmtV)
  /-- VUNPK (R147). Expands packed E2M1, E3M2 or E2M3 elements exactly into E4M3. -/
  | vunpk (u : VSlot) (f : FmtV)
  /-- VCMPR (R148). Compresses a dense row 2:4 into kept elements or metadata nibbles. -/
  | vcmpr (u : VSlot) (f : FmtV)
  /-- VMOV (R149). Copies a register's bits. -/
  | vmov (u : VSlot) (f : FmtV)
  /-- VMOVI (R149). Sets every element to a 22-bit immediate. -/
  | vmovi (u : VSlot) (f : FmtV)
  /-- VSEL (R149). Selects each lane from a or b by a predicate. -/
  | vsel (u : VSlot) (f : FmtV)
  /-- VPERM (R149). Permutes elements of a by indices in b. -/
  | vperm (u : VSlot) (f : FmtV)
  /-- VSHUF (R149). Shuffles elements by a fixed pattern. -/
  | vshuf (u : VSlot) (f : FmtV)
  /-- VBCAST (R149). Broadcasts one element of a to every element. -/
  | vbcast (u : VSlot) (f : FmtV)
  /-- VRED (R150). Reduces the enabled elements to one value in element 0. -/
  | vred (u : VSlot) (f : FmtV)
  /-- VCOORD (R151). Writes a coordinate of the executing cell into each enabled lane. -/
  | vcoord (u : VSlot) (f : FmtV)
  /-- PAND (R152). Cell predicate AND. -/
  | pand (u : VSlot) (f : FmtV)
  /-- POR (R152). Cell predicate OR. -/
  | por (u : VSlot) (f : FmtV)
  /-- PXOR (R152). Cell predicate XOR. -/
  | pxor (u : VSlot) (f : FmtV)
  /-- PNOT (R152). Cell predicate NOT. -/
  | pnot (u : VSlot) (f : FmtV)
  /-- PSET (R152). Sets the first n lanes of a cell predicate within the part. -/
  | pset (u : VSlot) (f : FmtV)
  /-- PFLAG (R153). Sets the cell's aggregate flag from ANY or ALL of a predicate's lanes. -/
  | pflag (u : VSlot) (f : FmtV)
  /-- NOP_M (R79). Matrix no-operation. -/
  | nopM
  /-- MMA (R116). One exact-sum matrix step into an accumulator tile with a single rounding. -/
  | mma (f : FmtM)
  /-- MMAS (R123). A matrix step with a 2:4-compressed A fragment expanded by metadata. -/
  | mmas (f : FmtM)
  /-- MMAZ (R119). A matrix step that zeroes rows and columns selected by a predicate. -/
  | mmaz (f : FmtM)
  /-- ACLR (R120). Sets every element of a tile to zero. -/
  | aclr (f : FmtM)
  /-- ALD (R120). Copies eight vector registers into a tile. -/
  | ald (f : FmtM)
  /-- AST (R120). Copies a tile into eight vector registers. -/
  | ast (f : FmtM)
  /-- ADRN (R126). Pushes one drain row of column tiles, plain or summed north to south, into a drain queue. -/
  | adrn (f : FmtM)
  /-- ASCL (R121). Scales a tile by row and column factors into FP32. -/
  | ascl (f : FmtM)
  /-- AADD (R122). Adds a source tile into a tile. -/
  | aadd (f : FmtM)
  /-- NOP_X (R80). Cell-memory no-operation. -/
  | nopX
  /-- LDV (R156). Loads a cell-SRAM row into a register. -/
  | ldv (f : FmtX)
  /-- STV (R156). Stores a register into a cell-SRAM row. -/
  | stv (f : FmtX)
  /-- LDT (R157). Loads a cell-SRAM row transposed into B-fragment order. -/
  | ldt (f : FmtX)
  /-- MOVX (R156). Copies a readable name into the communication register x. -/
  | movx (f : FmtX)
  /-- MOVXP (R159). Copies a neighbour operand into both x and a vector register. -/
  | movxp (f : FmtX)
  /-- LDSP (R156). Loads a spill carve-out entry into a register. -/
  | ldsp (f : FmtX)
  /-- STSP (R156). Stores a register into a spill carve-out entry. -/
  | stsp (f : FmtX)
  /-- GTHL (R158). Gathers one word per lane from cell SRAM at per-lane offsets. -/
  | gthl (f : FmtX)
  /-- SCTL (R158). Scatters one word per lane into cell SRAM at per-lane offsets. -/
  | sctl (f : FmtX)
  /-- LDB (R156). Broadcasts one word of a cell-SRAM row to every lane. -/
  | ldb (f : FmtX)
  /-- RBPOP (R62). Pops one random-bit word at issue and makes it the bundle's current word. -/
  | rbpop
  /-- ROT_CC (R60). Decrements the rotation base after the bundle. -/
  | rotCc
  /-- SSHIFT (R61). Shifts or sets the stage vector after the bundle's cell part. -/
  | sshift (n : Nat)
  /-- NOP_LD (R85). Ingress no-operation. -/
  | nopLd
  /-- ELDW (R195). Loads 32 shared-SRAM segments into the west ingress pseudo-cells. -/
  | eldw (f : FmtEdge)
  /-- ELDN (R195). Loads 32 shared-SRAM segments into the north ingress pseudo-cells. -/
  | eldn (f : FmtEdge)
  /-- ELDWR (R193). Loads the next ring entry into the west pseudo-cells, claiming it at issue. -/
  | eldwr (f : FmtEdge)
  /-- ELDNR (R193). Loads the next ring entry into the north pseudo-cells, claiming it at issue. -/
  | eldnr (f : FmtEdge)
  /-- EWS (R195). Streams weight-store segments into the north pseudo-cells, avoiding refresh windows. -/
  | ews (f : FmtEdge)
  /-- EWIN (R199). Expands one convolution tap over 32 output positions at the west edge. -/
  | ewin (f : FmtEdge)
  /-- ELDT (R195). Loads 32 segments transposed by words into west or north pseudo-cells. -/
  | eldt (f : FmtEdge)
  /-- ELDB (R195). Loads one segment and delivers it to all 32 pseudo-cells of an edge. -/
  | eldb (f : FmtEdge)
  /-- NOP_ST (R85). Egress no-operation. -/
  | nopSt
  /-- ESTS (R196). Stores the south egress capture of row 31 into shared SRAM. -/
  | ests (f : FmtEdge)
  /-- ESTE (R196). Stores the east egress capture of column 31 into shared SRAM. -/
  | este (f : FmtEdge)
  /-- ESTSR (R193). Stores the south capture into a claimed ring entry. -/
  | estsr (f : FmtEdge)
  /-- EPOP (R197). Pops a drain row and stores its tiles converted to the target format. -/
  | epop (f : FmtEdge)
  /-- EPOPR (R197). Pops a drain row and stores it converted into a claimed ring entry. -/
  | epopr (f : FmtEdge)
  /-- ESTSA (R198). Adds the south capture atomically into FP32 words of shared SRAM. -/
  | estsa (f : FmtEdge)
  /-- NOP_E (R85). Engine no-operation. -/
  | nopE
  /-- DQATT (R233). Attaches a drain queue to the collective engine or lookup unit. -/
  | dqatt (f : FmtE)
  /-- DQDET (R233). Makes a drain-queue detach pending until the engine has popped its earlier rows. -/
  | dqdet (f : FmtE)
  /-- CPY (R237). Copies LEN bytes between endpoints with memmove semantics. -/
  | cpy (f : FmtE)
  /-- CPY2 (R237). Copies a two-dimensional block of rows. -/
  | cpy2 (f : FmtE)
  /-- CPYT (R237). Copies a matrix transposed. -/
  | cpyt (f : FmtE)
  /-- CPYP (R237). Copies a four-dimensional array with permuted dimensions. -/
  | cpyp (f : FmtE)
  /-- FILL (R237). Fills a destination with a repeated 64-bit pattern. -/
  | fill (f : FmtE)
  /-- WSLD (R237). Copies bytes into the weight store. -/
  | wsld (f : FmtE)
  /-- GTH2 (R238). Gathers two-dimensional patches listed by position, filling outside the extent. -/
  | gth2 (f : FmtE)
  /-- SCT2 (R238). Scatters dense patches into an image, dropping pixels outside the extent. -/
  | sct2 (f : FmtE)
  /-- GTHR (R238). Gathers rows listed by index. -/
  | gthr (f : FmtE)
  /-- SCTR (R238). Scatters rows to listed indices. -/
  | sctr (f : FmtE)
  /-- IDEC (R240). Decodes one image and resamples it into a patch sequence in a ring. -/
  | idec (f : FmtE)
  /-- RSC (R244). Reduce-scatter collective in ascending rank order. -/
  | rsc (f : FmtE)
  /-- AGT (R244). All-gather collective in rank order. -/
  | agt (f : FmtE)
  /-- ARD (R244). All-reduce collective in ascending rank order. -/
  | ard (f : FmtE)
  /-- BCS (R244). Broadcast collective from the root rank. -/
  | bcs (f : FmtE)
  /-- NMADD (R247). Sends return-free atomic FP32 row additions into a Hamper table. -/
  | nmadd (f : FmtE)
  /-- NMAMO (R247). Performs returning atomics on table elements and writes the old values. -/
  | nmamo (f : FmtE)
  /-- NMGS (R248). Gathers and weights table rows per stack, summing partials in stack order. -/
  | nmgs (f : FmtE)
  /-- NMDOT (R248). Computes dot products of table rows with query rows. -/
  | nmdot (f : FmtE)
  /-- NMOPT (R251). Applies an AdamW step to listed optimizer records, optionally under a guard word. -/
  | nmopt (f : FmtE)
  /-- NMFENCE (R253). Completes once every earlier return-free atomic to a buffer has performed. -/
  | nmfence (f : FmtE)
  /-- PKSEL (R258). Selects top product-key pairs and writes softmax-weighted selection records. -/
  | pksel (f : FmtE)
  /-- PKFWD (R262). Gathers and sums selected value rows per query into shared SRAM or a ring. -/
  | pkfwd (f : FmtE)
  /-- PKBWD (R264). Computes score gradients and optionally sends value-row gradient additions. -/
  | pkbwd (f : FmtE)
  /-- PKMRG (R265). Sorts index-payload pairs and merges duplicates. -/
  | pkmrg (f : FmtE)
  /-- VXGET (R279). Reads listed elements of a sparse volume, returning background where no tile exists. -/
  | vxget (f : FmtE)
  /-- VXPUT (R279). Writes listed elements of a sparse volume, allocating tiles as needed. -/
  | vxput (f : FmtE)
  /-- VXADD (R280). Atomically adds listed values into sparse-volume elements. -/
  | vxadd (f : FmtE)
  /-- VXINV (R284). Unlinks leaf tiles, optionally sets MODE, and shoots down every die's look-aside entries. -/
  | vxinv (f : FmtE)
  /-- VXTILE (R286). Pushes unlinked tile numbers back onto the tile free list. -/
  | vxtile (f : FmtE)
  /-- VXPOOL_INIT (R287). Initialises a volume from a descriptor image and shoots down its entries. -/
  | vxpoolInit (f : FmtE)
  /-- VXPOOL_ADDT (R287). Pushes a range of tile numbers onto the tile free list. -/
  | vxpoolAddt (f : FmtE)
  /-- VXPOOL_ADDN (R287). Pushes a range of node numbers onto the node free list. -/
  | vxpoolAddn (f : FmtE)
  /-- BUBBLE (R25). The head injects a bubble in a core cycle in which it issues nothing. -/
  | bubble (head : Nat)
  /-- CELL_EXECUTE (R27). A cell executes a bundle's cell part at its skewed cycle, releasing due held results. -/
  | cellExecute (head pos row col : Nat)
  /-- EDGE_SEGMENT_ACT (R28). An edge loader acts on a segment of a bundle's LD or ST operation at its nominal cycle. -/
  | edgeSegmentAct (head pos : Nat) (store : Bool) (seg : Nat)
  /-- EDGE_STORE_PERFORM (R196). An egress or drain write performs into shared SRAM after its capture. -/
  | edgeStorePerform (head pos : Nat)
  /-- RING_PRODUCER_PUBLISH (R193). P advances once a producing edge operation's writes have performed at every position. -/
  | ringProducerPublish (head ring : Nat)
  /-- RING_CONSUMER_PUBLISH (R193). C advances once a consuming edge operation's reads have performed at every position. -/
  | ringConsumerPublish (head ring : Nat)
  /-- AGGREGATE_COMPLETE (R44). The tail returns a bundle's ANY and ALL aggregate to the head. -/
  | aggregateComplete (head : Nat)
  /-- RANDOM_WORD_REFILL (R62). Dandelion appends the next word F(K, n) to the random-bit queue. -/
  | randomWordRefill (head : Nat)
  /-- WEIGHT_STORE_REFRESH (R188). A weight-store bank enters its refresh window as the module phase counter advances. -/
  | weightStoreRefresh (bank : Nat)
  /-- ENGINE_START (R226). An engine takes the head command of a queue once its bound producers complete. -/
  | engineStart (head cls die : Nat)
  /-- ENGINE_ELEMENT_PERFORM (R231). An engine performs one element of a started command through the memory port. -/
  | engineElementPerform (cmd : Nat)
  /-- ENGINE_COMPLETE (R229). A command completes, records its status in the token slot, releases and may append an event record. -/
  | engineComplete (cmd : Nat)
  /-- DQ_DETACH_COMPLETE (R233). A pending detach completes once the engine has popped every earlier row. -/
  | dqDetachComplete (head dq : Nat)
  /-- DRAIN_ROW_POP_ENGINE (R245). An attached engine pops a drain row as it arrives. -/
  | drainRowPopEngine (cmd : Nat)
  /-- COLLECTIVE_PERFORM (R243). A collective performs once all NP matching participants have been accepted. -/
  | collectivePerform (coll : Nat)
  /-- IDEC_PATCH_PUBLISH (R242). The decoder writes a patch into a free ring entry and advances P and IP. -/
  | idecPatchPublish (cmd : Nat)
  /-- PKFWD_RING_OUTPUT (R262). pkfwd writes an output into a free ring entry and advances P and IP. -/
  | pkfwdRingOutput (cmd : Nat)
  /-- NMOPT_GUARD_READ (R252). The Hamper unit rereads the guard word until it is non-zero, then applies or skips the step. -/
  | nmoptGuardRead (cmd : Nat)
  /-- RETURN_FREE_ADD_PERFORM (R219). An accepted return-free addition performs in its Hamper unit. -/
  | returnFreeAddPerform (add : Nat)
  /-- ALLOC_TRAP_TAKE (R288). The head takes a held allocation-failure trap before its next issue. -/
  | allocTrapTake (head : Nat)
  /-- SHOOTDOWN_ACK (R284). A die acknowledges a volume shoot-down once it holds no entry and its earlier elements performed. -/
  | shootdownAck (die cmd : Nat)
  /-- CONTEXT_END_FAULT (R344). An imprecise fault stops every task of its context and reports CTXEND. -/
  | contextEndFault (ctx : Nat)
  /-- SCHEDULE (R298). Rambler ranks candidates and binds, pre-empts or reserves windows at each event. -/
  | schedule
  /-- TIME_SLICE_EXPIRE (R300). A running task's time slice expires. -/
  | timeSliceExpire (head : Nat)
  /-- BLOCKING_QUANTUM_EXPIRE (R311). A task waiting at one bundle for the blocking quantum becomes yieldable. -/
  | blockingQuantumExpire (head : Nat)
  /-- PREEMPT (R347). Stops issue, drains the wavefront and saves the task image. -/
  | preempt (head : Nat)
  /-- RESUME (R347). Restores a saved task on its own arrays and resumes issue at PC. -/
  | resume (task : Nat)
  /-- SYSTEM_BAR_ARRIVAL (R309). A system-level barrier arrival or collective acceptance message reaches the domain home. -/
  | systemBarArrival (m : SysMsg)
  /-- SYSTEM_BAR_COMPLETION (R309). The home's completion message reaches a member's module, which acquires. -/
  | systemBarCompletion (m : SysMsg)
  /-- FLIT_RECEIVE (R357). A Koerorn Link flit arrives and is performed in sequence or dropped on a CRC failure. -/
  | flitReceive (port : Nat) (flit : Flit)
  /-- REPLAY_REQUEST (R357). A sender receives a request and replays flits from the named one. -/
  | replayRequest (port seq : Nat)
  /-- LINK_ACCESS_TIMEOUT (R357). An access not performed 10 ms after sending raises code 0xBE. -/
  | linkAccessTimeout (access : Nat)
  /-- REMOTE_ACCESS (R323). An access arriving from another module is checked and performed at the remote port. -/
  | remoteAccess (a : LinkAccess)
  /-- SCRUB_BURST (R356). The patrol scrubber reads a burst, corrects or poisons it and updates history. -/
  | scrubBurst (stack : Nat)
  /-- MIGRATION_COMMIT (R332). After its passes the migration holds writes, copies dirty lines and switches the frame. -/
  | migrationCommit (ctx : Nat)
  /-- INVALIDATION_COMPLETE (R329). An invalidation completes once every die dropped matching entries and their accesses performed. -/
  | invalidationComplete (ctx : Nat)
  /-- DRIVER_COPY_COMPLETE (R363). A driver copy finishes and DCST reads done or error. -/
  | driverCopyComplete (fn : Nat)
  /-- TAIL_WRITE (R293). The host writes a queue's TAIL to launch records, accepted or ignored with ERR. -/
  | tailWrite (r : Req) (ctx queue tail : Nat)
  /-- QDESC_WRITE (R292). A driver writes a queue descriptor, creating the queue. -/
  | qdescWrite (r : Req) (ctx queue : Nat) (d : Quad)
  /-- CDESC_WRITE (R364). A write of the context descriptor, ignored when structures lie outside the private extent. -/
  | cdescWrite (r : Req) (ctx : Nat) (d : Quad)
  /-- CONTEXT_CREATE (R365). Writing 1 to CCTL.LIVE creates the context from CDESC. -/
  | contextCreate (r : Req) (ctx : Nat)
  /-- CONTEXT_END (R320). Writing 0 to CCTL.LIVE ends the context and its sets report CTXEND. -/
  | contextEnd (r : Req) (ctx : Nat)
  /-- INVALIDATE (R329). A write to INVAL starts an invalidation of a buffer's pages. -/
  | invalidate (r : Req) (ctx val : Nat)
  /-- MIGRATION_START (R332). A MIGR write with GO starts or refuses a page migration. -/
  | migrationStart (r : Req) (ctx : Nat) (d : Quad)
  /-- MIGRATION_ABORT (R332). A MIGR abort write clears MG and keeps the old frame. -/
  | migrationAbort (r : Req) (ctx : Nat)
  /-- FAULT_RESUME (R342). FRES with resume restarts a command or held return-free additions after a D fault. -/
  | faultResume (r : Req) (ctx val : Nat)
  /-- FAULT_END_CONTEXT (R342). FRES with end terminates the context of a D fault. -/
  | faultEndContext (r : Req) (ctx val : Nat)
  /-- DEBUG_ATTACH (R353). DBG.ATTACH attaches a debugger to the context. -/
  | debugAttach (r : Req) (ctx : Nat) (on : Bool)
  /-- DEBUG_STOP (R353). DBG.STOP halts the task at the next bundle boundary with code 0xBF. -/
  | debugStop (r : Req) (ctx head : Nat)
  /-- DEBUG_RELEASE (R353). DBG.RELEASE lets Rambler resume a halted task. -/
  | debugRelease (r : Req) (ctx : Nat)
  /-- PARTITION_WRITE (R319). A write of a die's partition entry, refused on overlap, with gained bytes zeroed. -/
  | partitionWrite (r : Req) (ctx die d0 d1 : Nat)
  /-- PRIVEXT_WRITE (R364). A write of a function's private extent, refused when invalid, zeroing gained bytes. -/
  | privextWrite (r : Req) (ext base limit : Nat)
  /-- DRIVER_COPY_TO_DEVICE (R363). DCCTL GO with DIR 0 starts a host-to-device driver copy. -/
  | driverCopyToDevice (r : Req) (ctl : Nat)
  /-- DRIVER_COPY_TO_HOST (R363). DCCTL GO with DIR 1 starts a device-to-host driver copy. -/
  | driverCopyToHost (r : Req) (ctl : Nat)
  /-- FQDROP_CLEAR (R362). A write to FQDROP clears the dropped-record count. -/
  | fqdropClear (r : Req)
  /-- ERRLOG_CLEAR (R362). A write to ERRLOG clears the ignored-write log. -/
  | errlogClear (r : Req)
  /-- CLAIM (R368). A write to CLAIM makes its requester owner when none is valid. -/
  | claim (r : Req)
  /-- HANDOVER (R368). The owner passes ownership to another requester. -/
  | handover (r : Req) (newOwner : Nat)
  /-- BEAT (R368). The owner renews its lease. -/
  | beat (r : Req)
  /-- LEASE_EXPIRE (R368). With no BEAT for LEASE seconds, OWNER.VALID becomes 0. -/
  | leaseExpire
  /-- FEATGO (R367). Fixes the negotiated feature bits once per reset. -/
  | featgo (r : Req)
  /-- FWGO (R373). Reloads the firmware image by DMA and restarts bring-up at step 2. -/
  | fwgo (r : Req)
  /-- ATTGO (R376). Starts an attestation of the module identity. -/
  | attgo (r : Req)
  /-- ATTESTATION_COMPLETE (R376). The device writes the signed report and sets ATTST. -/
  | attestationComplete
  /-- PSTATE_OFF (R374). The owner writes 3 to PSTATE and the module powers off. -/
  | pstateOff (r : Req)
  /-- MODID_WRITE (R370). A write of the module ID, accepted only while PORTEN is 0, sets IDSET. -/
  | modidWrite (r : Req) (val : Nat)
  /-- REGISTER_WRITE (R367). A plain write to a register with no row of its own, ignored when out of range or unprivileged. -/
  | registerWrite (r : Req) (offset val : Nat)
  /-- PORT_TRAINING (R370). An enabled port with IDSET trains and comes up with its peer. -/
  | portTraining (port : Nat) (p : Peer)
  /-- RESET_RELEASE (R371). Release of reset runs the bring-up steps and reports each in BOOTSTAT. -/
  | resetRelease (b : BootResult)
  /-- POWER_STATE_ENTER (R374). The device enters the lowest allowed power state once its condition holds. -/
  | powerStateEnter (p : Nat)
  /-- POWER_STATE_EXIT (R374). A BAR0 access, TAIL write or arriving flit starts an exit to P0. -/
  | powerStateExit
  /-- POWER_THROTTLE (R375). Power above PLIM or a junction at 105 °C makes the heads inject bubbles. -/
  | powerThrottle
  /-- OVERTEMP_STOP (R375). A junction at 115 °C stops the module with code 0xBE. -/
  | overtempStop
  /-- MODULE_STOP (R359). An unowned uncorrectable error or a silent die stops the module and ends every context. -/
  | moduleStop (code : Nat)
  /-- POWER_FALLS_BACK (R375). Module power falls back below PLIM and the junction temperature falls below 105 °C, so the heads stop injecting throttle bubbles. -/
  | powerFallsBack
  deriving DecidableEq, Repr, Inhabited

end Sys2Proof
end

