-- ==== Sys2Proof/WellFormed.lean ====
section
/-! DEFINITION. Sys2Proof/WellFormed.lean: which instructions are well formed: every field within its width and every
static rule of R70 to R85 and of the chapters that own the operations kept. The decoder refuses, by the name of the
check, words whose fields fail one of them; R86 charges them as reserved fields. -/
namespace Sys2Proof

/-- The static checks, by name. -/
inductive Check where
  /-- A field wider than the format gives it; no encoded word fails this. -/
  | fieldWidth
  /-- A field the operation does not use is not zero (R72, R118, R137, R149, R156, R195, R196), or `nop` has another bit. -/
  | unusedField
  /-- qp 15 with qn 1 (R71). -/
  | guardNever
  /-- pred 24 to 30, or pneg with pred 31 (R75). -/
  | predicateCode
  /-- A type the operation does not accept (R77). -/
  | typeCode
  /-- A width code or part that is reserved (R76), or a width the operation does not accept. -/
  | widthOrPart
  /-- A source name 1536 to 2039 or 2046 (R59), or above p23 (R78). -/
  | sourceName
  /-- A name that is no destination (R59, R78). -/
  | destinationName
  /-- A condition code 6 or 7 (R73, R138). -/
  | conditionCode
  /-- A rounding mode, pattern, selector or modifier value that is reserved (R139, R143, R149, R150). -/
  | selectorCode
  /-- An index out of its range (R72). -/
  | indexRange
  /-- A count of 0 or above 4,096 (R72). -/
  | countRange
  /-- amo 10 to 15 (R74). -/
  | amoCode
  /-- Scope 6 or 7 (R84), or an empty class mask (R72). -/
  | scopeCode
  /-- DMODE 2 to 7 (R79). -/
  | drainMode
  /-- A swizzle the operation does not accept (R195, R196). -/
  | swizzleCode
  /-- An unassigned system-register number (R56), or `mskset` of index 0 (R86). -/
  | registerNumber
  /-- `pf` outside class 1, or AP in class 0 (R84). -/
  | engineFlag
  /-- A special-function operation in V0 (R78). -/
  | slotRule
  deriving DecidableEq, Repr, Inhabited

/-- The first check of a list that does not hold. -/
def firstFail (l : List (Bool × Check)) : Option Check :=
  match l with
  | [] => none
  | (ok, c) :: t => if ok then firstFail t else some c

/-- A readable cell name (R59). -/
def srcName (n : Nat) : Bool := decide (n ≤ 1535) || decide (2040 ≤ n ∧ n ≤ 2045) || n == 2047

/-- A name a vector result may go to (R59). -/
def dstName (n : Nat) : Bool := decide (n ≤ 1535) || n == 2040 || n == 2047

/-- A name outside the reserved ranges 1536 to 2039 and 2046 (R86). -/
def knownName (n : Nat) : Bool := srcName n

/-- Assigned system-register numbers (R56). -/
def sysNumber (n : Nat) : Bool :=
  decide (n ≤ 0xC) || decide (0x10 ≤ n ∧ n ≤ 0x14) || decide (0x18 ≤ n ∧ n ≤ 0x1A) || n == 0x1C || decide (0x40 ≤ n ∧ n ≤ 0x6F)

/-- The guard of R71 is not reserved. -/
def guardOk (qp qn : Nat) : Bool := !(qp == 15 && qn == 1)

/-- The predicate field of R75 is not reserved. -/
def predOk (pred pneg : Nat) : Bool := (decide (pred ≤ 23) && decide (pneg ≤ 1)) || (pred == 31 && pneg == 0)

/-- Field widths of S-R. -/
def FmtSR.fits (f : FmtSR) : Bool := decide (f.d < 64 ∧ f.a < 64 ∧ f.b < 64 ∧ f.qp < 16 ∧ f.qn < 2 ∧ f.k < 64)
/-- Field widths of S-I. -/
def FmtSI.fits (f : FmtSI) : Bool := decide (f.d < 64 ∧ f.a < 64 ∧ f.qp < 16 ∧ f.qn < 2 ∧ f.imm < 2 ^ 23)
/-- Field widths of S-M. -/
def FmtSM.fits (f : FmtSM) : Bool :=
  decide (f.d < 64 ∧ f.base < 64 ∧ f.qp < 16 ∧ f.qn < 2 ∧ f.size < 4 ∧ f.oc < 16 ∧ f.off < 2 ^ 17)
/-- Field widths of S-B. -/
def FmtSB.fits (f : FmtSB) : Bool := decide (f.qp < 16 ∧ f.qn < 2 ∧ f.a < 64 ∧ f.imm < 2 ^ 29)
/-- Field widths of S-Y. -/
def FmtSY.fits (f : FmtSY) : Bool := decide (f.d < 64 ∧ f.a < 64 ∧ f.qp < 16 ∧ f.qn < 2 ∧ f.func < 128 ∧ f.imm < 2 ^ 16)
/-- Field widths of S-A. -/
def FmtSA.fits (f : FmtSA) : Bool :=
  decide (f.d < 64 ∧ f.base < 64 ∧ f.value < 64 ∧ f.qp < 16 ∧ f.qn < 2 ∧ f.amo < 16 ∧ f.oc < 16 ∧ f.off < 512)
/-- Field widths of V0 and V1. -/
def FmtV.fits (f : FmtV) : Bool :=
  decide (f.width < 4 ∧ f.part < 4 ∧ f.type < 32 ∧ f.pred < 32 ∧ f.pneg < 2 ∧ f.d < 2048 ∧ f.a < 2048 ∧ f.b < 2048 ∧ f.aux < 64)
/-- Field widths of M. -/
def FmtM.fits (f : FmtM) : Bool :=
  decide (f.acc < 16 ∧ f.a < 2048 ∧ f.b < 2048 ∧ f.scale < 2048 ∧ f.fmt < 32 ∧ f.pred < 32 ∧ f.pneg < 2) &&
  decide (f.ah < 2 ∧ f.bh < 2 ∧ f.sstep < 4 ∧ f.clr < 2 ∧ f.dq < 4 ∧ f.dmode < 8)
/-- Field widths of X. -/
def FmtX.fits (f : FmtX) : Bool :=
  decide (f.v < 2048 ∧ f.addr < 2048 ∧ f.lcsel < 4 ∧ f.stride < 128 ∧ f.pred < 32 ∧ f.pneg < 2 ∧ f.aux < 32)
/-- Field widths of LD and ST. -/
def FmtEdge.fits (f : FmtEdge) : Bool :=
  decide (f.pack < 64 ∧ f.oc < 16 ∧ f.swz < 4 ∧ f.ring < 32 ∧ f.cp < 2 ∧ f.fmt < 32 ∧ f.rows < 2 ∧ f.imm < 2 ^ 16)
/-- Field widths of E. -/
def FmtE.fits (f : FmtE) : Bool :=
  decide (f.pack < 64 ∧ f.produce < 64 ∧ f.c0 < 64 ∧ f.c1 < 64 ∧ f.c2 < 64 ∧ f.oc < 16) &&
  decide (f.ev < 2 ∧ f.pf < 2 ∧ f.scope < 8 ∧ f.ap < 2)

/-- The checks every S-R operation shares, then `own`. -/
def FmtSR.checks (f : FmtSR) (own : List (Bool × Check)) : List (Bool × Check) :=
  (f.fits, .fieldWidth) :: (guardOk f.qp f.qn, .guardNever) :: own
/-- The checks every S-I operation shares. -/
def FmtSI.checks (f : FmtSI) (own : List (Bool × Check)) : List (Bool × Check) :=
  (f.fits, .fieldWidth) :: (guardOk f.qp f.qn, .guardNever) :: own
/-- The checks every S-B operation shares. -/
def FmtSB.checks (f : FmtSB) (own : List (Bool × Check)) : List (Bool × Check) :=
  (f.fits, .fieldWidth) :: (guardOk f.qp f.qn, .guardNever) :: own
/-- The checks every S-Y operation shares. -/
def FmtSY.checks (f : FmtSY) (own : List (Bool × Check)) : List (Bool × Check) :=
  (f.fits, .fieldWidth) :: (guardOk f.qp f.qn, .guardNever) :: own
/-- An S-Y operation all of whose fields are zero but the guard. -/
def FmtSY.bare (f : FmtSY) : Bool := decide (f.d = 0 ∧ f.a = 0 ∧ f.func = 0 ∧ f.imm = 0)

/-- Bits of a V part (R76). -/
def FmtV.bits (f : FmtV) : Nat := 256 * 2 ^ f.width
/-- Whether width and part are legal (R76). -/
def FmtV.partOk (f : FmtV) : Bool :=
  (f.width == 0) || (f.width == 1 && decide (f.part ≤ 1)) || (f.width == 2 && f.part == 0)
/-- Width 1024, the only one some operations accept. -/
def FmtV.full (f : FmtV) : Bool := f.width == 2
/-- The checks every V operation shares, then `own`. -/
def FmtV.checks (f : FmtV) (own : List (Bool × Check)) : List (Bool × Check) :=
  (f.fits, .fieldWidth) :: (predOk f.pred f.pneg, .predicateCode) :: (f.partOk, .widthOrPart) :: own
/-- Operands d, a, b all vector names. -/
def FmtV.dab (f : FmtV) : List (Bool × Check) :=
  [(dstName f.d, .destinationName), (srcName f.a, .sourceName), (srcName f.b, .sourceName)]
/-- Operands d and a vector names, b unused. -/
def FmtV.da (f : FmtV) : List (Bool × Check) :=
  [(dstName f.d, .destinationName), (srcName f.a, .sourceName), (f.b == 0, .unusedField)]
/-- Type codes `lo` to `hi`. -/
def FmtV.ty (f : FmtV) (lo hi : Nat) : Bool × Check := (decide (lo ≤ f.type ∧ f.type ≤ hi), .typeCode)
/-- aux unused. -/
def FmtV.noAux (f : FmtV) : Bool × Check := (f.aux == 0, .unusedField)
/-- Width in bits of an element of a type code (R77); 0 for a block format. -/
def elemBits (t : Nat) : Nat :=
  match t with
  | 0 | 4 | 11 | 12 => 8
  | 1 | 5 | 9 | 10 => 16
  | 2 | 6 | 8 => 32
  | 3 | 7 => 64
  | 13 => 4
  | _ => 0
/-- Ratio of the widths of two element types (R144). -/
def widthRatio (s d : Nat) : Nat := max (elemBits s) (elemBits d) / min (elemBits s) (elemBits d)
/-- An integer operation of types `lo` to `hi` with two sources (R137). -/
def FmtV.int2 (f : FmtV) : List (Bool × Check) := f.checks (f.ty 0 7 :: f.noAux :: f.dab)
/-- Floating arithmetic (R139): rounding mode and FTZ in aux. -/
def FmtV.float2 (f : FmtV) : List (Bool × Check) :=
  f.checks (f.ty 8 10 :: (decide (f.aux % 8 ≤ 3), .selectorCode) :: (decide (f.aux < 16), .unusedField) :: f.dab)
/-- Minimum and maximum (R140): FTZ only. -/
def FmtV.floatMm (f : FmtV) : List (Bool × Check) :=
  f.checks (f.ty 8 10 :: (f.aux == 0 || f.aux == 8, .unusedField) :: f.dab)
/-- `vfabs`, `vfneg` (R140). -/
def FmtV.floatBits (f : FmtV) : List (Bool × Check) := f.checks (f.ty 8 13 :: f.noAux :: f.da)
/-- A special function (R142); it stands only in V1. -/
def FmtV.special (f : FmtV) (u : VSlot) : List (Bool × Check) :=
  (u == .v1, .slotRule) :: f.checks (f.ty 8 8 :: (f.aux == 0 || f.aux == 8, .unusedField) :: f.da)
/-- d, a, b as predicate names of `n` of the three (R78); the others are unused. -/
def FmtV.preds (f : FmtV) (d a b : Bool) : List (Bool × Check) :=
  [(if d then decide (f.d ≤ 23) else true, .destinationName), (if d then true else f.d == 0, .unusedField),
   (if a then decide (f.a ≤ 23) else true, .sourceName), (if a then true else f.a == 0, .unusedField),
   (if b then decide (f.b ≤ 23) else true, .sourceName), (if b then true else f.b == 0, .unusedField)]
/-- A predicate operation (R152). -/
def FmtV.predOp (f : FmtV) (d a b : Bool) (own : List (Bool × Check)) : List (Bool × Check) :=
  f.checks (f.ty 0 0 :: own ++ f.preds d a b)
/-- A compare (R138, R141): condition up to `top`, predicate destination in aux 5 only for the types of `wide`. -/
def FmtV.compare (f : FmtV) (lo hi top : Nat) (auxOk wide : Bool) : List (Bool × Check) :=
  f.checks (f.ty lo hi :: (decide (f.aux % 8 ≤ top), .conditionCode) :: (auxOk, .unusedField) ::
    (if f.aux / 32 == 1 then decide (f.d ≤ 23) else dstName f.d, .destinationName) ::
    (decide (f.aux < 32) || wide, .typeCode) :: [(srcName f.a, .sourceName), (srcName f.b, .sourceName)])

/-- The conversion modifier of R143: source type. -/
def FmtV.stype (f : FmtV) : Nat := f.b / 64
/-- Its rounding mode. -/
def FmtV.crnd (f : FmtV) : Nat := f.b / 8 % 8
/-- Its SAT bit. -/
def FmtV.csat (f : FmtV) : Bool := f.b / 4 % 2 == 1
/-- Its FTZ bit. -/
def FmtV.cftz (f : FmtV) : Bool := f.b / 2 % 2 == 1
/-- A conversion (R144, R145): destination types, source types, and the modifier fields allowed. -/
def FmtV.convert (f : FmtV) (dlo dhi slo shi : Nat) (satOk ftzOk rndOk : Bool) : List (Bool × Check) :=
  f.checks (f.ty dlo dhi :: (decide (slo ≤ f.stype ∧ f.stype ≤ shi), .typeCode) ::
    (decide (f.crnd ≤ 4), .selectorCode) :: (rndOk || f.crnd == 0, .selectorCode) :: (satOk || !f.csat, .selectorCode) ::
    (ftzOk || !f.cftz, .selectorCode) :: (f.b % 2 == 0, .selectorCode) ::
    (decide (f.aux < 8), .unusedField) :: (decide (f.aux < widthRatio f.stype f.type), .selectorCode) ::
    [(dstName f.d, .destinationName), (srcName f.a, .sourceName)])

/-- The checks every M operation shares: the gate. -/
def FmtM.checks (f : FmtM) (own : List (Bool × Check)) : List (Bool × Check) :=
  (f.fits, .fieldWidth) :: (predOk f.pred f.pneg, .predicateCode) :: own
/-- Whether the fields a matrix step alone uses are zero. -/
def FmtM.noStep (f : FmtM) : Bool × Check := (decide (f.ah = 0 ∧ f.bh = 0 ∧ f.sstep = 0), .unusedField)
/-- DQ and DMODE unused. -/
def FmtM.noDrain (f : FmtM) : Bool × Check := (decide (f.dq = 0 ∧ f.dmode = 0), .unusedField)
/-- A matrix step (R118). -/
def FmtM.step (f : FmtM) : List (Bool × Check) :=
  f.checks [f.noDrain, (srcName f.a, .sourceName), (srcName f.b, .sourceName), (knownName f.scale, .sourceName)]

/-- The checks every X operation shares. -/
def FmtX.checks (f : FmtX) (own : List (Bool × Check)) : List (Bool × Check) :=
  (f.fits, .fieldWidth) :: (predOk f.pred f.pneg, .predicateCode) :: own
/-- No row or index. -/
def FmtX.noRow (f : FmtX) : Bool × Check := (decide (f.addr = 0 ∧ f.lcsel = 0 ∧ f.stride = 0), .unusedField)

/-- The checks every LD and ST operation shares: swizzle up to `swz`, the fields it does not use zero. -/
def FmtEdge.checks (f : FmtEdge) (swz : Nat) (ring rows fmt : Bool) : List (Bool × Check) :=
  [(f.fits, .fieldWidth), (decide (f.swz ≤ swz), .swizzleCode), (ring || f.ring == 0, .unusedField),
   (rows || f.rows == 0, .unusedField), (fmt || f.fmt == 0, .unusedField)]

/-- The checks every E operation of engine class `cls` shares; class 0 uses neither oc nor scope (R233). -/
def FmtE.checks (f : FmtE) (cls : Nat) : List (Bool × Check) :=
  [(f.fits, .fieldWidth), (decide (f.scope ≤ 5), .scopeCode), (f.pf == 0 || cls == 1, .engineFlag),
   (f.ap == 0 || cls != 0, .engineFlag), (cls != 0 || (f.oc == 0 && f.scope == 0), .unusedField)]

/-- The static checks of an instruction. The rows that are steps of other agents have none. -/
def Instr.checks : Instr → List (Bool × Check)
  | .selection p c r => [(decide (p < 16 ∧ c < 16 ∧ r < 16), .fieldWidth)]
  | .nopSeq _ => []
  | .add _ f => f.checks [(f.k == 0, .unusedField)]
  | .sub _ f => f.checks [(f.k == 0, .unusedField)]
  | .mul _ f => f.checks [(f.k == 0, .unusedField)]
  | .mulh _ f => f.checks [(decide (f.k ≤ 1), .unusedField)]
  | .div _ f => f.checks [(decide (f.k ≤ 1), .unusedField)]
  | .rem _ f => f.checks [(decide (f.k ≤ 1), .unusedField)]
  | .and _ f => f.checks [(f.k == 0, .unusedField)]
  | .or _ f => f.checks [(f.k == 0, .unusedField)]
  | .xor _ f => f.checks [(f.k == 0, .unusedField)]
  | .shl _ f => f.checks [(f.k == 0, .unusedField)]
  | .shr _ f => f.checks [(decide (f.k ≤ 1), .unusedField)]
  | .min _ f => f.checks [(decide (f.k ≤ 1), .unusedField)]
  | .max _ f => f.checks [(decide (f.k ≤ 1), .unusedField)]
  | .clz _ f => f.checks [(decide (f.b = 0 ∧ f.k = 0), .unusedField)]
  | .popc _ f => f.checks [(decide (f.b = 0 ∧ f.k = 0), .unusedField)]
  | .sel _ f => f.checks [(decide (f.k < 32), .unusedField)]
  | .addsc _ f => f.checks []
  | .cmp _ f => f.checks [(decide (f.d < 16), .indexRange), (decide (f.k % 8 ≤ 5), .conditionCode),
      (decide (f.k < 16), .unusedField)]
  | .bfx _ f => f.checks []
  | .bfi _ f => f.checks []
  | .addi _ f => f.checks []
  | .muli _ f => f.checks []
  | .andi _ f => f.checks []
  | .ori _ f => f.checks []
  | .xori _ f => f.checks []
  | .shli _ f => f.checks [(decide (f.imm < 64), .unusedField)]
  | .shri _ f => f.checks [(decide (f.imm < 128), .unusedField)]
  | .movi _ f => f.checks [(f.a == 0, .unusedField)]
  | .movh _ f => f.checks []
  | .cmpi _ f => f.checks [(decide (f.d < 16), .indexRange), (decide (f.imm / 2 ^ 20 ≤ 5), .conditionCode)]
  | .qand _ f => f.checks [(decide (f.d < 16 ∧ f.a < 16 ∧ f.b < 16), .indexRange), (f.k == 0, .unusedField)]
  | .qor _ f => f.checks [(decide (f.d < 16 ∧ f.a < 16 ∧ f.b < 16), .indexRange), (f.k == 0, .unusedField)]
  | .qxor _ f => f.checks [(decide (f.d < 16 ∧ f.a < 16 ∧ f.b < 16), .indexRange), (f.k == 0, .unusedField)]
  | .qnot _ f => f.checks [(decide (f.d < 16 ∧ f.a < 16), .indexRange), (decide (f.b = 0 ∧ f.k = 0), .unusedField)]
  | .sld _ f => [(f.fits, .fieldWidth), (guardOk f.qp f.qn, .guardNever)]
  | .sst _ f => [(f.fits, .fieldWidth), (guardOk f.qp f.qn, .guardNever)]
  | .samo _ f => [(f.fits, .fieldWidth), (guardOk f.qp f.qn, .guardNever), (decide (f.amo ≤ 9), .amoCode)]
  | .br f => f.checks [(f.a == 0, .unusedField)]
  | .call f => f.checks [(f.a == 0, .unusedField)]
  | .ret f => f.checks [(decide (f.a = 0 ∧ f.imm = 0), .unusedField)]
  | .brx f => f.checks []
  | .bagg f => f.checks [(decide (f.a < 4), .unusedField)]
  | .loop f => f.checks [(decide (f.a < 4), .unusedField)]
  | .loopi f => f.checks [(decide (f.d < 4), .indexRange), (decide (f.func ≤ 1), .selectorCode),
      (if f.func == 0 then f.a == 0 else f.imm == 0, .unusedField)]
  | .mfs f => f.checks [(sysNumber f.imm, .registerNumber), (decide (f.a = 0 ∧ f.func = 0), .unusedField)]
  | .mts f => f.checks [(sysNumber f.imm, .registerNumber), (decide (f.d = 0 ∧ f.func = 0), .unusedField)]
  | .ftset f => f.checks [(decide (f.d < 16), .indexRange), (decide (f.func = 0 ∧ f.imm = 0), .unusedField)]
  | .mskset f => f.checks [(decide (f.func ≤ 2), .selectorCode), (decide (1 ≤ f.d ∧ f.d < 16), .registerNumber),
      (f.imm == 0, .unusedField)]
  | .rot f => f.checks [(decide (f.d = 0 ∧ f.a = 0 ∧ f.func = 0 ∧ f.imm < 2048), .unusedField)]
  | .stage f => f.checks [(decide (f.d = 0 ∧ f.a = 0 ∧ f.func < 8 ∧ f.imm < 16), .unusedField)]
  | .fpclr f => f.checks [(decide (f.d = 0 ∧ f.a = 0 ∧ f.func = 0 ∧ f.imm < 32), .unusedField)]
  | .dset f => f.checks [(decide (f.d = 0 ∧ f.func = 0 ∧ f.imm = 0), .unusedField)]
  | .trap f => f.checks [(decide (f.d = 0 ∧ f.a = 0 ∧ f.func = 0), .unusedField)]
  | .brk f => f.checks [(decide (f.d = 0 ∧ f.a = 0 ∧ f.func = 0), .unusedField)]
  | .eret f => f.checks [(f.bare, .unusedField)]
  | .done f => f.checks [(f.bare, .unusedField)]
  | .twait f => f.checks [(decide (f.a = 0 ∧ f.func < 64 ∧ f.imm = 0), .unusedField)]
  | .tstat f => f.checks [(decide (f.a = 0 ∧ f.func < 64 ∧ f.imm = 0), .unusedField)]
  | .rwait f => f.checks [(decide (f.d = 0 ∧ f.a = 0 ∧ f.func < 32), .unusedField),
      (decide (1 ≤ f.imm ∧ f.imm ≤ 4096), .countRange)]
  | .rfree f => f.checks [(decide (f.d = 0 ∧ f.a = 0 ∧ f.func < 32), .unusedField),
      (decide (1 ≤ f.imm ∧ f.imm ≤ 4096), .countRange)]
  | .radv f => f.checks [(decide (f.d = 0 ∧ f.a = 0 ∧ f.func < 64), .unusedField),
      (decide (1 ≤ f.imm ∧ f.imm ≤ 4096), .countRange)]
  | .semw f => f.checks [(decide (f.d = 0 ∧ f.func = 0 ∧ f.imm < 4096), .unusedField)]
  | .semsig f => f.checks [(decide (f.d = 0 ∧ f.func = 0 ∧ f.imm < 4096), .unusedField)]
  | .bar f => f.checks [(decide (f.d = 0 ∧ f.a = 0 ∧ f.func < 4 ∧ f.imm = 0), .unusedField)]
  | .fence f => f.checks [(decide (f.d = 0 ∧ f.a = 0 ∧ f.func < 8), .unusedField), (decide (f.func ≤ 5 ∧ f.imm ≠ 0), .scopeCode)]
  | .rel f => f.checks [(decide (f.d = 0 ∧ f.a = 0 ∧ f.func < 8), .unusedField), (decide (f.func ≤ 5 ∧ f.imm ≠ 0), .scopeCode)]
  | .acq f => f.checks [(decide (f.d = 0 ∧ f.a = 0 ∧ f.func < 8), .unusedField), (decide (f.func ≤ 5 ∧ f.imm ≠ 0), .scopeCode)]
  | .launch f => f.checks [(decide (f.d < 16 ∧ f.func = 0 ∧ f.imm = 0), .unusedField)]
  | .trig f => f.checks [(f.bare, .unusedField)]
  | .evpop f => f.checks [(decide (f.d % 2 = 0 ∧ f.d ≤ 62), .indexRange),
      (decide (f.a = 0 ∧ f.func < 16 ∧ f.imm = 0), .unusedField)]
  | .nopV _ => []
  | .vadd _ f => f.int2
  | .vsub _ f => f.int2
  | .vmul _ f => f.int2
  | .vmulh _ f => f.int2
  | .vmad _ f => f.int2
  | .vand _ f => f.int2
  | .vor _ f => f.int2
  | .vxor _ f => f.int2
  | .vshl _ f => f.int2
  | .vshr _ f => f.int2
  | .vsar _ f => f.int2
  | .vmin _ f => f.int2
  | .vmax _ f => f.int2
  | .vabs _ f => f.checks (f.ty 0 3 :: f.noAux :: f.da)
  | .vclz _ f => f.checks (f.ty 0 7 :: f.noAux :: f.da)
  | .vpopc _ f => f.checks (f.ty 0 7 :: f.noAux :: f.da)
  | .vadds _ f => f.int2
  | .vsubs _ f => f.int2
  | .vcmp _ f => f.compare 0 7 5 (f.aux / 8 % 4 == 0) (f.type == 2 || f.type == 3 || f.type == 6 || f.type == 7)
  | .vfadd _ f => f.float2
  | .vfsub _ f => f.float2
  | .vfmul _ f => f.float2
  | .vfma _ f => f.float2
  | .vfmin _ f => f.floatMm
  | .vfmax _ f => f.floatMm
  | .vfabs _ f => f.floatBits
  | .vfneg _ f => f.floatBits
  | .vfcmp _ f => f.compare 8 10 7 (f.aux / 16 % 2 == 0) (f.type == 8)
  | .vfclass _ f => f.checks (f.ty 8 10 :: f.noAux :: f.da)
  | .vrcp u f => f.special u
  | .vrsq u f => f.special u
  | .vsqrt u f => f.special u
  | .vexp2 u f => f.special u
  | .vlog2 u f => f.special u
  | .vtanh u f => f.special u
  | .vcvt _ f => f.convert 8 13 8 13 true true true
  | .vcvti _ f => f.convert 0 7 0 12 (decide (f.stype < 8)) (decide (8 ≤ f.stype)) (decide (8 ≤ f.stype))
  | .vcvtf _ f => f.convert 8 13 0 7 true false true
  | .vpack _ f => f.checks (f.ty 14 16 :: (f.full, .widthOrPart) :: (decide (f.b ≤ 1), .selectorCode) ::
      (decide (f.aux < if f.type == 14 then 8 else 4), .selectorCode) :: [(dstName f.d, .destinationName), (srcName f.a, .sourceName)])
  | .vmxs _ f => f.checks (f.ty 14 16 :: (f.full, .widthOrPart) :: (decide (f.b ≤ 127), .selectorCode) :: f.noAux ::
      [(dstName f.d, .destinationName), (srcName f.a, .sourceName)])
  | .vunpk _ f => f.checks (f.ty 11 11 :: (f.full, .widthOrPart) :: (decide (f.aux % 4 ≤ 2), .selectorCode) ::
      (decide (f.aux < 8 ∧ (f.aux % 4 = 0 ∨ f.aux < 4)), .unusedField) :: f.da)
  | .vcmpr _ f => f.checks ((f.type == 0 || decide (9 ≤ f.type ∧ f.type ≤ 16), .typeCode) :: (f.full, .widthOrPart) ::
      (if decide (f.aux < 32) then decide (f.aux ≤ 1) else decide (f.aux / 8 % 4 = 0 ∧ f.aux % 2 = 0), .unusedField) :: f.da)
  | .vmov _ f => f.checks (f.ty 0 0 :: f.noAux :: f.da)
  | .vmovi _ f => f.checks (f.ty 0 10 :: f.noAux :: (decide (f.type ≤ 8) || decide (f.a * 2 ^ 11 + f.b < 2 ^ 16), .unusedField) ::
      [(dstName f.d, .destinationName)])
  | .vsel _ f => f.checks (f.ty 0 0 :: f.noAux :: (f.pred != 31, .predicateCode) :: f.dab)
  | .vperm _ f => f.checks ((f.type == 4 || f.type == 6, .typeCode) :: f.noAux :: f.dab)
  | .vshuf _ f => f.checks (f.ty 4 7 :: (decide (f.aux ≤ 5), .selectorCode) ::
      (decide (f.aux < 4) || f.b == 0, .unusedField) :: f.dab)
  | .vbcast _ f => f.checks (f.ty 4 7 :: f.noAux :: (decide (f.b < f.bits / elemBits f.type), .selectorCode) ::
      [(dstName f.d, .destinationName), (srcName f.a, .sourceName)])
  | .vred _ f => f.checks (f.ty 0 10 :: (decide (f.aux ≤ 5), .selectorCode) ::
      (decide (f.aux < 3 ∨ f.type ≤ 7), .typeCode) :: (decide (f.b % 8 ≤ 3), .selectorCode) :: (decide (f.b < 16) && (f.b == 0 || (decide (8 ≤ f.type) && f.aux == 0)), .unusedField) :: [(dstName f.d, .destinationName), (srcName f.a, .sourceName)])
  | .vcoord _ f => f.checks (f.ty 6 6 :: (decide (f.aux ≤ 4), .selectorCode) :: [(dstName f.d, .destinationName),
      (decide (f.a = 0 ∧ f.b = 0), .unusedField)])
  | .pand _ f => f.predOp true true true [f.noAux]
  | .por _ f => f.predOp true true true [f.noAux]
  | .pxor _ f => f.predOp true true true [f.noAux]
  | .pnot _ f => f.predOp true true false [f.noAux]
  | .pset _ f => f.predOp true false false [(decide (f.aux ≤ f.bits / 32), .selectorCode)]
  | .pflag _ f => f.predOp false true false [(decide (f.aux ≤ 1), .unusedField)]
  | .nopM => []
  | .mma f => f.step
  | .mmas f => f.step ++ [(f.bh == 0, .unusedField)]
  | .mmaz f => f.step
  | .aclr f => f.checks [f.noStep, f.noDrain, (decide (f.a = 0 ∧ f.b = 0 ∧ f.scale = 0 ∧ f.fmt = 0 ∧ f.clr = 0), .unusedField)]
  | .ald f => f.checks [f.noStep, f.noDrain, (decide (f.a ≤ 1535), .sourceName),
      (decide (f.b = 0 ∧ f.scale = 0 ∧ f.fmt = 0 ∧ f.clr = 0), .unusedField)]
  | .ast f => f.checks [f.noStep, f.noDrain, (decide (f.a ≤ 1535), .sourceName),
      (decide (f.b = 0 ∧ f.scale = 0 ∧ f.fmt = 0 ∧ f.clr = 0), .unusedField)]
  | .adrn f => f.checks [f.noStep, (decide (f.dmode ≤ 1), .drainMode),
      (decide (f.a = 0 ∧ f.b = 0 ∧ f.scale = 0 ∧ (f.dmode = 1 ∨ f.fmt = 0)), .unusedField)]
  | .ascl f => f.checks [f.noStep, f.noDrain, (srcName f.a, .sourceName),
      (decide (f.b = 0 ∧ f.scale = 0 ∧ f.clr = 0), .unusedField)]
  | .aadd f => f.checks [f.noStep, f.noDrain, (decide (f.a = 0 ∧ f.b < 16 ∧ f.scale = 0 ∧ f.clr = 0), .unusedField)]
  | .nopX => []
  | .ldv f => f.checks [(dstName f.v, .destinationName), (f.aux == 0, .unusedField)]
  | .stv f => f.checks [(srcName f.v, .sourceName), (f.aux == 0, .unusedField)]
  | .ldt f => f.checks [(dstName f.v, .destinationName), (decide (f.aux ≤ 1), .unusedField)]
  | .movx f => f.checks [(srcName f.v, .sourceName), f.noRow, (f.aux == 0, .unusedField)]
  | .movxp f => f.checks [(decide (f.v ≤ 1535), .destinationName), f.noRow, (decide (f.aux ≤ 3), .selectorCode)]
  | .ldsp f => f.checks [(dstName f.v, .destinationName), (f.aux == 0, .unusedField)]
  | .stsp f => f.checks [(srcName f.v, .sourceName), (f.aux == 0, .unusedField)]
  | .gthl f => f.checks [(decide (f.v ≤ 1535), .destinationName), (f.aux == 0, .unusedField)]
  | .sctl f => f.checks [(decide (f.v ≤ 1535), .sourceName), (f.aux == 0, .unusedField)]
  | .ldb f => f.checks [(dstName f.v, .destinationName)]
  | .rbpop => []
  | .rotCc => []
  | .sshift n => [(decide (n < 4), .fieldWidth)]
  | .nopLd => []
  | .eldw f => f.checks 3 false false (f.swz == 3)
  | .eldn f => f.checks 3 false false (f.swz == 3)
  | .eldwr f => f.checks 2 true true false
  | .eldnr f => f.checks 2 true true false
  | .ews f => f.checks 0 false false false
  | .ewin f => f.checks 2 false false false
  | .eldt f => f.checks 2 false true false
  | .eldb f => f.checks 3 false true (f.swz == 3)
  | .nopSt => []
  | .ests f => f.checks 3 false false (f.swz == 3)
  | .este f => f.checks 3 false false (f.swz == 3)
  | .estsr f => f.checks 2 true true false
  | .epop f => f.checks 3 true false true ++ [(decide (f.ring < 4), .unusedField)]
  | .epopr f => f.checks 2 true true true
  | .estsa f => f.checks 2 false false true
  | .nopE => []
  | .dqatt f => f.checks 0
  | .dqdet f => f.checks 0
  | .cpy f => f.checks 1
  | .cpy2 f => f.checks 1
  | .cpyt f => f.checks 1
  | .cpyp f => f.checks 1
  | .fill f => f.checks 1
  | .wsld f => f.checks 1
  | .gth2 f => f.checks 1
  | .sct2 f => f.checks 1
  | .gthr f => f.checks 1
  | .sctr f => f.checks 1
  | .idec f => f.checks 2
  | .rsc f => f.checks 3
  | .agt f => f.checks 3
  | .ard f => f.checks 3
  | .bcs f => f.checks 3
  | .nmadd f => f.checks 4
  | .nmamo f => f.checks 4
  | .nmgs f => f.checks 4
  | .nmdot f => f.checks 4
  | .nmopt f => f.checks 4
  | .nmfence f => f.checks 4
  | .pksel f => f.checks 5
  | .pkfwd f => f.checks 5
  | .pkbwd f => f.checks 5
  | .pkmrg f => f.checks 5
  | .vxget f => f.checks 6
  | .vxput f => f.checks 6
  | .vxadd f => f.checks 6
  | .vxinv f => f.checks 6
  | .vxtile f => f.checks 6
  | .vxpoolInit f => f.checks 6
  | .vxpoolAddt f => f.checks 6
  | .vxpoolAddn f => f.checks 6
  | .bubble _ => []
  | .cellExecute _ _ _ _ => []
  | .edgeSegmentAct _ _ _ _ => []
  | .edgeStorePerform _ _ => []
  | .ringProducerPublish _ _ => []
  | .ringConsumerPublish _ _ => []
  | .aggregateComplete _ => []
  | .randomWordRefill _ => []
  | .weightStoreRefresh _ => []
  | .engineStart _ _ _ => []
  | .engineElementPerform _ => []
  | .engineComplete _ => []
  | .dqDetachComplete _ _ => []
  | .drainRowPopEngine _ => []
  | .collectivePerform _ => []
  | .idecPatchPublish _ => []
  | .pkfwdRingOutput _ => []
  | .nmoptGuardRead _ => []
  | .returnFreeAddPerform _ => []
  | .allocTrapTake _ => []
  | .shootdownAck _ _ => []
  | .contextEndFault _ => []
  | .schedule => []
  | .timeSliceExpire _ => []
  | .blockingQuantumExpire _ => []
  | .preempt _ => []
  | .resume _ => []
  | .systemBarArrival _ => []
  | .systemBarCompletion _ => []
  | .flitReceive _ _ => []
  | .replayRequest _ _ => []
  | .linkAccessTimeout _ => []
  | .remoteAccess _ => []
  | .scrubBurst _ => []
  | .migrationCommit _ => []
  | .invalidationComplete _ => []
  | .driverCopyComplete _ => []
  | .tailWrite _ _ _ _ => []
  | .qdescWrite _ _ _ _ => []
  | .cdescWrite _ _ _ => []
  | .contextCreate _ _ => []
  | .contextEnd _ _ => []
  | .invalidate _ _ _ => []
  | .migrationStart _ _ _ => []
  | .migrationAbort _ _ => []
  | .faultResume _ _ _ => []
  | .faultEndContext _ _ _ => []
  | .debugAttach _ _ _ => []
  | .debugStop _ _ _ => []
  | .debugRelease _ _ => []
  | .partitionWrite _ _ _ _ _ => []
  | .privextWrite _ _ _ _ => []
  | .driverCopyToDevice _ _ => []
  | .driverCopyToHost _ _ => []
  | .fqdropClear _ => []
  | .errlogClear _ => []
  | .claim _ => []
  | .handover _ _ => []
  | .beat _ => []
  | .leaseExpire => []
  | .featgo _ => []
  | .fwgo _ => []
  | .attgo _ => []
  | .attestationComplete => []
  | .pstateOff _ => []
  | .modidWrite _ _ => []
  | .registerWrite _ _ _ => []
  | .portTraining _ _ => []
  | .resetRelease _ => []
  | .powerStateEnter _ => []
  | .powerStateExit => []
  | .powerThrottle => []
  | .overtempStop => []
  | .moduleStop _ => []
  | .powerFallsBack => []

/-- The first static check an instruction fails, if any. -/
def Instr.check (i : Instr) : Option Check := firstFail i.checks

/-- A well-formed instruction. -/
def Instr.wf (i : Instr) : Bool := i.check.isNone

end Sys2Proof
end

