-- ==== Sys2Proof/Decode.lean ====
section
/-! DEFINITION. Sys2Proof/Decode.lean: the bits of a bundle (R67 to R85). The decoder is total: every word of a slot
gives an instruction, or an error that names what is wrong (R86). The encoder writes the words of well-formed
instructions from the same tables. -/
namespace Sys2Proof

/-- The fields of a bundle (R67). -/
inductive Slot where
  | h | sa | sb | m | v0 | v1 | x | cc | ld | st | e
  deriving DecidableEq, Repr, Inhabited

/-- Lowest bit of a field of the bundle. -/
def Slot.lo : Slot → Nat
  | .h => 0 | .sa => 16 | .sb => 64 | .m => 112 | .v0 => 176 | .v1 => 240 | .x => 304 | .cc => 352 | .ld => 368 | .st => 416
  | .e => 464

/-- Width of a field of the bundle. -/
def Slot.width : Slot → Nat
  | .h | .cc => 16
  | .m | .v0 | .v1 => 64
  | _ => 48

/-- The trap source of a field: H counts as SA, CC as X (R86, R87). -/
def Slot.source : Slot → Nat
  | .h | .sa => 0 | .sb => 1 | .m => 2 | .v0 => 3 | .v1 => 4 | .x | .cc => 5 | .ld => 6 | .st => 7 | .e => 8

/-- The field of a sequencer slot. -/
def SeqSlot.slot : SeqSlot → Slot
  | .sa => .sa
  | .sb => .sb

/-- The field of a vector slot. -/
def VSlot.slot : VSlot → Slot
  | .v0 => .v0
  | .v1 => .v1

/-- A word that is no instruction: an unassigned opcode or one that may not stand in its slot (kind 0), or a static
check that fails (kind 1). -/
inductive DecErr where
  | illegal
  | reserved (c : Check)
  deriving DecidableEq, Repr, Inhabited

/-- The trap kind of R86. -/
def DecErr.kind : DecErr → Nat
  | .illegal => 0
  | .reserved _ => 1

/-! ## Formats (R70, R75, R79, R80, R83, R84) -/

/-- S-R. -/
def getSR (w : Nat) : FmtSR := ⟨bitsAt w 34 6, bitsAt w 28 6, bitsAt w 22 6, bitsAt w 18 4, bitsAt w 17 1, bitsAt w 11 6⟩
/-- S-R, less the opcode. -/
def putSR (f : FmtSR) : Nat :=
  f.d * 2 ^ 34 + f.a * 2 ^ 28 + f.b * 2 ^ 22 + f.qp * 2 ^ 18 + f.qn * 2 ^ 17 + f.k * 2 ^ 11
/-- S-I. -/
def getSI (w : Nat) : FmtSI := ⟨bitsAt w 34 6, bitsAt w 28 6, bitsAt w 24 4, bitsAt w 23 1, bitsAt w 0 23⟩
/-- S-I, less the opcode. -/
def putSI (f : FmtSI) : Nat := f.d * 2 ^ 34 + f.a * 2 ^ 28 + f.qp * 2 ^ 24 + f.qn * 2 ^ 23 + f.imm
/-- S-M. -/
def getSM (w : Nat) : FmtSM :=
  ⟨bitsAt w 34 6, bitsAt w 28 6, bitsAt w 24 4, bitsAt w 23 1, bitsAt w 21 2, bitsAt w 17 4, bitsAt w 0 17⟩
/-- S-M, less the opcode. -/
def putSM (f : FmtSM) : Nat :=
  f.d * 2 ^ 34 + f.base * 2 ^ 28 + f.qp * 2 ^ 24 + f.qn * 2 ^ 23 + f.size * 2 ^ 21 + f.oc * 2 ^ 17 + f.off
/-- S-B. -/
def getSB (w : Nat) : FmtSB := ⟨bitsAt w 36 4, bitsAt w 35 1, bitsAt w 29 6, bitsAt w 0 29⟩
/-- S-B, less the opcode. -/
def putSB (f : FmtSB) : Nat := f.qp * 2 ^ 36 + f.qn * 2 ^ 35 + f.a * 2 ^ 29 + f.imm
/-- S-Y. -/
def getSY (w : Nat) : FmtSY := ⟨bitsAt w 34 6, bitsAt w 28 6, bitsAt w 24 4, bitsAt w 23 1, bitsAt w 16 7, bitsAt w 0 16⟩
/-- S-Y, less the opcode. -/
def putSY (f : FmtSY) : Nat := f.d * 2 ^ 34 + f.a * 2 ^ 28 + f.qp * 2 ^ 24 + f.qn * 2 ^ 23 + f.func * 2 ^ 16 + f.imm
/-- S-A. -/
def getSA (w : Nat) : FmtSA :=
  ⟨bitsAt w 34 6, bitsAt w 28 6, bitsAt w 22 6, bitsAt w 18 4, bitsAt w 17 1, bitsAt w 13 4, bitsAt w 9 4, bitsAt w 0 9⟩
/-- S-A, less the opcode. -/
def putSA (f : FmtSA) : Nat :=
  f.d * 2 ^ 34 + f.base * 2 ^ 28 + f.value * 2 ^ 22 + f.qp * 2 ^ 18 + f.qn * 2 ^ 17 + f.amo * 2 ^ 13 + f.oc * 2 ^ 9 + f.off
/-- V0 and V1. -/
def getV (w : Nat) : FmtV :=
  ⟨bitsAt w 52 2, bitsAt w 50 2, bitsAt w 45 5, bitsAt w 40 5, bitsAt w 39 1, bitsAt w 28 11, bitsAt w 17 11, bitsAt w 6 11,
    bitsAt w 0 6⟩
/-- V0 and V1, less the opcode. -/
def putV (f : FmtV) : Nat :=
  f.width * 2 ^ 52 + f.part * 2 ^ 50 + f.type * 2 ^ 45 + f.pred * 2 ^ 40 + f.pneg * 2 ^ 39 + f.d * 2 ^ 28 + f.a * 2 ^ 17 +
    f.b * 2 ^ 6 + f.aux
/-- M. -/
def getM (w : Nat) : FmtM :=
  ⟨bitsAt w 54 4, bitsAt w 43 11, bitsAt w 32 11, bitsAt w 21 11, bitsAt w 16 5, bitsAt w 11 5, bitsAt w 10 1, bitsAt w 9 1,
    bitsAt w 8 1, bitsAt w 6 2, bitsAt w 5 1, bitsAt w 3 2, bitsAt w 0 3⟩
/-- M, less the opcode. -/
def putM (f : FmtM) : Nat :=
  f.acc * 2 ^ 54 + f.a * 2 ^ 43 + f.b * 2 ^ 32 + f.scale * 2 ^ 21 + f.fmt * 2 ^ 16 + f.pred * 2 ^ 11 + f.pneg * 2 ^ 10 +
    f.ah * 2 ^ 9 + f.bh * 2 ^ 8 + f.sstep * 2 ^ 6 + f.clr * 2 ^ 5 + f.dq * 2 ^ 3 + f.dmode
/-- X. -/
def getX (w : Nat) : FmtX :=
  ⟨bitsAt w 31 11, bitsAt w 20 11, bitsAt w 18 2, bitsAt w 11 7, bitsAt w 6 5, bitsAt w 5 1, bitsAt w 0 5⟩
/-- X, less the opcode. -/
def putX (f : FmtX) : Nat :=
  f.v * 2 ^ 31 + f.addr * 2 ^ 20 + f.lcsel * 2 ^ 18 + f.stride * 2 ^ 11 + f.pred * 2 ^ 6 + f.pneg * 2 ^ 5 + f.aux
/-- LD and ST. -/
def getEdge (w : Nat) : FmtEdge :=
  ⟨bitsAt w 34 6, bitsAt w 30 4, bitsAt w 28 2, bitsAt w 23 5, bitsAt w 22 1, bitsAt w 17 5, bitsAt w 16 1, bitsAt w 0 16⟩
/-- LD and ST, less the opcode. -/
def putEdge (f : FmtEdge) : Nat :=
  f.pack * 2 ^ 34 + f.oc * 2 ^ 30 + f.swz * 2 ^ 28 + f.ring * 2 ^ 23 + f.cp * 2 ^ 22 + f.fmt * 2 ^ 17 + f.rows * 2 ^ 16 + f.imm
/-- E. -/
def getE (w : Nat) : FmtE :=
  ⟨bitsAt w 34 6, bitsAt w 28 6, bitsAt w 22 6, bitsAt w 16 6, bitsAt w 10 6, bitsAt w 6 4, bitsAt w 5 1, bitsAt w 4 1,
    bitsAt w 1 3, bitsAt w 0 1⟩
/-- E, less the opcode. -/
def putE (f : FmtE) : Nat :=
  f.pack * 2 ^ 34 + f.produce * 2 ^ 28 + f.c0 * 2 ^ 22 + f.c1 * 2 ^ 16 + f.c2 * 2 ^ 10 + f.oc * 2 ^ 6 + f.ev * 2 ^ 5 +
    f.pf * 2 ^ 4 + f.scope * 2 + f.ap

/-! ## Opcode maps (R72, R78, R79, R80, R85) -/

/-- Operations of SA and SB in format S-R (R72), by opcode. -/
def seqR (u : SeqSlot) (w : Nat) : Option Instr :=
  match w / 2 ^ 40 with
  | 0x1 => some (.add u (getSR w))
  | 0x2 => some (.sub u (getSR w))
  | 0x3 => some (.mul u (getSR w))
  | 0x4 => some (.mulh u (getSR w))
  | 0x5 => some (.div u (getSR w))
  | 0x6 => some (.rem u (getSR w))
  | 0x7 => some (.and u (getSR w))
  | 0x8 => some (.or u (getSR w))
  | 0x9 => some (.xor u (getSR w))
  | 0xA => some (.shl u (getSR w))
  | 0xB => some (.shr u (getSR w))
  | 0xC => some (.min u (getSR w))
  | 0xD => some (.max u (getSR w))
  | 0xE => some (.clz u (getSR w))
  | 0xF => some (.popc u (getSR w))
  | 0x10 => some (.sel u (getSR w))
  | 0x11 => some (.addsc u (getSR w))
  | 0x12 => some (.cmp u (getSR w))
  | 0x13 => some (.bfx u (getSR w))
  | 0x14 => some (.bfi u (getSR w))
  | 0x2C => some (.qand u (getSR w))
  | 0x2D => some (.qor u (getSR w))
  | 0x2E => some (.qxor u (getSR w))
  | 0x2F => some (.qnot u (getSR w))
  | _ => none

/-- The other operations of SA and SB (R72), by opcode. -/
def seqI (u : SeqSlot) (w : Nat) : Option Instr :=
  match w / 2 ^ 40 with
  | 0x20 => some (.addi u (getSI w))
  | 0x21 => some (.muli u (getSI w))
  | 0x22 => some (.andi u (getSI w))
  | 0x23 => some (.ori u (getSI w))
  | 0x24 => some (.xori u (getSI w))
  | 0x25 => some (.shli u (getSI w))
  | 0x26 => some (.shri u (getSI w))
  | 0x27 => some (.movi u (getSI w))
  | 0x28 => some (.movh u (getSI w))
  | 0x29 => some (.cmpi u (getSI w))
  | 0x30 => some (.sld u (getSM w))
  | 0x31 => some (.sst u (getSM w))
  | 0x32 => some (.samo u (getSA w))
  | _ => none

/-- Control, system and synchronisation operations, which stand only in SB (R72), by opcode. -/
def seqCtl (w : Nat) : Option Instr :=
  match w / 2 ^ 40 with
  | 0x40 => some (.br (getSB w))
  | 0x41 => some (.call (getSB w))
  | 0x42 => some (.ret (getSB w))
  | 0x43 => some (.brx (getSB w))
  | 0x44 => some (.bagg (getSB w))
  | 0x45 => some (.loop (getSB w))
  | 0x46 => some (.loopi (getSY w))
  | 0x50 => some (.mfs (getSY w))
  | 0x51 => some (.mts (getSY w))
  | 0x52 => some (.ftset (getSY w))
  | 0x53 => some (.mskset (getSY w))
  | 0x54 => some (.rot (getSY w))
  | 0x55 => some (.stage (getSY w))
  | 0x56 => some (.fpclr (getSY w))
  | 0x57 => some (.dset (getSY w))
  | 0x58 => some (.trap (getSY w))
  | 0x59 => some (.eret (getSY w))
  | 0x5A => some (.brk (getSY w))
  | 0x5B => some (.done (getSY w))
  | 0x60 => some (.twait (getSY w))
  | 0x61 => some (.tstat (getSY w))
  | 0x62 => some (.rwait (getSY w))
  | 0x63 => some (.rfree (getSY w))
  | 0x64 => some (.radv (getSY w))
  | 0x65 => some (.semw (getSY w))
  | 0x66 => some (.semsig (getSY w))
  | 0x67 => some (.bar (getSY w))
  | 0x68 => some (.fence (getSY w))
  | 0x69 => some (.rel (getSY w))
  | 0x6A => some (.acq (getSY w))
  | 0x6B => some (.launch (getSY w))
  | 0x6C => some (.trig (getSY w))
  | 0x6D => some (.evpop (getSY w))
  | _ => none

/-- Operations of V0 and V1 (R78), by opcode. -/
def vecOp (u : VSlot) (w : Nat) : Option Instr :=
  match w / 2 ^ 54 with
  | 0x1 => some (.vadd u (getV w))
  | 0x2 => some (.vsub u (getV w))
  | 0x3 => some (.vmul u (getV w))
  | 0x4 => some (.vmulh u (getV w))
  | 0x5 => some (.vmad u (getV w))
  | 0x6 => some (.vand u (getV w))
  | 0x7 => some (.vor u (getV w))
  | 0x8 => some (.vxor u (getV w))
  | 0x9 => some (.vshl u (getV w))
  | 0xA => some (.vshr u (getV w))
  | 0xB => some (.vsar u (getV w))
  | 0xC => some (.vmin u (getV w))
  | 0xD => some (.vmax u (getV w))
  | 0xE => some (.vabs u (getV w))
  | 0xF => some (.vclz u (getV w))
  | 0x10 => some (.vpopc u (getV w))
  | 0x11 => some (.vadds u (getV w))
  | 0x12 => some (.vsubs u (getV w))
  | 0x13 => some (.vcmp u (getV w))
  | 0x40 => some (.vfadd u (getV w))
  | 0x41 => some (.vfsub u (getV w))
  | 0x42 => some (.vfmul u (getV w))
  | 0x43 => some (.vfma u (getV w))
  | 0x44 => some (.vfmin u (getV w))
  | 0x45 => some (.vfmax u (getV w))
  | 0x46 => some (.vfabs u (getV w))
  | 0x47 => some (.vfneg u (getV w))
  | 0x48 => some (.vfcmp u (getV w))
  | 0x49 => some (.vfclass u (getV w))
  | 0x80 => some (.vrcp u (getV w))
  | 0x81 => some (.vrsq u (getV w))
  | 0x82 => some (.vsqrt u (getV w))
  | 0x83 => some (.vexp2 u (getV w))
  | 0x84 => some (.vlog2 u (getV w))
  | 0x85 => some (.vtanh u (getV w))
  | 0xC0 => some (.vcvt u (getV w))
  | 0xC1 => some (.vcvti u (getV w))
  | 0xC2 => some (.vcvtf u (getV w))
  | 0xC3 => some (.vpack u (getV w))
  | 0xC4 => some (.vmxs u (getV w))
  | 0xC5 => some (.vunpk u (getV w))
  | 0xC6 => some (.vcmpr u (getV w))
  | 0x100 => some (.vmov u (getV w))
  | 0x101 => some (.vmovi u (getV w))
  | 0x102 => some (.vsel u (getV w))
  | 0x103 => some (.vperm u (getV w))
  | 0x104 => some (.vshuf u (getV w))
  | 0x105 => some (.vbcast u (getV w))
  | 0x106 => some (.vred u (getV w))
  | 0x107 => some (.vcoord u (getV w))
  | 0x140 => some (.pand u (getV w))
  | 0x141 => some (.por u (getV w))
  | 0x142 => some (.pxor u (getV w))
  | 0x143 => some (.pnot u (getV w))
  | 0x144 => some (.pset u (getV w))
  | 0x145 => some (.pflag u (getV w))
  | _ => none

/-- Operations of M (R79), by opcode. -/
def matOp (w : Nat) : Option Instr :=
  match w / 2 ^ 58 with
  | 0x1 => some (.mma (getM w))
  | 0x2 => some (.mmas (getM w))
  | 0x3 => some (.mmaz (getM w))
  | 0x4 => some (.aclr (getM w))
  | 0x5 => some (.ald (getM w))
  | 0x6 => some (.ast (getM w))
  | 0x7 => some (.adrn (getM w))
  | 0x8 => some (.ascl (getM w))
  | 0x9 => some (.aadd (getM w))
  | _ => none

/-- Operations of X (R80), by opcode. -/
def xOp (w : Nat) : Option Instr :=
  match w / 2 ^ 42 with
  | 0x1 => some (.ldv (getX w))
  | 0x2 => some (.stv (getX w))
  | 0x3 => some (.ldt (getX w))
  | 0x4 => some (.movx (getX w))
  | 0x5 => some (.movxp (getX w))
  | 0x6 => some (.ldsp (getX w))
  | 0x7 => some (.stsp (getX w))
  | 0x8 => some (.gthl (getX w))
  | 0x9 => some (.sctl (getX w))
  | 0xA => some (.ldb (getX w))
  | _ => none

/-- Operations of LD (R85), by opcode. -/
def ldOp (w : Nat) : Option Instr :=
  match w / 2 ^ 40 with
  | 0x1 => some (.eldw (getEdge w))
  | 0x2 => some (.eldn (getEdge w))
  | 0x3 => some (.eldwr (getEdge w))
  | 0x4 => some (.eldnr (getEdge w))
  | 0x5 => some (.ews (getEdge w))
  | 0x6 => some (.ewin (getEdge w))
  | 0x7 => some (.eldt (getEdge w))
  | 0x8 => some (.eldb (getEdge w))
  | _ => none

/-- Operations of ST (R85), by opcode. -/
def stOp (w : Nat) : Option Instr :=
  match w / 2 ^ 40 with
  | 0x1 => some (.ests (getEdge w))
  | 0x2 => some (.este (getEdge w))
  | 0x3 => some (.estsr (getEdge w))
  | 0x4 => some (.epop (getEdge w))
  | 0x5 => some (.epopr (getEdge w))
  | 0x6 => some (.estsa (getEdge w))
  | _ => none

/-- Operations of E (R85), by opcode. `vxpool` has one opcode: the operation its pack names is known at issue (R287). -/
def engOp (w : Nat) : Option Instr :=
  match w / 2 ^ 40 with
  | 0x1 => some (.dqatt (getE w))
  | 0x2 => some (.dqdet (getE w))
  | 0x10 => some (.cpy (getE w))
  | 0x11 => some (.cpy2 (getE w))
  | 0x12 => some (.cpyt (getE w))
  | 0x13 => some (.cpyp (getE w))
  | 0x14 => some (.fill (getE w))
  | 0x15 => some (.wsld (getE w))
  | 0x16 => some (.gth2 (getE w))
  | 0x17 => some (.sct2 (getE w))
  | 0x18 => some (.gthr (getE w))
  | 0x19 => some (.sctr (getE w))
  | 0x20 => some (.idec (getE w))
  | 0x30 => some (.rsc (getE w))
  | 0x31 => some (.agt (getE w))
  | 0x32 => some (.ard (getE w))
  | 0x33 => some (.bcs (getE w))
  | 0x40 => some (.nmadd (getE w))
  | 0x41 => some (.nmamo (getE w))
  | 0x42 => some (.nmgs (getE w))
  | 0x43 => some (.nmdot (getE w))
  | 0x44 => some (.nmopt (getE w))
  | 0x45 => some (.nmfence (getE w))
  | 0x50 => some (.pksel (getE w))
  | 0x51 => some (.pkfwd (getE w))
  | 0x52 => some (.pkbwd (getE w))
  | 0x53 => some (.pkmrg (getE w))
  | 0x60 => some (.vxget (getE w))
  | 0x61 => some (.vxput (getE w))
  | 0x62 => some (.vxadd (getE w))
  | 0x63 => some (.vxinv (getE w))
  | 0x64 => some (.vxtile (getE w))
  | 0x65 => some (.vxpoolInit (getE w))
  | _ => none

/-! ## The decoder -/

/-- Keep an instruction that passes its static checks. -/
def finish (o : Option Instr) : Except DecErr Instr :=
  match o with
  | none => .error .illegal
  | some i =>
    match i.check with
    | none => .ok i
    | some c => .error (.reserved c)

/-- A slot with opcode 0: `nop` if all zero, otherwise a reserved field (R86). -/
def nopOr (w : Nat) (i : Instr) : Except DecErr Instr := if w = 0 then .ok i else .error (.reserved .unusedField)

/-- SA or SB. -/
def decodeSeq (u : SeqSlot) (w : Nat) : Except DecErr Instr :=
  if w / 2 ^ 40 = 0 then nopOr w (.nopSeq u)
  else match seqR u w with
    | some i => if w % 2 ^ 11 = 0 then finish (some i) else .error (.reserved .unusedField)
    | none =>
      match seqI u w with
      | some i => finish (some i)
      | none =>
        match u with
        | .sa => .error .illegal
        | .sb => finish (seqCtl w)

/-- V0 or V1. A special-function operation in V0 is an illegal encoding (R86). -/
def decodeV (u : VSlot) (w : Nat) : Except DecErr Instr :=
  if w / 2 ^ 54 = 0 then nopOr w (.nopV u)
  else if u = .v0 ∧ 0x80 ≤ w / 2 ^ 54 ∧ w / 2 ^ 54 ≤ 0x85 then .error .illegal
  else finish (vecOp u w)

/-- H (R68). -/
def decodeH (w : Nat) : Except DecErr Instr :=
  if 2 ^ 12 ≤ w then .error (.reserved .unusedField) else .ok (.selection (bitsAt w 8 4) (bitsAt w 4 4) (bitsAt w 0 4))

/-- The operations of CC (R69): `rbpop`, `rot` and a non-zero stage shift, in that order. -/
def ccOps (w : Nat) : List Instr :=
  (if bitAt w 15 then [.rbpop] else []) ++ (if bitAt w 14 then [.rotCc] else []) ++
    (if bitsAt w 12 2 = 0 then [] else [.sshift (bitsAt w 12 2)])

/-- CC (R69). -/
def decodeCc (w : Nat) : Except DecErr (List Instr) :=
  if w % 2 ^ 12 = 0 then .ok (ccOps w) else .error (.reserved .unusedField)

/-- The operation a slot's bits hold. CC, which may hold several, is read by `decodeCc`; here it gives its first. -/
def decodeSlot (k : Slot) (w : Nat) : Except DecErr Instr :=
  match k with
  | .h => decodeH w
  | .sa => decodeSeq .sa w
  | .sb => decodeSeq .sb w
  | .v0 => decodeV .v0 w
  | .v1 => decodeV .v1 w
  | .m => if w / 2 ^ 58 = 0 then nopOr w .nopM else finish (matOp w)
  | .x => if w / 2 ^ 42 = 0 then nopOr w .nopX else finish (xOp w)
  | .ld => if w / 2 ^ 40 = 0 then nopOr w .nopLd else finish (ldOp w)
  | .st => if w / 2 ^ 40 = 0 then nopOr w .nopSt else finish (stOp w)
  | .e => if w / 2 ^ 40 = 0 then nopOr w .nopE else finish (engOp w)
  | .cc =>
    match decodeCc w with
    | .error e => .error e
    | .ok (i :: _) => .ok i
    | .ok [] => .ok (.sshift 0)

/-- The bits of a field of a bundle. -/
def slotBits (b : Bundle) (k : Slot) : Nat := bitsAt b.toNat k.lo k.width

/-! ## The encoder -/

/-- Opcode `op` above bit `sh` of a slot, beside the operand fields. -/
def opWord (k : Slot) (sh op fields : Nat) : Option (Slot × Nat) := some (k, op * 2 ^ sh + fields)

/-- The slot an instruction stands in and the bits of that slot. The steps of other agents have no encoding. -/
def encode (i : Instr) : Option (Slot × Nat) :=
  match i with
  | .selection p c r => some (.h, p * 2 ^ 8 + c * 2 ^ 4 + r)
  | .nopSeq u => some (u.slot, 0)
  | .add u f => opWord u.slot 40 0x1 (putSR f)
  | .sub u f => opWord u.slot 40 0x2 (putSR f)
  | .mul u f => opWord u.slot 40 0x3 (putSR f)
  | .mulh u f => opWord u.slot 40 0x4 (putSR f)
  | .div u f => opWord u.slot 40 0x5 (putSR f)
  | .rem u f => opWord u.slot 40 0x6 (putSR f)
  | .and u f => opWord u.slot 40 0x7 (putSR f)
  | .or u f => opWord u.slot 40 0x8 (putSR f)
  | .xor u f => opWord u.slot 40 0x9 (putSR f)
  | .shl u f => opWord u.slot 40 0xA (putSR f)
  | .shr u f => opWord u.slot 40 0xB (putSR f)
  | .min u f => opWord u.slot 40 0xC (putSR f)
  | .max u f => opWord u.slot 40 0xD (putSR f)
  | .clz u f => opWord u.slot 40 0xE (putSR f)
  | .popc u f => opWord u.slot 40 0xF (putSR f)
  | .sel u f => opWord u.slot 40 0x10 (putSR f)
  | .addsc u f => opWord u.slot 40 0x11 (putSR f)
  | .cmp u f => opWord u.slot 40 0x12 (putSR f)
  | .bfx u f => opWord u.slot 40 0x13 (putSR f)
  | .bfi u f => opWord u.slot 40 0x14 (putSR f)
  | .addi u f => opWord u.slot 40 0x20 (putSI f)
  | .muli u f => opWord u.slot 40 0x21 (putSI f)
  | .andi u f => opWord u.slot 40 0x22 (putSI f)
  | .ori u f => opWord u.slot 40 0x23 (putSI f)
  | .xori u f => opWord u.slot 40 0x24 (putSI f)
  | .shli u f => opWord u.slot 40 0x25 (putSI f)
  | .shri u f => opWord u.slot 40 0x26 (putSI f)
  | .movi u f => opWord u.slot 40 0x27 (putSI f)
  | .movh u f => opWord u.slot 40 0x28 (putSI f)
  | .cmpi u f => opWord u.slot 40 0x29 (putSI f)
  | .qand u f => opWord u.slot 40 0x2C (putSR f)
  | .qor u f => opWord u.slot 40 0x2D (putSR f)
  | .qxor u f => opWord u.slot 40 0x2E (putSR f)
  | .qnot u f => opWord u.slot 40 0x2F (putSR f)
  | .sld u f => opWord u.slot 40 0x30 (putSM f)
  | .sst u f => opWord u.slot 40 0x31 (putSM f)
  | .samo u f => opWord u.slot 40 0x32 (putSA f)
  | .br f => opWord .sb 40 0x40 (putSB f)
  | .call f => opWord .sb 40 0x41 (putSB f)
  | .ret f => opWord .sb 40 0x42 (putSB f)
  | .brx f => opWord .sb 40 0x43 (putSB f)
  | .bagg f => opWord .sb 40 0x44 (putSB f)
  | .loop f => opWord .sb 40 0x45 (putSB f)
  | .loopi f => opWord .sb 40 0x46 (putSY f)
  | .mfs f => opWord .sb 40 0x50 (putSY f)
  | .mts f => opWord .sb 40 0x51 (putSY f)
  | .ftset f => opWord .sb 40 0x52 (putSY f)
  | .mskset f => opWord .sb 40 0x53 (putSY f)
  | .rot f => opWord .sb 40 0x54 (putSY f)
  | .stage f => opWord .sb 40 0x55 (putSY f)
  | .fpclr f => opWord .sb 40 0x56 (putSY f)
  | .dset f => opWord .sb 40 0x57 (putSY f)
  | .trap f => opWord .sb 40 0x58 (putSY f)
  | .brk f => opWord .sb 40 0x5A (putSY f)
  | .eret f => opWord .sb 40 0x59 (putSY f)
  | .done f => opWord .sb 40 0x5B (putSY f)
  | .twait f => opWord .sb 40 0x60 (putSY f)
  | .tstat f => opWord .sb 40 0x61 (putSY f)
  | .rwait f => opWord .sb 40 0x62 (putSY f)
  | .rfree f => opWord .sb 40 0x63 (putSY f)
  | .radv f => opWord .sb 40 0x64 (putSY f)
  | .semw f => opWord .sb 40 0x65 (putSY f)
  | .semsig f => opWord .sb 40 0x66 (putSY f)
  | .bar f => opWord .sb 40 0x67 (putSY f)
  | .fence f => opWord .sb 40 0x68 (putSY f)
  | .rel f => opWord .sb 40 0x69 (putSY f)
  | .acq f => opWord .sb 40 0x6A (putSY f)
  | .launch f => opWord .sb 40 0x6B (putSY f)
  | .trig f => opWord .sb 40 0x6C (putSY f)
  | .evpop f => opWord .sb 40 0x6D (putSY f)
  | .nopV u => some (u.slot, 0)
  | .vadd u f => opWord u.slot 54 0x1 (putV f)
  | .vsub u f => opWord u.slot 54 0x2 (putV f)
  | .vmul u f => opWord u.slot 54 0x3 (putV f)
  | .vmulh u f => opWord u.slot 54 0x4 (putV f)
  | .vmad u f => opWord u.slot 54 0x5 (putV f)
  | .vand u f => opWord u.slot 54 0x6 (putV f)
  | .vor u f => opWord u.slot 54 0x7 (putV f)
  | .vxor u f => opWord u.slot 54 0x8 (putV f)
  | .vshl u f => opWord u.slot 54 0x9 (putV f)
  | .vshr u f => opWord u.slot 54 0xA (putV f)
  | .vsar u f => opWord u.slot 54 0xB (putV f)
  | .vmin u f => opWord u.slot 54 0xC (putV f)
  | .vmax u f => opWord u.slot 54 0xD (putV f)
  | .vabs u f => opWord u.slot 54 0xE (putV f)
  | .vclz u f => opWord u.slot 54 0xF (putV f)
  | .vpopc u f => opWord u.slot 54 0x10 (putV f)
  | .vadds u f => opWord u.slot 54 0x11 (putV f)
  | .vsubs u f => opWord u.slot 54 0x12 (putV f)
  | .vcmp u f => opWord u.slot 54 0x13 (putV f)
  | .vfadd u f => opWord u.slot 54 0x40 (putV f)
  | .vfsub u f => opWord u.slot 54 0x41 (putV f)
  | .vfmul u f => opWord u.slot 54 0x42 (putV f)
  | .vfma u f => opWord u.slot 54 0x43 (putV f)
  | .vfmin u f => opWord u.slot 54 0x44 (putV f)
  | .vfmax u f => opWord u.slot 54 0x45 (putV f)
  | .vfabs u f => opWord u.slot 54 0x46 (putV f)
  | .vfneg u f => opWord u.slot 54 0x47 (putV f)
  | .vfcmp u f => opWord u.slot 54 0x48 (putV f)
  | .vfclass u f => opWord u.slot 54 0x49 (putV f)
  | .vrcp u f => opWord u.slot 54 0x80 (putV f)
  | .vrsq u f => opWord u.slot 54 0x81 (putV f)
  | .vsqrt u f => opWord u.slot 54 0x82 (putV f)
  | .vexp2 u f => opWord u.slot 54 0x83 (putV f)
  | .vlog2 u f => opWord u.slot 54 0x84 (putV f)
  | .vtanh u f => opWord u.slot 54 0x85 (putV f)
  | .vcvt u f => opWord u.slot 54 0xC0 (putV f)
  | .vcvti u f => opWord u.slot 54 0xC1 (putV f)
  | .vcvtf u f => opWord u.slot 54 0xC2 (putV f)
  | .vpack u f => opWord u.slot 54 0xC3 (putV f)
  | .vmxs u f => opWord u.slot 54 0xC4 (putV f)
  | .vunpk u f => opWord u.slot 54 0xC5 (putV f)
  | .vcmpr u f => opWord u.slot 54 0xC6 (putV f)
  | .vmov u f => opWord u.slot 54 0x100 (putV f)
  | .vmovi u f => opWord u.slot 54 0x101 (putV f)
  | .vsel u f => opWord u.slot 54 0x102 (putV f)
  | .vperm u f => opWord u.slot 54 0x103 (putV f)
  | .vshuf u f => opWord u.slot 54 0x104 (putV f)
  | .vbcast u f => opWord u.slot 54 0x105 (putV f)
  | .vred u f => opWord u.slot 54 0x106 (putV f)
  | .vcoord u f => opWord u.slot 54 0x107 (putV f)
  | .pand u f => opWord u.slot 54 0x140 (putV f)
  | .por u f => opWord u.slot 54 0x141 (putV f)
  | .pxor u f => opWord u.slot 54 0x142 (putV f)
  | .pnot u f => opWord u.slot 54 0x143 (putV f)
  | .pset u f => opWord u.slot 54 0x144 (putV f)
  | .pflag u f => opWord u.slot 54 0x145 (putV f)
  | .nopM => some (.m, 0)
  | .mma f => opWord .m 58 0x1 (putM f)
  | .mmas f => opWord .m 58 0x2 (putM f)
  | .mmaz f => opWord .m 58 0x3 (putM f)
  | .aclr f => opWord .m 58 0x4 (putM f)
  | .ald f => opWord .m 58 0x5 (putM f)
  | .ast f => opWord .m 58 0x6 (putM f)
  | .adrn f => opWord .m 58 0x7 (putM f)
  | .ascl f => opWord .m 58 0x8 (putM f)
  | .aadd f => opWord .m 58 0x9 (putM f)
  | .nopX => some (.x, 0)
  | .ldv f => opWord .x 42 0x1 (putX f)
  | .stv f => opWord .x 42 0x2 (putX f)
  | .ldt f => opWord .x 42 0x3 (putX f)
  | .movx f => opWord .x 42 0x4 (putX f)
  | .movxp f => opWord .x 42 0x5 (putX f)
  | .ldsp f => opWord .x 42 0x6 (putX f)
  | .stsp f => opWord .x 42 0x7 (putX f)
  | .gthl f => opWord .x 42 0x8 (putX f)
  | .sctl f => opWord .x 42 0x9 (putX f)
  | .ldb f => opWord .x 42 0xA (putX f)
  | .rbpop => some (.cc, 2 ^ 15)
  | .rotCc => some (.cc, 2 ^ 14)
  | .sshift n => some (.cc, n * 2 ^ 12)
  | .nopLd => some (.ld, 0)
  | .eldw f => opWord .ld 40 0x1 (putEdge f)
  | .eldn f => opWord .ld 40 0x2 (putEdge f)
  | .eldwr f => opWord .ld 40 0x3 (putEdge f)
  | .eldnr f => opWord .ld 40 0x4 (putEdge f)
  | .ews f => opWord .ld 40 0x5 (putEdge f)
  | .ewin f => opWord .ld 40 0x6 (putEdge f)
  | .eldt f => opWord .ld 40 0x7 (putEdge f)
  | .eldb f => opWord .ld 40 0x8 (putEdge f)
  | .nopSt => some (.st, 0)
  | .ests f => opWord .st 40 0x1 (putEdge f)
  | .este f => opWord .st 40 0x2 (putEdge f)
  | .estsr f => opWord .st 40 0x3 (putEdge f)
  | .epop f => opWord .st 40 0x4 (putEdge f)
  | .epopr f => opWord .st 40 0x5 (putEdge f)
  | .estsa f => opWord .st 40 0x6 (putEdge f)
  | .nopE => some (.e, 0)
  | .dqatt f => opWord .e 40 0x1 (putE f)
  | .dqdet f => opWord .e 40 0x2 (putE f)
  | .cpy f => opWord .e 40 0x10 (putE f)
  | .cpy2 f => opWord .e 40 0x11 (putE f)
  | .cpyt f => opWord .e 40 0x12 (putE f)
  | .cpyp f => opWord .e 40 0x13 (putE f)
  | .fill f => opWord .e 40 0x14 (putE f)
  | .wsld f => opWord .e 40 0x15 (putE f)
  | .gth2 f => opWord .e 40 0x16 (putE f)
  | .sct2 f => opWord .e 40 0x17 (putE f)
  | .gthr f => opWord .e 40 0x18 (putE f)
  | .sctr f => opWord .e 40 0x19 (putE f)
  | .idec f => opWord .e 40 0x20 (putE f)
  | .rsc f => opWord .e 40 0x30 (putE f)
  | .agt f => opWord .e 40 0x31 (putE f)
  | .ard f => opWord .e 40 0x32 (putE f)
  | .bcs f => opWord .e 40 0x33 (putE f)
  | .nmadd f => opWord .e 40 0x40 (putE f)
  | .nmamo f => opWord .e 40 0x41 (putE f)
  | .nmgs f => opWord .e 40 0x42 (putE f)
  | .nmdot f => opWord .e 40 0x43 (putE f)
  | .nmopt f => opWord .e 40 0x44 (putE f)
  | .nmfence f => opWord .e 40 0x45 (putE f)
  | .pksel f => opWord .e 40 0x50 (putE f)
  | .pkfwd f => opWord .e 40 0x51 (putE f)
  | .pkbwd f => opWord .e 40 0x52 (putE f)
  | .pkmrg f => opWord .e 40 0x53 (putE f)
  | .vxget f => opWord .e 40 0x60 (putE f)
  | .vxput f => opWord .e 40 0x61 (putE f)
  | .vxadd f => opWord .e 40 0x62 (putE f)
  | .vxinv f => opWord .e 40 0x63 (putE f)
  | .vxtile f => opWord .e 40 0x64 (putE f)
  | .vxpoolInit f => opWord .e 40 0x65 (putE f)
  | .vxpoolAddt f => opWord .e 40 0x65 (putE f)
  | .vxpoolAddn f => opWord .e 40 0x65 (putE f)
  | .bubble _ => none
  | .cellExecute _ _ _ _ => none
  | .edgeSegmentAct _ _ _ _ => none
  | .edgeStorePerform _ _ => none
  | .ringProducerPublish _ _ => none
  | .ringConsumerPublish _ _ => none
  | .aggregateComplete _ => none
  | .randomWordRefill _ => none
  | .weightStoreRefresh _ => none
  | .engineStart _ _ _ => none
  | .engineElementPerform _ => none
  | .engineComplete _ => none
  | .dqDetachComplete _ _ => none
  | .drainRowPopEngine _ => none
  | .collectivePerform _ => none
  | .idecPatchPublish _ => none
  | .pkfwdRingOutput _ => none
  | .nmoptGuardRead _ => none
  | .returnFreeAddPerform _ => none
  | .allocTrapTake _ => none
  | .shootdownAck _ _ => none
  | .contextEndFault _ => none
  | .schedule => none
  | .timeSliceExpire _ => none
  | .blockingQuantumExpire _ => none
  | .preempt _ => none
  | .resume _ => none
  | .systemBarArrival _ => none
  | .systemBarCompletion _ => none
  | .flitReceive _ _ => none
  | .replayRequest _ _ => none
  | .linkAccessTimeout _ => none
  | .remoteAccess _ => none
  | .scrubBurst _ => none
  | .migrationCommit _ => none
  | .invalidationComplete _ => none
  | .driverCopyComplete _ => none
  | .tailWrite _ _ _ _ => none
  | .qdescWrite _ _ _ _ => none
  | .cdescWrite _ _ _ => none
  | .contextCreate _ _ => none
  | .contextEnd _ _ => none
  | .invalidate _ _ _ => none
  | .migrationStart _ _ _ => none
  | .migrationAbort _ _ => none
  | .faultResume _ _ _ => none
  | .faultEndContext _ _ _ => none
  | .debugAttach _ _ _ => none
  | .debugStop _ _ _ => none
  | .debugRelease _ _ => none
  | .partitionWrite _ _ _ _ _ => none
  | .privextWrite _ _ _ _ => none
  | .driverCopyToDevice _ _ => none
  | .driverCopyToHost _ _ => none
  | .fqdropClear _ => none
  | .errlogClear _ => none
  | .claim _ => none
  | .handover _ _ => none
  | .beat _ => none
  | .leaseExpire => none
  | .featgo _ => none
  | .fwgo _ => none
  | .attgo _ => none
  | .attestationComplete => none
  | .pstateOff _ => none
  | .modidWrite _ _ => none
  | .registerWrite _ _ _ => none
  | .portTraining _ _ => none
  | .resetRelease _ => none
  | .powerStateEnter _ => none
  | .powerStateExit => none
  | .powerThrottle => none
  | .overtempStop => none
  | .moduleStop _ => none
  | .powerFallsBack => none

/-- What the decoder reads back: `vxpool`'s three rows share one opcode, told apart at issue (R287). -/
def Instr.asDecoded (i : Instr) : Instr :=
  match i with
  | .vxpoolAddt f => .vxpoolInit f
  | .vxpoolAddn f => .vxpoolInit f
  | i => i

/-- A bundle that holds one instruction and is zero elsewhere. -/
def bundleOf (i : Instr) : Bundle :=
  match encode i with
  | none => 0
  | some (k, w) => BitVec.ofNat 512 (w * 2 ^ k.lo)

/-- Whether an instruction does nothing in its slot. -/
def Instr.isNop : Instr → Bool
  | .nopSeq _ | .nopV _ | .nopM | .nopX | .nopLd | .nopSt | .nopE => true
  | _ => false

/-- The slots of a bundle in the order in which a table word is searched for its operation. -/
def Slot.all : List Slot := [.sa, .sb, .m, .v0, .v1, .x, .cc, .ld, .st, .e, .h]

/-- The first operation of a list of slots that is no `nop`. -/
def firstOp (b : Bundle) (l : List Slot) : Option Instr :=
  match l with
  | [] => none
  | k :: t =>
    if slotBits b k = 0 then firstOp b t
    else match decodeSlot k (slotBits b k) with
      | .ok i => some i
      | .error _ => none

/-- The instruction the decoder reads from a word of the opcode table. The table gives bits only to the rows of H and
CC, 16 bits each: a word below 0x1000 is a header (R68), any other is cell control (R69). A word of 48 or 64 bits is
read as SB or V0, and 512 bits as a whole bundle. -/
def decodeTableWord (nbits w : Nat) : Option Instr :=
  let get (k : Slot) : Option Instr := match decodeSlot k w with | .ok i => some i | .error _ => none
  if nbits = 16 then (if w < 2 ^ 12 then get .h else get .cc)
  else if nbits = 48 then get .sb
  else if nbits = 64 then get .v0
  else if nbits = 512 then firstOp (BitVec.ofNat 512 w) Slot.all
  else none

end Sys2Proof
end

