-- ==== Sys2Proof/Machine/State.lean ====
section
/-! DEFINITION. Sys2Proof/Machine/State.lean: everything the spec gives the machine, as plain data. Tables of registers
and memories are lists of (number, value) pairs with rising numbers, in which a number that is not listed has the
value named at the field ("unlisted"). -/
namespace Sys2Proof.Machine

/-- A table by number: rising keys, no entry equal to the table's unlisted value. -/
abbrev FMap (α : Type) := List (Nat × α)

/-- A memory: rising addresses, no entry equal to what an unlisted address reads as (R371: zero). -/
abbrev Mem := List Host.Cell

/-! ## The program (R64, R65) -/

/-- Ring declaration of R65. -/
structure RingDecl where
  num : Nat
  e : Nat
  count : Nat
  base : Nat
  deriving DecidableEq, Repr, Inhabited

/-- Buffer request of R65. -/
structure BufReq where
  index : Nat
  pgsz : Nat
  kind : Nat
  size : Nat
  deriving DecidableEq, Repr, Inhabited

/-- Semaphore declaration of R65. -/
structure SemDecl where
  sem : Nat
  init : Nat
  deriving DecidableEq, Repr, Inhabited

/-- Wait-graph edge of R65. -/
structure WaitDecl where
  sem : Nat
  skind : Nat
  signaller : Nat
  deriving DecidableEq, Repr, Inhabited

/-- A program header that the loader has accepted (R64, R65). -/
structure Header where
  latcls : Nat
  chain : Nat
  trapv : Bool
  feven : Bool
  vregs : Nat
  atiles : Nat
  crows : Nat
  spill : Nat
  codesz : Nat
  stack : Nat
  trapvec : Nat
  key : DWord
  ft : List Word
  stkbuf : Nat
  codeoff : Nat
  rings : List RingDecl
  bufs : List BufReq
  sems : List SemDecl
  waits : List WaitDecl
  deriving DecidableEq, Repr, Inhabited

/-- A loaded program: its header and its code, bundle k at index k (R56, R64). -/
structure Program where
  hdr : Header
  code : List Bundle
  deriving DecidableEq, Repr, Inhabited

/-! ## Sequencer state (R53 to R62) -/

/-- Scalar registers, predicates, counters, masks and format table (R53). Unlisted: s, q, lc zero; rm, cm, pm all ones;
ft zero. -/
structure SeqRegs where
  s : FMap DWord
  q : FMap Bool
  lc : FMap Word
  rm : FMap Word
  cm : FMap Word
  pm : FMap DWord
  ft : FMap Word
  deriving DecidableEq, Repr, Inhabited

/-- The system registers an operation or a trap changes (R56 to R58), and the state `$status` shows (R57, R60, R61, R170). -/
structure SysRegs where
  fpf : DWord
  fpev : DWord
  cause : DWord
  epc : DWord
  tval : DWord
  fmask : DWord
  rotsz : Nat
  rotbase : Nat
  sv : Nat
  depth : Nat
  sm : Bool
  evovf : Bool
  stovf : Bool
  feven : Bool
  il : Bool
  tm : Bool
  deriving DecidableEq, Repr, Inhabited

/-- The random-bit queue (R62, R108): key, words popped, current word, queued words. -/
structure Rng where
  key : DWord
  n : Nat
  w : DWord
  queue : List DWord
  deriving DecidableEq, Repr, Inhabited

/-- The state of a token slot (R54). -/
inductive TokState where
  | free | busy | complete | error
  deriving DecidableEq, Repr, Inhabited

/-- A token slot (R54) with the producer the head records for it (R217, R286): the command group, its opcode, buffer. -/
structure TokSlot where
  st : TokState
  status : Nat
  group : Nat
  opcode : Nat
  buf : Nat
  deriving DecidableEq, Repr, Inhabited

/-- A declared ring (R55) with its issue cursors (R193). -/
structure Ring where
  base : Nat
  e : Nat
  count : Nat
  p : Word
  c : Word
  ip : Word
  ic : Word
  deriving DecidableEq, Repr, Inhabited

/-- A ring advance an edge operation owes (R193): it publishes once the bundle's accesses have performed. -/
structure RingPub where
  ring : Nat
  producer : Bool
  n : Nat
  deriving DecidableEq, Repr, Inhabited

/-- The attachment of a drain queue (R233): `eng` 0 collective, 1 lookup; `mark` is the bundle count of the pending
detach and `group` its command group. -/
structure DqAtt where
  attached : Bool
  eng : Nat
  pending : Bool
  mark : Nat
  group : Nat
  deriving DecidableEq, Repr, Inhabited

/-- Where a sequencer result lands (R162). -/
inductive SDst where
  | s (i : Nat) | q (i : Nat) | lc (i : Nat)
  deriving DecidableEq, Repr, Inhabited

/-- A result in the head's holding buffer (R174, R175): its due count, counted in handler bundles when `handler`, the value of `$cyc` from
which it is ready, and, while it waits for a load that has not performed, the load's number. -/
structure SHeld where
  due : Nat
  handler : Bool
  dst : SDst
  val : DWord
  ready : Nat
  pend : Option Nat
  deriving DecidableEq, Repr, Inhabited

/-- A place of the sequencer's state that is protected (R354): a scalar register, the predicates, a counter, a mask, a format entry,
and, each kept as one place, system registers, token slots, rings, the event queue, the random-bit queue, PC, the stack pointers, the
attachments of drain queues, the aggregate; a result in the holding buffer. -/
inductive SeqPlace where
  | s (i : Nat) | q | lc (i : Nat) | rm (i : Nat) | cm (i : Nat) | pm (i : Nat) | ft (i : Nat) | sys | tok | ring | events | random
  | pc | stack | attach | agg | held (due : Nat) (dst : SDst)
  deriving DecidableEq, Repr, Inhabited

/-- An error in the sequencer's state (R354, R355). -/
structure SeqErr where
  place : SeqPlace
  hard : Bool
  deriving DecidableEq, Repr, Inhabited

/-- A sequencer store or load that has committed and not yet performed (R204, R205): its bundle's count and address, its slot's
source number; a load has the number of the held result that waits for it; `rmw`: an atomic's access, `hand`: of a bundle of the trap handler. -/
structure PStore where
  n : Nat
  at_ : Nat
  src : Nat
  addr : Nat
  size : Nat
  oc : Nat
  val : DWord
  ld : Option Nat
  rmw : Bool
  hand : Bool
  deriving DecidableEq, Repr, Inhabited

/-- A fault or context-end record (R346), without CTX. -/
structure FaultRec where
  cause : Nat
  die : Nat
  arr : Nat
  pos : Nat
  row : Nat
  col : Nat
  task : Nat
  epc : Nat
  tval : Nat
  buf : Nat
  fmask : Nat
  elem : Nat
  deriving DecidableEq, Repr, Inhabited

/-- A held allocation failure (R288): the suspended command, none for one a debugger has written (R353), its position, `$tval`, and the
buffer. -/
structure AllocTrap where
  cmd : Option Nat
  pos : Nat
  tval : DWord
  buf : Nat
  deriving DecidableEq, Repr, Inhabited

/-! ## Cells (R23, R37, R59) -/

/-- Where a cell result lands. -/
inductive CDst where
  | v (i : Nat) | p (i : Nat) | x
  deriving DecidableEq, Repr, Inhabited

/-- A result in a cell's holding buffer (R35): the bits of `mask` are replaced by those of `val`. -/
structure CHeld where
  due : Nat
  dst : CDst
  mask : VecReg
  val : VecReg
  deriving DecidableEq, Repr, Inhabited

/-- A place of a cell's storage (R354): a vector register, a predicate, `x` or an entry of its history, a tile, a cell-SRAM row, a result in
the holding buffer. -/
inductive CellPlace where
  | v (i : Nat) | p (i : Nat) | x (ago : Nat) | tile (i : Nat) | row (i : Nat) | held (due : Nat) (dst : CDst)
  deriving DecidableEq, Repr, Inhabited

/-- An error in a cell's storage (R354, R355): the aligned 64 bits numbered `word` of a place; `hard`: uncorrectable. -/
structure CellErr where
  place : CellPlace
  word : Nat
  hard : Bool
  deriving DecidableEq, Repr, Inhabited

/-- A cell (R23): `n` bundles executed; registers, predicates, tiles and SRAM rows (unlisted: zero); `x` with its
two-entry history: X(n-1), X(n-2), X(n-3) (R37, R38); `errs`: what is wrong in its storage (R354). -/
structure Cell where
  n : Nat
  v : FMap VecReg
  p : FMap Word
  tiles : FMap TileReg
  sram : FMap VecReg
  x : VecReg
  h1 : VecReg
  h2 : VecReg
  flag : Bool
  held : List CHeld
  errs : List CellErr
  deriving DecidableEq, Repr, Inhabited

/-! ## A bundle in flight (R12, R24, R34, R111) -/

/-- An LD or ST operation as issued: the pack values read at issue (R48), the resolved entry (R82), the address of the
claimed ring entry (R193), the drain queue and the count of the row it pops (R127). -/
structure EdgeInst where
  op : Instr
  n : Nat
  addr : Nat
  store : Bool
  oc : Nat
  p0 : DWord
  p1 : DWord
  p2 : DWord
  p3 : DWord
  entry : Word
  ringEntry : Nat
  dq : Nat
  row : Nat
  w : DWord
  deriving DecidableEq, Repr, Inhabited

/-- An issued bundle whose cell part, edge operations or flags are not finished: masks read at issue (R30), current
word (R62), renaming (R60), stage state (R61), loop counters, format entry, FEVEN at commit (R58); and what its cells and
edge loaders have produced so far: aggregate (R43), flags (R110), first event (R58), egress captures (R42). -/
structure Flight where
  n : Nat
  addr : Nat
  rm : Word
  cm : Word
  pm : DWord
  w : DWord
  rotsz : Nat
  rotbase : Nat
  sm : Bool
  sv : Nat
  lc : List Word
  entry : Word
  ops : List Instr
  feven : Bool
  pflag : Bool
  any : Bool
  all : Bool
  fM : Nat
  fV0 : Nat
  fV1 : Nat
  fSeq : Nat
  ev : Option Nat
  capSouth : Bool
  capEast : Bool
  cells : Nat
  deriving DecidableEq, Repr, Inhabited

/-- A drain row (R126): the count of the `adrn` that pushes it, the slots so far (R126: have, V), and whether a ST operation
has popped it. -/
structure DrainRow where
  n : Nat
  slots : FMap TileReg
  have_ : FMap Nat
  popped : Bool
  deriving DecidableEq, Repr, Inhabited

/-- One edge operation at one position: the segments that have acted, the data read or captured (R42), how many pieces of a
store have performed. -/
structure EdgeWork where
  inst : EdgeInst
  acted : List Nat
  caps : FMap VecReg
  performed : Nat
  deriving DecidableEq, Repr, Inhabited

/-- A segment in an edge loader's holding buffer (R35, R40): pseudo-cell `seg` of the north or west edge. -/
structure Ingress where
  north : Bool
  seg : Nat
  due : Nat
  val : VecReg
  deriving DecidableEq, Repr, Inhabited

/-- An error in an edge loader's holding buffer (R354, R355): the segment and its due bundle. -/
structure EdgeErr where
  north : Bool
  seg : Nat
  due : Nat
  hard : Bool
  deriving DecidableEq, Repr, Inhabited

/-- The edge state of one chain position: pseudo-cells (unlisted: zero), what the seam into it carries (R41: `x` of column c
of the row above for bundle n, key 32·n + c; unlisted: zero), holding buffers, work in bundle order, drain rows of the four
queues (key q), oldest first; `errs`: what is wrong in the holding buffers (R354). -/
structure Pos where
  north : FMap VecReg
  west : FMap VecReg
  seam : FMap VecReg
  ingress : List Ingress
  ld : List EdgeWork
  st : List EdgeWork
  dq : FMap (List DrainRow)
  errs : List EdgeErr
  deriving DecidableEq, Repr, Inhabited

/-! ## Tasks (R51, R53, R299) -/

/-- What a head waits at (R311). -/
inductive Waiting where
  | none | semw (sem : Nat) | bar | collective (group : Nat)
  deriving DecidableEq, Repr, Inhabited

/-- Who a task is and what it was bound with (R299). -/
structure TaskId where
  uid : Nat
  ctx : Nat
  set : Nat
  idx : Nat
  setsize : Nat
  taskid : Nat
  head : Nat
  dom : DWord
  barn : DWord
  eprio : Nat
  queue : Nat
  poolSet : Bool
  stackBase : Nat
  deriving DecidableEq, Repr, Inhabited

/-- SA's access of a bundle that has arrived at a barrier and waits (R208, R308): the bundle, whether it is the handler's, and what the access
read. -/
structure OwnDone where
  at_ : Nat
  hand : Bool
  val : DWord
  deriving DecidableEq, Repr, Inhabited

/-- Scheduling and counting state of a task; `bound`: it holds its arrays, `running`: its head issues, `ending`: its `done` has
committed, `img`: its image's address as bound, `imgKey`: the model's number of its save, `sliceAt` and `waitFrom`: the ticks at
which its slice and its wait began, `now`: the module's core cycle its head stands at, `aggAt`: the value of `cyc` from which the newest
aggregate is complete, `accNo`: how many loads it has numbered, `early`: what SA's load of the waiting bundle has read (R211), `own`: SA's access
that has performed with an arrival (R308),
`imgBound`: the address in the save-table entry as bound, `placed`: it is bound for the first time and waits for the saves of its window
(R33, R44, R45, R56, R168, R188, R288, R300, R308, R311, R348, R353). -/
structure TaskCtl where
  pc : Nat
  bcnt : Nat
  hcnt : Nat
  cyc : Nat
  sp : Nat
  ovp : Nat
  frameFault : Bool
  aggAny : Bool
  aggAll : Bool
  aggPend : Option Nat
  arrived : Option (Nat × Nat)
  waiting : Waiting
  yieldable : Bool
  sliceDone : Bool
  triggered : Bool
  stopReq : Bool
  ending : Bool
  halted : Bool
  bound : Bool
  running : Bool
  age : Nat
  img : Nat
  imgKey : Nat
  sliceAt : Nat
  waitFrom : Nat
  now : Nat
  aggAt : Nat
  accNo : Nat
  early : Option DWord
  own : Option OwnDone
  imgBound : Nat
  placed : Bool
  deriving DecidableEq, Repr, Inhabited

/-- A task: identity, program, sequencer state, its cells (key 1024·j + 32·r + c; unlisted: all zero) and edges (key j).
`busy` is the tile scoreboard (R130), by tile: the core cycle at which the bit clears, and whether only matrix steps set it;
`ready` are results of latency class 1: due bundle, and core cycle from which they can be read (R35, R177);
`errs`: what is wrong in the sequencer's state (R354). -/
structure Task where
  id : TaskId
  prog : Program
  ctl : TaskCtl
  r : SeqRegs
  sys : SysRegs
  rng : Rng
  tok : FMap TokSlot
  evq : List (BitVec 128)
  rings : FMap Ring
  pubs : List RingPub
  dq : FMap DqAtt
  held : List SHeld
  pstores : List PStore
  allocs : List AllocTrap
  busy : FMap (Nat × Bool)
  ready : List (Nat × Nat)
  flights : List Flight
  cells : FMap Cell
  pos : FMap Pos
  errs : List SeqErr
  deriving DecidableEq, Repr, Inhabited

/-! ## Engine commands (R225 to R232) -/

/-- How far an engine command has come. -/
inductive CmdState where
  | queued | running | faulted | allocWait | shooting | done
  deriving DecidableEq, Repr, Inhabited

/-- What a command consumes (R217): a command group still running when the command issued, or a slot found in ERROR. -/
inductive Binding where
  | group (g : Nat) | error
  deriving DecidableEq, Repr, Inhabited

/-- One instance of an engine command (R225, R230): the dies that carry an instance, its opcode, class and drop flag, `elem` the next element, `total` how many
it has, `vals` its working words, `saved` source bytes kept for an overlapping copy (R237), `acks` the dies that have
acknowledged its shoot-down (R284) or how far a LEVEL-3 collective has come with its home (R309), `rows` drain rows it has popped, `vol` the
volume a command of class 6 has started on (R273, R284). -/
structure Cmd where
  id : Nat
  op : Instr
  opcode : Nat
  oc : Nat
  pf : Bool
  scope : Nat
  slot : Nat
  group : Nat
  task : Nat
  taskid : Nat
  ctx : Nat
  head : Nat
  die : Nat
  dies : List Nat
  pos : Nat
  n : Nat
  addr : Nat
  handler : Bool
  pack : List DWord
  cons : List Binding
  vxinvOk : Bool
  st : CmdState
  status : Nat
  elem : Nat
  total : Nat
  dropped : Nat
  bad : Nat
  vals : List Nat
  saved : FMap Nat
  acks : List Nat
  rows : List (FMap TileReg)
  vol : Nat × Nat
  deriving DecidableEq, Repr, Inhabited

/-- A command group: what one E command of a bundle produces (R49, R229, R230): how many instances, those completed
with (position, status, count, element, AUX), and, once all have, the status. -/
structure Group where
  id : Nat
  task : Nat
  slot : Nat
  opcode : Nat
  addr : Nat
  ev : Bool
  scope : Nat
  want : Nat
  got : List (Nat × Nat × Nat × Nat × Nat)
  result : Option Nat
  deriving DecidableEq, Repr, Inhabited

/-- An open or closed collective (R243): key, the first arrival's N, NP, OP, DTYPE, ROOT and mnemonic, members as
(command, rank), and whether the members agree. -/
structure Coll where
  id : Nat
  ctx : Nat
  level : Nat
  grp : Nat
  tag : Nat
  np : Nat
  params : List Nat
  members : List (Nat × Nat)
  agree : Bool
  deriving DecidableEq, Repr, Inhabited

/-- An accepted return-free addition (R219): one FP32 word, of element `elem` of the command `cmd` at `addr` of an instance on a die.
`held` while a D fault of it is unresolved (R342). -/
structure RfAdd where
  cmd : Nat
  task : Nat
  taskid : Nat
  head : Nat
  ctx : Nat
  die : Nat
  pos : Nat
  addr : Nat
  buf : Nat
  off : Nat
  val : Word
  elem : Nat
  held : Bool
  deriving DecidableEq, Repr, Inhabited

/-- An entry of a die's coordinate look-aside buffer (R283). -/
structure LookEntry where
  die : Nat
  ctx : Nat
  buf : Nat
  x : Nat
  y : Nat
  z : Nat
  tile : Option Nat
  deriving DecidableEq, Repr, Inhabited

/-- A buffer-table entry as the port reads it (R321); volume descriptor bytes stay in memory. -/
structure BufEntry where
  valid : Bool
  size : Nat
  ptroot : Nat
  expmask : Nat
  ctrl : Nat
  pg : Nat
  owner : Nat
  gran : Nat
  srcidx : Nat
  stk : List Nat
  addr : Nat
  deriving DecidableEq, Repr, Inhabited

/-- A translation a die holds (R329). -/
structure TlbEntry where
  die : Nat
  ctx : Nat
  buf : Nat
  page : Nat
  pte : Nat
  ent : BufEntry
  deriving DecidableEq, Repr, Inhabited

/-! ## Rambler (R292 to R312) -/

/-- A launch record (R294). -/
structure LaunchRec where
  hoff : Nat
  cbuf : Nat
  dep : Nat
  head : Nat
  setsize : Nat
  dom : DWord
  barn : DWord
  args : List DWord
  clean : Bool
  deriving DecidableEq, Repr, Inhabited

/-- Where a set comes from: host-queue record k, or a `launch` at a shared-SRAM address of a die by a task of a set. -/
inductive SetSrc where
  | host (k : Nat)
  | pool (die addr launcherSet launcherIdx : Nat)
  deriving DecidableEq, Repr, Inhabited

/-- A launch set (R51, R295, R303). -/
structure LaunchSet where
  id : Nat
  ctx : Nat
  queue : Nat
  src : SetSrc
  rec_ : LaunchRec
  prog : Option Program
  next : Nat
  finished : List Nat
  retired : Nat
  trigd : List Nat
  age : Nat
  status : Option Nat
  deriving DecidableEq, Repr, Inhabited

/-- An entry of a die's pending-launch pool (R305): shared, or the reserved entry of a task. -/
structure PoolEntry where
  die : Nat
  set : Nat
  owner : Option Nat
  deriving DecidableEq, Repr, Inhabited

/-- A host queue (R292): descriptor and whether it is mapped to a slot of its home die. `doneRecs` are records
completed out of order, `told` the pages the driver has been told of, as (buffer, offset), since the queue last moved on (R386), `readyAt` the tick at which its
next record became ready (R297). -/
structure Queue where
  roff : Nat
  rbuf : Nat
  log2n : Nat
  prio : Nat
  home : Nat
  tail : Word
  headc : Word
  cmpl : Word
  err : Bool
  rderr : Bool
  mapped : Bool
  doneRecs : List Nat
  told : List (Nat × Nat)
  readyAt : Option Nat
  deriving DecidableEq, Repr, Inhabited

/-- A semaphore (R215): value and the tasks waiting in order, with their amounts. -/
structure Sem where
  val : Nat
  waiters : List (Nat × Nat)
  deriving DecidableEq, Repr, Inhabited

/-- A barrier group (R308): arrivals of the present generation, the count its first arrival set, its die, generation. -/
structure BarGroup where
  level : Nat
  grp : Nat
  arrived : Nat
  need : Nat
  die : Nat
  gen : Nat
  deriving DecidableEq, Repr, Inhabited

/-- A reservation (R301): the candidate's key and its window. -/
structure Reservation where
  cand : Nat × Nat
  first : Nat
  len : Nat
  deriving DecidableEq, Repr, Inhabited

/-! ## Contexts (R315 to R333) and the host's registers (R360 to R376) -/

/-- The migration of a page of a context (R332); `copies`: how many line copies its passes have made. -/
structure Migration where
  buf : Nat
  page : Nat
  nframe : Nat
  passes : Nat
  copies : Nat
  deriving DecidableEq, Repr, Inhabited

/-- A context (R315, R316, R365): descriptor, registers of its block, and what Rambler keeps for it. `btnext`: a buffer table
written while it lives, which holds once every buffer of `btdone` up to BTCOUNT has been invalidated by requests after the `btskip` that waited
already (R366). `migr` is the buffer and page the last write of MIGR named, `migs` the migrations that copy, oldest first (R332). -/
structure Ctx where
  live : Bool
  btbase : Nat
  btcount : Nat
  fn : Nat
  pcap : Nat
  maxarr : Nat
  xflags : Nat
  sdom : Nat
  imode : Nat
  idie : Nat
  igran : Nat
  shome : Nat
  savebase : Nat
  inval : List Nat
  btnext : Option (Nat × Nat)
  btskip : Nat
  btdone : List Nat
  migst : Nat
  migr : Nat × Nat
  migs : List Migration
  attach : Bool
  queues : FMap Queue
  sems : FMap Sem
  groups : List BarGroup
  bound : Nat
  volInit : FMap Nat
  ffault : Option FaultRec
  deriving DecidableEq, Repr, Inhabited

/-- A partition entry (R319). -/
structure Part where
  ssbase : Nat
  sslim : Nat
  wsbase : Nat
  wslim : Nat
  deriving DecidableEq, Repr, Inhabited

/-- The function block of a PCIe function (R362, R363), its private extent (R364) and MSI-X signals sent (R360); `dcrun` is the copy in
progress: bus address, device side, length. -/
structure FnBlock where
  fqbase : Nat
  fqlog2 : Nat
  fqhead : Nat
  fqtail : Nat
  fqdrop : Nat
  errlog : Nat
  dcbus : Nat
  dcdev : Nat
  dclen : Nat
  dcctl : Nat
  dcst : Nat
  dcdone : Nat
  dcrun : List Nat
  extBase : Nat
  extLim : Nat
  ptNext : Nat
  msix0 : Nat
  msix1 : Nat
  deriving DecidableEq, Repr, Inhabited

/-- A function block at reset (R362 to R364): FQLOG2 is 4, the rest zero. -/
def FnBlock.init : FnBlock := { (default : FnBlock) with fqlog2 := 4 }

/-- What leaves a link port: a flit, or the request to replay from a flit's number (R357). -/
inductive LinkOut where
  | flit (f : Flit)
  | replay (seq : Nat)
  deriving DecidableEq, Repr, Inhabited

/-- A link port (R357, R370): state, peer, counters, next sequence numbers, the flits kept for replay, how often flit `againSeq` has
been replayed in a row, the accesses that have arrived in sequence and wait to perform, and what the port has sent, in order. -/
structure LinkPort where
  state : Nat
  peerMod : Nat
  peerPort : Nat
  retrain : Nat
  replays : Nat
  crcfails : Nat
  txSeq : Nat
  rxSeq : Nat
  kept : List Flit
  againSeq : Nat
  again : Nat
  inbox : List LinkAccess
  wire : List LinkOut
  deriving DecidableEq, Repr, Inhabited

/-- A sent access (R221): the command it is for, the buffer it names, the answer when it has come, the tick it was sent at (R357), and whether the
route of its module has changed since (R370). -/
structure Outstanding where
  access : LinkAccess
  cmd : Nat
  buf : Nat
  answer : Option LinkAccess
  sentAt : Nat
  old : Bool
  deriving DecidableEq, Repr, Inhabited

/-- The history of one stack's scrubber (R356): counts, the last 16 events as (address, kind, time), kind 1 corrected and 2
uncorrectable, next burst. The count of poisoned bursts outstanding is that of the stack's entries of `poison`. -/
structure ScrubHist where
  corrected : Nat
  uncorrectable : Nat
  events : List (Nat × Nat × Nat)
  nextBurst : Nat
  deriving DecidableEq, Repr, Inhabited

/-- A firmware image (R373): its length and its bytes, little-endian. -/
structure FwImage where
  len : Nat
  bytes : Nat
  deriving DecidableEq, Repr, Inhabited

/-- The module block (R367 to R376) and module-wide state; `beat` is the tick of the owner's last BEAT (R368), `flitAt` that of the
last link flit (R374), `waking`: an exit from P1 or P2 has been started (R374), `image`: the image of the last reload, none while the
module runs the one it was made with (R373). -/
structure ModRegs where
  bootstat : Nat
  serial : DWord
  fwver : DWord
  fwaddr : Nat
  fwlen : Nat
  ownerValid : Bool
  owner : Nat
  lease : Nat
  beat : Nat
  featoff : BitVec 128
  featreq : BitVec 128
  featneg : BitVec 128
  featgo : Bool
  tslice : Nat
  bquant : Nat
  scrubper : Nat
  ltol : Nat
  pstate : Nat
  plim : Nat
  temp : Nat
  modid : Nat
  idset : Bool
  porten : Nat
  rtidx : Nat
  attnonce : BitVec 512
  attaddr : Nat
  attst : Nat
  attbusy : Bool
  flitAt : Nat
  waking : Bool
  image : Option FwImage
  deriving DecidableEq, Repr, Inhabited

/-- The fused remap of the part, (R18, R20): positions of the logical dies, of the hidden die, and the die whose router carries a long
seam. -/
structure Remap where
  pos : List Nat
  hidden : Nat
  via : Nat
  deriving DecidableEq, Repr, Inhabited

/-- What bring-up fixes for the part (R18, R20, R21, R371, R372): positions of the logical dies, hidden die, failed
self-tests; the seam latencies `$seamlat0` to `$seamlat47`; throttling (R375), whether the module has stopped (R359). -/
structure Part24 where
  diepos : List Nat
  hidden : Nat
  longseam : Nat
  via : Nat
  bist : Nat
  seamlat : List Nat
  throttle : Bool
  stopped : Bool
  deriving DecidableEq, Repr, Inhabited

/-- Rambler's module-wide state (R297, R298, R301, R305, R309, R310). `resv` are reservations, `edges` the wait graph as
(context, set, from node, to node), `sysGroups` with `sysMembers` and `sysDone` the home's system-level state; `frameNext`
is the loader's first unused offset in every stack (R325; the model's own). -/
structure Rambler where
  sets : List LaunchSet
  pool : List PoolEntry
  rr : FMap (Nat × Nat)
  resv : List Reservation
  edges : List (Nat × Nat × Nat × Nat)
  sysGroups : List BarGroup
  sysMembers : List SysMsg
  sysDone : List SysMsg
  tick : Nat
  nextSet : Nat
  nextTask : Nat
  frameNext : Nat
  deriving DecidableEq, Repr, Inhabited

/-- The engines' module-wide state (R225, R243, R219, R283, R329); `shares`: what participants of LEVEL-3 collectives have sent (R309). -/
structure Engines where
  cmds : List Cmd
  groups : List Group
  colls : List Coll
  shares : List CollShare
  adds : List RfAdd
  look : List LookEntry
  tlb : List TlbEntry
  nextCmd : Nat
  nextGroup : Nat
  nextColl : Nat
  nextAccess : Nat
  deriving DecidableEq, Repr, Inhabited

/-- The memories (R179). `sram` by die·2^27 + offset, `ws` by die·2^31 + offset, `hbm` by device address (R326), `host` by
fn·2^64 + bus address: unlisted bytes read zero. `sb` is the sideband word of a burst (key device address div 64),
`err` the bad bytes of a burst (3 or more: uncorrectable; R354, R355), `poison` poisoned bursts; `sramErr` errors of
aligned 64-bit words of shared SRAM (key (die·2^27 + offset) div 8; 1 correctable, 2 uncorrectable), `wsErr` those of the
weight store, `fixed` the corrected events of a die. -/
structure Mems where
  sram : Mem
  ws : Mem
  hbm : Mem
  host : Mem
  sb : FMap Word
  err : FMap Nat
  poison : FMap Nat
  sramErr : FMap Nat
  wsErr : FMap Nat
  fixed : FMap Nat
  deriving DecidableEq, Repr, Inhabited

/-! ## The issue of one bundle, and whose turn it is -/

/-- What a step is doing (the model's own field, not the spec's): deciding the checks of R86, deciding the waits of
R211, committing, or executing one cell's part. -/
inductive Phase where
  | check | wait | commit | cell
  deriving DecidableEq, Repr, Inhabited

/-- A failed issue check (R87): source, kind and what `$tval` would hold (R385). -/
structure Fail where
  source : Nat
  kind : Nat
  tval : DWord
  repl : Bool
  deriving DecidableEq, Repr, Inhabited

/-- The bundle being issued: its address, its count, the task as it stood at issue (`t0`: operands, masks, format
entries and system registers are read there, R30, R71, R82, R162), the bits of the slot being checked, failed checks,
whether it must wait, the access of SA (R71), the target of a taken control operation, the trap it takes after commit (R339), whether it leaves
trap mode, ends the task, rotates or shifts a stage, lc0 after its own effects (R61), and its part in flight. -/
structure Issue where
  addr : Nat
  n : Nat
  t0 : Task
  slot : DWord
  fails : List Fail
  stall : Bool
  sstA : Option PStore
  target : Option Nat
  after : Option DWord
  eret : Bool
  ended : Bool
  rotcc : Bool
  rotTo : Option Nat
  sshift : Nat
  z : Word
  fl : Flight
  deriving DecidableEq, Repr, Inhabited

/-- The cell that executes: chain position, row, column, operands `xn`, `xs`, `xe`, `xw` (R38 to R41), result lists and
flags of the bundle. -/
structure CellRun where
  head : Nat
  pos : Nat
  row : Nat
  col : Nat
  acts : Bool
  xn : VecReg
  xs : VecReg
  xe : VecReg
  xw : VecReg
  vregs : Nat
  crows : Nat
  spill : Nat
  cls : Nat
  cell : Cell
  fl : Flight
  deriving DecidableEq, Repr, Inhabited

/-- A move: the head at an array issues its next bundle, a committed sequencer store performs, or an event row of the
table happens. -/
inductive Move where
  | issue (head : Nat)
  | store (head idx : Nat)
  | event (i : Instr)
  deriving DecidableEq, Repr, Inhabited

/-- The machine. `tasks` are the tasks that are bound, running or pre-empted, by their number; `t` is the task a step
works for and `cr` the cell it works on; `cycle` counts the module's core cycles, and PH of R188 is its value modulo 16,384; `script` and `free` say which move comes next (the model's own fields). -/
structure State where
  mem : Mems
  mod : ModRegs
  part : Part24
  fns : FMap FnBlock
  ctxs : FMap Ctx
  parts : FMap Part
  route : FMap Nat
  ports : FMap LinkPort
  out : List Outstanding
  scrub : FMap ScrubHist
  ram : Rambler
  eng : Engines
  cycle : Nat
  tasks : FMap Task
  t : Task
  iss : Issue
  cr : CellRun
  phase : Phase
  script : List Move
  free : Nat
  deriving DecidableEq, Repr

/-! ## Reset -/

/-- The module block at reset (R367), BOOTSTAT 0 (R371). Nothing is fused or measured before bring-up; the features the device
offers are bits 0 to 7 of R318 and R369. -/
def ModRegs.reset : ModRegs :=
  { bootstat := 0, serial := 0, fwver := 0, fwaddr := 0, fwlen := 0, ownerValid := false, owner := 0, lease := 10, beat := 0,
    featoff := 0xFF, featreq := 0, featneg := 0, featgo := false, tslice := 2000, bquant := 50, scrubper := 24, ltol := 0,
    pstate := 0, plim := 24000, temp := 0, modid := 0, idset := false, porten := 0, rtidx := 0, attnonce := 0, attaddr := 0,
    attst := 0, attbusy := false, flitAt := 0, waking := false, image := none }

/-- No remap report yet (R371, R372). -/
def Part24.reset : Part24 :=
  { diepos := [], hidden := 0, longseam := 0xFF, via := 0xFF, bist := 0, seamlat := [], throttle := false, stopped := false }

/-- No set, no pool entry, no reservation. -/
def Rambler.reset : Rambler :=
  { sets := [], pool := [], rr := [], resv := [], edges := [], sysGroups := [], sysMembers := [], sysDone := [], tick := 0,
    nextSet := 0, nextTask := 0, frameNext := 0 }

/-- No command, no cached translation. -/
def Engines.reset : Engines :=
  { cmds := [], groups := [], colls := [], shares := [], adds := [], look := [], tlb := [], nextCmd := 0, nextGroup := 0, nextColl := 0,
    nextAccess := 0 }

/-- Empty memories (R371; HBM4E and host memory: log entry 3). -/
def Mems.reset : Mems :=
  { sram := [], ws := [], hbm := [], host := [], sb := [], err := [], poison := [], sramErr := [], wsErr := [], fixed := [] }

/-- The module at reset, before bring-up: no context lives, no task is bound. The next move is free (log entry 1). -/
def State.reset : State :=
  { mem := Mems.reset, mod := ModRegs.reset, part := Part24.reset, fns := [], ctxs := [], parts := [], route := [], ports := [],
    out := [], scrub := [], ram := Rambler.reset, eng := Engines.reset, cycle := 0, tasks := [], t := default, iss := default,
    cr := default, phase := .check, script := [], free := 0 }

/-- Why the machine stops. -/
inductive Fault where
  /-- Raised by `step` when the next move of the script offers a slot operation as the step of another agent. No run of
  the device does that: the script is the model's own field. Safe. -/
  | slotOperationAsEvent
  deriving DecidableEq, Repr, Inhabited

/-- Why an instruction has no meaning. -/
inductive Refusal where
  /-- Raised by an arm of `exec` that has no meaning yet. Safe. -/
  | notModelled (mnemonic : String)
  deriving DecidableEq, Repr, Inhabited

end Sys2Proof.Machine
end

