-- ==== Sys2Proof/Config.lean ====
section
/-! DEFINITION. Sys2Proof/Config.lean: the free values: what the spec leaves open and the machine goes on with. Each is a
constant without a body, so nothing can be proved of its value; the log entry named at each says where it stands for. -/
namespace Sys2Proof

/-- The next move of the module when the script is empty (R2, R15; log entry 1): which party acts is not fixed. -/
opaque Config.freeMove : Nat → Machine.Move

/-- The fused remap table (R18, R20; log entry 66). What it names is held to the conditions of R20 by `Machine.theRemap`. -/
opaque Config.fusedRemap : Machine.Remap

/-- The fused serial number (R367; log entry 66). -/
opaque Config.serial : Nat

/-- The fused minimum security version (R373; log entry 66). -/
opaque Config.minVersion : Nat

/-- The image the module was made with (R373; log entry 66). -/
opaque Config.builtImage : Machine.FwImage

/-- Whether the signature of an image verifies against the fused key hash (R373; log entry 66). -/
opaque Config.imageSigned : Machine.FwImage → Bool

/-- FWVER of an image: bits 31:0 the security version, bits 63:32 the build (R367; log entry 66). -/
opaque Config.imageVersion : Machine.FwImage → Nat

/-- The hottest junction temperature in °C, before the bounds the spec gives it (R367, R375; log entry 42). The argument is the step
counter. -/
opaque Config.freeTemp : Nat → Nat

/-- Whether a host access of a driver copy fails (R363; log entry 30). The argument is the step counter. -/
opaque Config.hostFails : Nat → Bool

/-- TVAL of an uncorrectable error in storage that has no address (R346; log entry 25). The argument is the step counter. -/
opaque Config.freeTval : Nat → Nat

/-- Which slot is charged with an error met as a held result lands (R355; log entry 25). -/
opaque Config.freeSource : Nat → Nat

/-- Whether an engine access that meets a changed translation before its invalidation completes uses the old one (R330; log
entry 9). The first argument is the step counter, the second the page. -/
opaque Config.freeStale : Nat → Nat → Bool

/-- How many lines the copy engine of a migration copies in one tick (R332; log entry 24). The first argument is the step counter, the second the
context and the place of the migration among its own. -/
opaque Config.freeLines : Nat → Nat → Nat

/-- Which of the migrations whose passes are made commits next (R332; log entry 24). The argument is the step counter. -/
opaque Config.freeMigration : Nat → Nat

/-- Which bundle the EPC of an imprecise fault of a task names, of those R345 allows (R345; log entry 10). -/
opaque Config.freeEpc : Nat → Nat

/-- Whether a load of SA performs while its bundle still waits (R211; log entry 8). The argument is the step counter. -/
opaque Config.freeEarly : Nat → Bool

/-- How many patches have been published when a decoder finds a stream broken, of those whose pixels stand before the break (R242; log
entry 12). -/
opaque Config.codedPatches : List Nat → (pack : List Nat) → Nat

/-- Whether a BAR0 read has come since the module entered its power state (R374): an input, one value a use (log 42). -/
opaque Config.barRead : Nat → Bool

/-- Whether the driver requests a native load of the program being loaded (R378): an input, free at each load (log 72). -/
opaque Config.nativeLoad : (free ctx cbuf hoff : Nat) → Bool

/-- What the device-private regions of a task's image hold (R351; log entry 14): by number of the save and offset of the region. -/
opaque Config.freePrivate : (save off : Nat) → Nat

/-- SHA-512 of a firmware image (R376; log entry 13). -/
opaque Config.imageDigest : Machine.FwImage → Nat

/-- Whether an attestation fails: the spec does not say when (R376; log entry 13). The argument is the step counter. -/
opaque Config.attestFails : Nat → Bool

/-- The signature of an attestation report: the private key is outside the spec (R376; log entry 13). -/
opaque Config.signature : (report : Nat) → Nat

end Sys2Proof
end

