-- ==== Sys2Proof/Machine/FMap.lean ====
section
/-! DEFINITION. Sys2Proof/Machine/FMap.lean: reading and writing the tables and memories of the state. Writing the
value an unlisted number has removes the entry, so that equal tables are equal data. -/
namespace Sys2Proof.Machine

/-- The value at number `k`, where `d` is the unlisted value. -/
def fget {α : Type} (m : FMap α) (d : α) (k : Nat) : α :=
  match m with
  | [] => d
  | (k', v) :: t => if k' = k then v else fget t d k

/-- Put `v` at number `k`, keeping the numbers rising. -/
def finsert {α : Type} (m : FMap α) (k : Nat) (v : α) : FMap α :=
  match m with
  | [] => [(k, v)]
  | (k', v') :: t =>
    if k < k' then (k, v) :: (k', v') :: t
    else if k' = k then (k, v) :: t
    else (k', v') :: finsert t k v

/-- Take number `k` out. -/
def ferase {α : Type} (m : FMap α) (k : Nat) : FMap α :=
  match m with
  | [] => []
  | (k', v') :: t => if k' = k then ferase t k else (k', v') :: ferase t k

/-- Write `v` at number `k`, where `d` is the unlisted value. -/
def fset {α : Type} [DecidableEq α] (m : FMap α) (d : α) (k : Nat) (v : α) : FMap α :=
  if v = d then ferase m k else finsert m k v

/-- Change the value at number `k`. -/
def fmod {α : Type} [DecidableEq α] (m : FMap α) (d : α) (k : Nat) (f : α → α) : FMap α :=
  fset m d k (f (fget m d k))

/-- The value at number `k`, if it is listed. -/
def fget? {α : Type} (m : FMap α) (k : Nat) : Option α :=
  match m with
  | [] => none
  | (k', v) :: t => if k' = k then some v else fget? t k

/-- Rising numbers above `lo`, and no entry equal to the unlisted value `d`. -/
def fwfFrom {α : Type} [DecidableEq α] (d : α) (lo : Option Nat) (m : FMap α) : Bool :=
  match m with
  | [] => true
  | (k, v) :: t => (match lo with | none => true | some l => decide (l < k)) && decide (v ≠ d) && fwfFrom d (some k) t

/-- The canonical form of a table. -/
def fwf {α : Type} [DecidableEq α] (d : α) (m : FMap α) : Bool := fwfFrom d none m

/-! ## Memories -/

/-- The canonical form of a memory: rising addresses, no zero byte listed. -/
def Mem.wf (m : Mem) : Bool := fwf (α := Byte) 0 m

/-- The byte at an address: zero where nothing is listed (R371 step 4; HBM4E: log entry 3). -/
def rdByte (m : Mem) (a : Nat) : Byte := fget (α := Byte) m 0 a

/-- Write one byte. -/
def wrByte (m : Mem) (a : Nat) (b : Byte) : Mem := fset (α := Byte) m 0 a b

/-- The `n` bytes from address `a` on, as a little-endian number (R9). -/
def rdNat (m : Mem) (a n : Nat) : Nat :=
  match n with
  | 0 => 0
  | k + 1 => (rdByte m a).toNat + 256 * rdNat m (a + 1) k

/-- Write the `n` low bytes of `v` from address `a` on, little-endian (R9). -/
def wrNat (m : Mem) (a n v : Nat) : Mem :=
  match n with
  | 0 => m
  | k + 1 => wrNat (wrByte m a (BitVec.ofNat 8 v)) (a + 1) k (v / 256)

/-- Write zero to the bytes from `lo` to `hi - 1` (R320, R364). -/
def wrZero (m : Mem) (lo hi : Nat) : Mem := m.filter (fun c => decide (c.1 < lo ∨ hi ≤ c.1))

end Sys2Proof.Machine
end

