-- ==== Sys2Proof/Machine/Num.lean ====
section
/-! DEFINITION. Sys2Proof/Machine/Num.lean: number formats, rounding, integer helpers, Dandelion (R95 to R112). Exact reals
are rationals; a value is a real, an infinity or a NaN. -/
namespace Sys2Proof.Machine

/-! ## Values and formats (R96, R97) -/

/-- A decoded value: NaN, an infinity, or a real. `negz` is the sign of a zero. -/
inductive Rv where
  | nan
  | inf (neg : Bool)
  | fin (q : Rat) (negz : Bool)
  deriving DecidableEq, Repr, Inhabited

/-- The scalar floating-point formats of R96. -/
inductive FpFmt where
  | fp32 | fp16 | bf16 | e4m3 | e5m2 | e2m1
  deriving DecidableEq, Repr, Inhabited

/-- Mantissa bits. -/
def FpFmt.mbits : FpFmt → Nat
  | .fp32 => 23 | .fp16 => 10 | .bf16 => 7 | .e4m3 => 3 | .e5m2 => 2 | .e2m1 => 1

/-- Exponent bits. -/
def FpFmt.ebits : FpFmt → Nat
  | .fp32 => 8 | .fp16 => 5 | .bf16 => 8 | .e4m3 => 4 | .e5m2 => 5 | .e2m1 => 2

/-- Exponent bias. -/
def FpFmt.bias : FpFmt → Nat
  | .fp32 => 127 | .fp16 => 15 | .bf16 => 127 | .e4m3 => 7 | .e5m2 => 15 | .e2m1 => 1

/-- Width in bits. -/
def FpFmt.width (f : FpFmt) : Nat := 1 + f.ebits + f.mbits

/-- Whether the format has infinities. -/
def FpFmt.hasInf : FpFmt → Bool
  | .e4m3 | .e2m1 => false
  | _ => true

/-- The encoding of the largest finite value. -/
def FpFmt.maxBits : FpFmt → Nat
  | .fp32 => 0x7F7FFFFF | .fp16 => 0x7BFF | .bf16 => 0x7F7F | .e4m3 => 0x7E | .e5m2 => 0x7B | .e2m1 => 0x7

/-- The encoding of +infinity, where there is one. -/
def FpFmt.infBits : FpFmt → Nat
  | .fp32 => 0x7F800000 | .fp16 => 0x7C00 | .bf16 => 0x7F80 | .e5m2 => 0x7C | .e4m3 | .e2m1 => 0

/-- The canonical NaN; E2M1 has none and its result is +0 (R104). -/
def FpFmt.nanBits : FpFmt → Nat
  | .fp32 => 0x7FC00000 | .fp16 => 0x7E00 | .bf16 => 0x7FC0 | .e4m3 => 0x7F | .e5m2 => 0x7E | .e2m1 => 0

/-- The formats whose subnormals FTZ flushes (R104). -/
def FpFmt.flushes : FpFmt → Bool
  | .fp32 | .fp16 | .bf16 => true
  | _ => false

/-- Put sign `neg` on a magnitude encoding. -/
def FpFmt.signed (f : FpFmt) (neg : Bool) (b : Nat) : Nat := b + b2n neg * 2 ^ (f.width - 1)

/-- 2 to an integer power. -/
def pow2 (k : Int) : Rat := if 0 ≤ k then ((2 ^ k.toNat : Nat) : Rat) else 1 / ((2 ^ (-k).toNat : Nat) : Rat)

/-- DEC of R112: the value of an encoding (R96). -/
def dec (f : FpFmt) (v : Nat) : Rv :=
  let e := bitsAt v f.mbits f.ebits
  let m := bitsAt v 0 f.mbits
  let neg := bitAt v (f.width - 1)
  let top := 2 ^ f.ebits - 1
  if f.hasInf && e == top then (if m == 0 then .inf neg else .nan)
  else if f == .e4m3 && e == top && m == 7 then .nan
  else
    let mag : Rat := if e == 0 then (m : Rat) * pow2 (1 - f.bias - f.mbits)
      else ((2 ^ f.mbits + m : Nat) : Rat) * pow2 ((e : Int) - f.bias - f.mbits)
    .fin (if neg then -mag else mag) neg

/-- Whether an encoding is a subnormal of its format. -/
def isSubnormal (f : FpFmt) (v : Nat) : Bool := bitsAt v f.mbits f.ebits == 0 && bitsAt v 0 f.mbits != 0

/-- An input under FTZ: a subnormal of FP32, FP16 or BF16 is zero of its sign (R104). -/
def decFtz (f : FpFmt) (ftz : Bool) (v : Nat) : Rv :=
  if ftz && f.flushes && isSubnormal f v then .fin 0 (bitAt v (f.width - 1)) else dec f v

/-- The sign of a value. -/
def Rv.neg? : Rv → Bool
  | .nan => false
  | .inf n => n
  | .fin q z => if q == 0 then z else decide (q < 0)

/-! ## Flags (R110) -/

/-- NV: invalid. -/
def flNV : Nat := 1
/-- DZ: division by zero. -/
def flDZ : Nat := 2
/-- OF: overflow. -/
def flOF : Nat := 4
/-- UF: underflow. -/
def flUF : Nat := 8
/-- NX: inexact. -/
def flNX : Nat := 16

/-- Join two sets of flags. -/
def flOr (a b : Nat) : Nat := a ||| b

/-! ## Rounding (R104 to R106) -/

/-- Rounding modes; `sr` carries the fraction it adds. -/
inductive Rnd where
  | rne | rtz | rup | rdn
  | sr (frac : Rat)
  deriving DecidableEq, Repr, Inhabited

/-- floor(log2 a) of a positive rational. -/
def ilog2 (a : Rat) : Int :=
  let e : Int := (Nat.log2 a.num.toNat : Int) - (Nat.log2 a.den : Int)
  if pow2 e ≤ a then e else e - 1

/-- Nearest integer, ties to the even one. -/
def rneInt (t : Rat) : Int :=
  let fl := t.floor
  let r := t - fl
  if r < 1 / 2 then fl else if 1 / 2 < r then fl + 1 else if fl % 2 == 0 then fl else fl + 1

/-- The integer magnitude that mode `m` chooses for the non-negative `t`, for a value of sign `neg`. -/
def roundMag (m : Rnd) (neg : Bool) (t : Rat) : Nat :=
  (match m with
    | .rne => rneInt t
    | .rtz => t.floor
    | .rup => if neg then t.floor else t.ceil
    | .rdn => if neg then t.ceil else t.floor
    | .sr frac => (t + frac).floor).toNat

/-- OVERFLOW of R105, as an encoding. -/
def overflow (f : FpFmt) (neg : Bool) (m : Rnd) (sat : Bool) : Nat :=
  let big := f.signed neg f.maxBits
  let away := if sat || f == .e2m1 then big else if f.hasInf then f.signed neg f.infBits else f.nanBits
  match m with
  | .rne => away
  | .sr _ => away
  | .rtz => big
  | .rup => if neg then big else away
  | .rdn => if neg then away else big

/-- ROUND of R104: the encoding in `f` and the flags. -/
def round (x : Rv) (f : FpFmt) (m : Rnd) (sat ftz : Bool) : Nat × Nat :=
  match x with
  | .nan => if f == .e2m1 then (0, flNV) else (f.nanBits, 0)
  | .inf neg =>
    if f.hasInf then (f.signed neg f.infBits, 0)
    else if f == .e2m1 || sat then (f.signed neg f.maxBits, flNV)
    else (f.nanBits, flNV)
  | .fin q z =>
    if q == 0 then (f.signed z 0, 0)
    else
      let neg := decide (q < 0)
      let a := if neg then -q else q
      let minnorm := pow2 (1 - f.bias)
      if ftz && f.flushes && decide (a < minnorm) then (f.signed neg 0, flOr flUF flNX)
      else
        let e := max (ilog2 a) (1 - f.bias)
        let qn := pow2 (e - f.mbits)
        let t := a / qn
        let n := roundMag m neg t
        let y := (n : Rat) * qn
        let enc := (e + f.bias - 1).toNat * 2 ^ f.mbits + n
        if f.maxBits < enc then (overflow f neg m sat, flOr flOF flNX)
        else
          (f.signed neg enc,
            flOr (if y == a then 0 else flNX) (if decide (a < minnorm) && !(y == a) then flUF else 0))

/-- RNE of R112. -/
def rne (x : Rv) (f : FpFmt) : Nat × Nat := round x f .rne false false

/-- SAT of R112 on integers. -/
def satI (x lo hi : Int) : Int := if x < lo then lo else if hi < x then hi else x

/-- WRAP of R112. -/
def wrapI (x : Int) (w : Nat) : Nat := (x % (2 ^ w : Nat)).toNat

/-- SEXT of R112. -/
def sext (v w : Nat) : Int := if v % 2 ^ w < 2 ^ (w - 1) then ((v % 2 ^ w : Nat) : Int) else ((v % 2 ^ w : Nat) : Int) - (2 ^ w : Nat)

/-- TOINT of R106: the integer and the flags. -/
def toInt (x : Rv) (lo hi : Int) (m : Rnd) : Int × Nat :=
  match x with
  | .nan => (0, flNV)
  | .inf neg => (if neg then lo else hi, flNV)
  | .fin q _ =>
    let neg := decide (q < 0)
    let mag := roundMag m neg (if neg then -q else q)
    let n : Int := if neg then -(mag : Int) else mag
    if n < lo ∨ hi < n then (satI n lo hi, flNV)
    else (n, if (n : Rat) == q then 0 else flNX)

/-! ## Exact sums and products (R106, R116, R140) -/

/-- The exact sum of two values, the sign of an exact zero decided by `dn` (RDN gives -0), and whether the sum makes a
NaN from operands that are not NaN. -/
def addRv (x y : Rv) (dn : Bool) : Rv × Bool :=
  match x, y with
  | .nan, _ => (.nan, false)
  | _, .nan => (.nan, false)
  | .inf a, .inf b => if a == b then (.inf a, false) else (.nan, true)
  | .inf a, .fin _ _ => (.inf a, false)
  | .fin _ _, .inf b => (.inf b, false)
  | .fin p zp, .fin q zq =>
    if p + q == 0 then (.fin 0 (if p == 0 && q == 0 && zp == zq then zp else dn), false) else (.fin (p + q) false, false)

/-- The exact product of two values, and whether it makes a NaN. -/
def mulRv (x y : Rv) : Rv × Bool :=
  match x, y with
  | .nan, _ => (.nan, false)
  | _, .nan => (.nan, false)
  | .inf a, .inf b => (.inf (a != b), false)
  | .inf a, .fin q z => if q == 0 then (.nan, true) else (.inf (a != (Rv.fin q z).neg?), false)
  | .fin q z, .inf b => if q == 0 then (.nan, true) else (.inf ((Rv.fin q z).neg? != b), false)
  | .fin p zp, .fin q zq => (.fin (p * q) ((Rv.fin p zp).neg? != (Rv.fin q zq).neg?), false)

/-- The negation of a value. -/
def negRv : Rv → Rv
  | .nan => .nan
  | .inf n => .inf (!n)
  | .fin q z => .fin (-q) (!z)

/-- Round a value whose computation may have made a NaN (NV). -/
def roundNv (x : Rv × Bool) (f : FpFmt) (m : Rnd) (sat ftz : Bool) : Nat × Nat :=
  let r := round x.1 f m sat ftz
  (r.1, flOr r.2 (if x.2 then flNV else 0))

/-- RNE(x + y) into FP32, on encodings (the additions of R126, R244, R247). -/
def addF32 (x y : Nat) (sat ftz : Bool) : Nat × Nat :=
  roundNv (addRv (decFtz .fp32 ftz x) (decFtz .fp32 ftz y) false) .fp32 .rne sat ftz

/-- RNE(x × y) into FP32. -/
def mulF32 (x y : Nat) : Nat × Nat := roundNv (mulRv (dec .fp32 x) (dec .fp32 y)) .fp32 .rne false false

/-- RNE(x × y + z) into FP32, one rounding (R248, R264). -/
def fmaF32 (x y z : Nat) : Nat × Nat :=
  let p := mulRv (dec .fp32 x) (dec .fp32 y)
  let s := addRv p.1 (dec .fp32 z) false
  roundNv (s.1, p.2 || s.2) .fp32 .rne false false

/-- Whether an FP32 encoding is NaN or an infinity. -/
def nonFinite (v : Nat) : Bool := bitsAt v 23 8 == 255

/-! ## Roots and elementary functions (R142) -/

/-- The largest r below 2^n with r·r ≤ x. -/
def isqrt (x n : Nat) (r : Nat := 0) : Nat :=
  match n with
  | 0 => r
  | k + 1 => if (r + 2 ^ k) * (r + 2 ^ k) ≤ x then isqrt x k (r + 2 ^ k) else isqrt x k r

/-- A rational that rounds as the square root of the non-negative `a` does, to any format of R96 and after the addition
of any FP32 value: the root itself where it is a multiple of 2^-1200, otherwise the middle of the gap it lies in. -/
def sqrtRat (a : Rat) : Rat :=
  let s := (a * pow2 2400).floor.toNat
  let r := isqrt s 1400
  if (r * r : Nat) == s && ((s : Rat) == a * pow2 2400) then (r : Rat) * pow2 (-1200) else ((2 * r + 1 : Nat) : Rat) * pow2 (-1201)

/-- Fraction bits of the enclosures below. -/
def encBits : Nat := 256

/-- Sum of ⌊2^P/(k·2^k)⌋ for k from 1 to `n`: below ln 2 · 2^P by less than n + 1 once n exceeds P. -/
def ln2Sum (n : Nat) : Nat :=
  match n with
  | 0 => 0
  | k + 1 => ln2Sum k + 2 ^ encBits / ((k + 1) * 2 ^ (k + 1))

/-- An enclosure of ln 2 · 2^P. -/
def ln2Enc : Nat × Nat := (ln2Sum (encBits + 8), ln2Sum (encBits + 8) + encBits + 10)

/-- The Taylor series of e^y for 0 ≤ y ≤ 1, y scaled by 2^P: `n` further terms after term `t` of number `k`, each
rounded down or up. -/
def expSeries (y : Nat) (up : Bool) (n k t acc : Nat) : Nat :=
  match n with
  | 0 => if up then acc + 2 * t + 1 else acc
  | m + 1 =>
    let t' := t * y / (k * 2 ^ encBits) + (if up then 1 else 0)
    expSeries y up m (k + 1) t' (acc + t')

/-- An enclosure of e^y · 2^P for y between `lo` and `hi` (scaled by 2^P). -/
def expEnc (lo hi : Nat) : Nat × Nat :=
  (expSeries lo false 90 1 (2 ^ encBits) (2 ^ encBits), expSeries hi true 90 1 (2 ^ encBits) (2 ^ encBits))

/-- An enclosure of 2^x for rational x. -/
def exp2Enc (x : Rat) : Rat × Rat :=
  let i := x.floor
  let f := x - i
  let ylo := (f * ln2Enc.1).floor.toNat
  let yhi := (f * ln2Enc.2).ceil.toNat
  let e := expEnc ylo yhi
  ((e.1 : Rat) * pow2 (i - encBits), (e.2 : Rat) * pow2 (i - encBits))

/-- The series 2·(z + z³/3 + z⁵/5 + …), z scaled by 2^P, rounded down or up. -/
def atanhSeries (z : Nat) (up : Bool) (n k p acc : Nat) : Nat :=
  match n with
  | 0 => if up then 2 * (acc + 2 * p + 1) else 2 * acc
  | m + 1 =>
    let p' := p * z / 2 ^ encBits * z / 2 ^ encBits + (if up then 2 else 0)
    atanhSeries z up m (k + 2) p' (acc + p / k + (if up then 1 else 0))

/-- An enclosure of log2 x for positive rational x. -/
def log2Enc (x : Rat) : Rat × Rat :=
  let e := ilog2 x
  let m := x * pow2 (-e)
  let z := (m - 1) / (m + 1)
  let zlo := (z * pow2 encBits).floor.toNat
  let zhi := (z * pow2 encBits).ceil.toNat
  let lo := atanhSeries zlo false 100 1 zlo 0
  let hi := atanhSeries zhi true 100 1 zhi 0
  ((e : Rat) + (lo : Rat) / ln2Enc.2, (e : Rat) + (hi : Rat) / ln2Enc.1)

/-- An enclosure of tanh x for positive rational x: the alternating series where x is small, a bound below 1 where x is
large, and 1 - 2/(e^{2x} + 1) between. -/
def tanhEnc (x : Rat) : Rat × Rat :=
  if x < pow2 (-8) then
    let x2 := x * x
    let s := x - x * x2 / 3 + 2 * x * x2 * x2 / 15 - 17 * x * x2 * x2 * x2 / 315 + 62 * x * x2 * x2 * x2 * x2 / 2835
      - 1382 * x * x2 * x2 * x2 * x2 * x2 / 155925
    (s, s + 21844 * x * x2 * x2 * x2 * x2 * x2 * x2 / 6081075)
  else if 64 < x then (1 - pow2 (-150), 1)
  else
    let y := 2 * x * pow2 encBits
    let k := (y / ln2Enc.2).floor.toNat
    let rlo := (y - (k : Rat) * ln2Enc.2).floor.toNat
    let rhi := (y - (k : Rat) * ln2Enc.1).ceil.toNat
    let e := expEnc rlo rhi
    let elo := (e.1 : Rat) * pow2 ((k : Int) - encBits)
    let ehi := (e.2 : Rat) * pow2 ((k : Int) - encBits)
    (1 - 2 / (elo + 1), 1 - 2 / (ehi + 1))

/-- Round an irrational value known by an enclosure: always inexact, tiny when below the smallest normal. -/
def roundEnc (b : Rat × Rat) (neg ftz : Bool) : Nat × Nat :=
  let q := (b.1 + b.2) / 2
  let r := round (.fin (if neg then -q else q) neg) .fp32 .rne false ftz
  (r.1, flOr r.2 (flOr flNX (if q < pow2 (-126) && decide (0 ≤ q) then flUF else 0)))

/-- The special functions of R142. -/
inductive SpecFn where
  | rcp | rsq | sqrt | exp2 | log2 | tanh
  deriving DecidableEq, Repr, Inhabited

/-- FP32 result and flags of a special function (R142), on the decoded input. -/
def specFn (fn : SpecFn) (x : Rv) (ftz : Bool) : Nat × Nat :=
  let nan := FpFmt.nanBits .fp32
  let inf := FpFmt.infBits .fp32
  match x with
  | .nan => (nan, 0)
  | .inf neg =>
    match fn with
    | .rcp => (FpFmt.signed .fp32 neg 0, 0)
    | .rsq => if neg then (nan, flNV) else (0, 0)
    | .sqrt => if neg then (nan, flNV) else (inf, 0)
    | .exp2 => if neg then (0, 0) else (inf, 0)
    | .log2 => if neg then (nan, flNV) else (inf, 0)
    | .tanh => (FpFmt.signed .fp32 neg 0x3F800000, 0)
  | .fin q z =>
    if q == 0 then
      match fn with
      | .rcp => (FpFmt.signed .fp32 z inf, flDZ)
      | .rsq => (FpFmt.signed .fp32 z inf, flDZ)
      | .sqrt => (FpFmt.signed .fp32 z 0, 0)
      | .exp2 => (0x3F800000, 0)
      | .log2 => (FpFmt.signed .fp32 true inf, flDZ)
      | .tanh => (FpFmt.signed .fp32 z 0, 0)
    else if q < 0 then
      match fn with
      | .rcp => round (.fin (1 / q) true) .fp32 .rne false ftz
      | .rsq => (nan, flNV)
      | .sqrt => (nan, flNV)
      | .log2 => (nan, flNV)
      | .exp2 =>
        if q < -400 then (0, flOr flUF flNX)
        else if (q.floor : Rat) == q then round (.fin (pow2 q.floor) false) .fp32 .rne false ftz
        else roundEnc (exp2Enc q) false ftz
      | .tanh => roundEnc (tanhEnc (-q)) true ftz
    else
      match fn with
      | .rcp => round (.fin (1 / q) false) .fp32 .rne false ftz
      | .rsq => round (.fin (sqrtRat (1 / q)) false) .fp32 .rne false ftz
      | .sqrt => round (.fin (sqrtRat q) false) .fp32 .rne false ftz
      | .log2 =>
        let e := ilog2 q
        if pow2 e == q then round (.fin (e : Rat) false) .fp32 .rne false ftz
        else
          let b := log2Enc q
          if b.1 < 0 then roundEnc (-b.2, -b.1) true ftz else roundEnc b false ftz
      | .exp2 =>
        if 400 < q then (inf, flOr flOF flNX)
        else if (q.floor : Rat) == q then round (.fin (pow2 q.floor) false) .fp32 .rne false ftz
        else roundEnc (exp2Enc q) false ftz
      | .tanh => roundEnc (tanhEnc q) false ftz

/-! ## Types of R77 -/

/-- Width in bits of an element of a type code; 0 where the code has no scalar element. -/
def typeWidth (t : Nat) : Nat :=
  match t with
  | 0 | 4 | 11 | 12 | 15 | 16 => 8
  | 1 | 5 | 9 | 10 => 16
  | 2 | 6 | 8 => 32
  | 3 | 7 => 64
  | 13 | 14 => 4
  | _ => 0

/-- Whether a type code is a signed integer type. -/
def typeSigned (t : Nat) : Bool := decide (t < 4)

/-- Whether a type code is an integer type. -/
def typeInt (t : Nat) : Bool := decide (t < 8)

/-- The scalar format of a type code 8 to 13; the element format of a block type (R100). -/
def typeFmt (t : Nat) : FpFmt :=
  match t with
  | 8 => .fp32
  | 9 => .fp16
  | 10 => .bf16
  | 11 | 15 => .e4m3
  | 12 => .e5m2
  | _ => .e2m1

/-- Smallest value of an integer type. -/
def typeMin (t : Nat) : Int := if typeSigned t then -((2 ^ (typeWidth t - 1) : Nat) : Int) else 0

/-- Largest value of an integer type. -/
def typeMax (t : Nat) : Int := if typeSigned t then ((2 ^ (typeWidth t - 1) : Nat) : Int) - 1 else ((2 ^ typeWidth t : Nat) : Int) - 1

/-- An element read with the signedness of its integer type (R137). -/
def readInt (t v : Nat) : Int := if typeSigned t then sext v (typeWidth t) else ((v % 2 ^ typeWidth t : Nat) : Int)

/-! ## Block formats (R100, R101) -/

/-- Whether a type code is a block format. -/
def isBlock (t : Nat) : Bool := decide (14 ≤ t ∧ t ≤ 16)

/-- TOP of R112. -/
def blockTop (t : Nat) : Int :=
  match t with
  | 14 => 2
  | 15 => 8
  | _ => 0

/-- bb of R185: data bytes of a block. -/
def blockBytes (t : Nat) : Nat := if t == 14 then 16 else 32

/-- MXVAL of R112: the value of element `v` of block format `t` under scale byte `s`. -/
def mxval (t s v : Nat) : Rv :=
  if s % 256 == 255 then .nan
  else
    let sc := pow2 ((s % 256 : Nat) - 127)
    if t == 16 then
      let n := sext v 8
      .fin (sc * n / 64) false
    else match dec (typeFmt t) v with
      | .fin q z => .fin (sc * q) z
      | r => r

/-- The largest of the magnitudes of the reals of a list. -/
def maxMag (xs : List Rv) : Rat :=
  xs.foldl (fun m x => match x with | .fin q _ => if m < (if q < 0 then -q else q) then (if q < 0 then -q else q) else m | _ => m) 0

/-- PACKMX of R101: scale byte, element encodings, flags. -/
def packmx (xs : List Rv) (t : Nat) (neg128 : Bool) : Nat × List Nat × Nat :=
  if xs.any (fun x => match x with | .fin _ _ => false | _ => true) then (0xFF, xs.map (fun _ => 0), flNV)
  else
    let mx := maxMag xs
    if mx == 0 then (0x7F, xs.map (fun _ => 0), 0)
    else
      let s := satI (ilog2 mx - blockTop t) (-127) 127
      let els := xs.map (fun x =>
        match x with
        | .fin q z =>
          let y := q / pow2 s
          if t == 16 then
            let n := rneInt (y * 64)
            (wrapI (satI n (if neg128 then -128 else -127) 127) 8, if (n : Rat) == y * 64 then 0 else flNX)
          else round (.fin y z) (typeFmt t) .rne true false
        | _ => (0, 0))
      ((s + 127).toNat, els.map (·.1), els.foldl (fun a e => flOr a e.2) 0)

/-! ## Dandelion (R108, R109) -/

/-- MIX of R108. -/
def mix (z : DWord) : DWord :=
  let z := (z ^^^ (z >>> 30)) * 0xBF58476D1CE4E5B9#64
  let z := (z ^^^ (z >>> 27)) * 0x94D049BB133111EB#64
  z ^^^ (z >>> 31)

/-- F(K, n) of R108. -/
def dandelion (k : DWord) (n : Nat) : DWord := mix (k + (BitVec.ofNat 64 (n + 1)) * 0x9E3779B97F4A7C15#64)

/-- LI of R109. -/
def laneIndex (j r c l : Nat) : Nat := j * 2 ^ 15 + r * 2 ^ 10 + c * 2 ^ 5 + l

/-- LRB of R109. -/
def lrb (w : DWord) (j r c l : Nat) : Nat := (dandelion w (laneIndex j r c l)).toNat % 2 ^ 32

/-- LRBE of R109: the lane bits of the edge loaders. -/
def lrbe (w : DWord) (j k s l : Nat) : Nat := (dandelion w (2 ^ 21 + j * 2 ^ 11 + k * 2 ^ 10 + s * 2 ^ 5 + l)).toNat % 2 ^ 32

/-- The rounding mode of a RND field 0 to 4, SR with lane bits `bits`. -/
def rndOf (code bits : Nat) : Rnd :=
  match code with
  | 0 => .rne
  | 1 => .rtz
  | 2 => .rup
  | 3 => .rdn
  | _ => .sr ((bits : Rat) / ((2 ^ 32 : Nat) : Rat))

/-- The rounding mode where SR is applied as RNE (R103). -/
def rndNoSr (code : Nat) : Rnd :=
  match code with
  | 1 => .rtz
  | 2 => .rup
  | 3 => .rdn
  | _ => .rne

/-- Whether a mode gives -0 for an exact zero sum (R106). -/
def Rnd.isDn : Rnd → Bool
  | .rdn => true
  | _ => false

/-- The format-table entry fields of R103. -/
def ftA (e : Word) : Nat := bitsAt e.toNat 0 5
/-- BFMT. -/
def ftB (e : Word) : Nat := bitsAt e.toNat 5 5
/-- ACC. -/
def ftAcc (e : Word) : Nat := bitsAt e.toNat 10 2
/-- RND. -/
def ftRnd (e : Word) : Nat := bitsAt e.toNat 12 3
/-- FTZ. -/
def ftFtz (e : Word) : Bool := bitAt e.toNat 15
/-- SMODE. -/
def ftSmode (e : Word) : Nat := bitsAt e.toNat 16 2
/-- NEG128. -/
def ftNeg128 (e : Word) : Bool := bitAt e.toNat 18
/-- SATCVT. -/
def ftSat (e : Word) : Bool := bitAt e.toNat 19

/-- Whether an entry has a reserved encoding (R103). -/
def ftReserved (e : Word) : Bool :=
  decide (17 ≤ ftA e) || decide (17 ≤ ftB e) || decide (5 ≤ ftRnd e) || decide (2 ≤ ftSmode e) || decide (0 < bitsAt e.toNat 20 12)

end Sys2Proof.Machine
end

