-- ==== Sys2Proof/Machine/Operands.lean ====
section
/-! DEFINITION. Sys2Proof/Machine/Operands.lean: the operand forms: sequencer registers, guards and immediates (R53, R70,
R71), parameter packs and format selectors (R82, R84), renamed cell names, predicates, parts and elements (R59 to R61, R76,
R132, R133), cell-SRAM rows (R155). -/
namespace Sys2Proof.Machine

/-- The result of an operation or of a step. -/
abbrev Res := Host.Outcome State Fault Refusal

/-! ## Sequencer registers (R53) -/

/-- Scalar register `i`. -/
def Task.sReg (t : Task) (i : Nat) : DWord := fget t.r.s 0 i
/-- Predicate `i`; q15 reads 1. -/
def Task.qReg (t : Task) (i : Nat) : Bool := if i = 15 then true else fget t.r.q false i
/-- Loop counter `i`. -/
def Task.lcReg (t : Task) (i : Nat) : Word := fget t.r.lc 0 i
/-- All ones, what masks hold at launch. -/
def onesW : Word := BitVec.allOnes 32
/-- All ones, what position masks hold at launch. -/
def onesD : DWord := BitVec.allOnes 64
/-- Row mask `i`; rm0 is hardwired. -/
def Task.rmReg (t : Task) (i : Nat) : Word := if i = 0 then onesW else fget t.r.rm onesW i
/-- Column mask `i`; cm0 is hardwired. -/
def Task.cmReg (t : Task) (i : Nat) : Word := if i = 0 then onesW else fget t.r.cm onesW i
/-- Position mask `i`; pm0 is hardwired. -/
def Task.pmReg (t : Task) (i : Nat) : DWord := if i = 0 then onesD else fget t.r.pm onesD i
/-- Format-table entry `i`. -/
def Task.ftReg (t : Task) (i : Nat) : Word := fget t.r.ft 0 i

/-- The guard q[qp] XOR qn (R71). -/
def Task.guard (t : Task) (qp qn : Nat) : Bool := t.qReg qp != (qn == 1)

/-- Write a scalar register. -/
def SeqRegs.setS (r : SeqRegs) (i : Nat) (v : DWord) : SeqRegs := { r with s := fset r.s 0 i v }
/-- Write a predicate; a write to q15 is ignored (R53). -/
def SeqRegs.setQ (r : SeqRegs) (i : Nat) (v : Bool) : SeqRegs := if i = 15 then r else { r with q := fset r.q false i v }
/-- Write a loop counter. -/
def SeqRegs.setLc (r : SeqRegs) (i : Nat) (v : Word) : SeqRegs := { r with lc := fset r.lc 0 i v }

/-- Sign-extend the low `w` bits of `v` to a doubleword. -/
def sextD (v w : Nat) : DWord := BitVec.ofInt 64 (sext v w)

/-- A format selector, resolved against the loop counters and format table of issue (R82). -/
def Task.fmtEntry (t : Task) (fmt : Nat) : Word :=
  if fmt < 16 then t.ftReg fmt
  else t.ftReg (((t.lcReg (bitsAt fmt 2 2)).toNat + bitsAt fmt 0 2) % 16)

/-- The registers of a parameter pack of `n` registers (R84). -/
def Task.packRegs (t : Task) (pack n : Nat) : List DWord := (List.range n).map (fun i => t.sReg (pack + i))

/-- Bits `lo + len - 1 : lo` of a doubleword, as a number. -/
def field (d : DWord) (lo len : Nat) : Nat := bitsAt d.toNat lo len

/-! ## Where a task runs (R16, R46, R48) -/

/-- Chain length. -/
def Task.len (t : Task) : Nat := t.prog.hdr.chain
/-- The logical die of chain position `j`: two logical arrays to a die. -/
def Task.dieAt (t : Task) (j : Nat) : Nat := (t.id.head + j) / 2
/-- The die of the head. -/
def Task.die (t : Task) : Nat := t.id.head / 2
/-- The chain positions a position mask selects (R30). -/
def positions (pm : DWord) (len : Nat) : List Nat := (List.range len).filter (fun j => decide (j < 48) && pm.getLsbD j)

/-! ## Cell operands (R59 to R61, R76, R132, R133) -/

/-- Renaming of a vector-register name (R60). -/
def renameV (rotsz rotbase n : Nat) : Nat := if rotsz ≠ 0 ∧ n < rotsz then (n + rotbase) % rotsz else n

/-- Lane `l` of a vector register. -/
def lane (v : VecReg) (l : Nat) : Word := v.extractLsb' (32 * l) 32

/-- A register all of whose 32 lanes are given. -/
def ofLanes (f : Nat → Nat) : VecReg :=
  BitVec.ofNat 1024 ((List.range 32).foldl (fun a l => a + f l % 2 ^ 32 * 2 ^ (32 * l)) 0)

/-- `rb`: the random bits of the 32 lanes of the executing cell (R62, R109). -/
def CellRun.rb (c : CellRun) : VecReg := ofLanes (fun l => lrb c.fl.w c.pos c.row c.col l)

/-- Physical vector register `i` of the executing cell. -/
def CellRun.phys (c : CellRun) (i : Nat) : VecReg := fget c.cell.v 0 i

/-- The value of a readable name in the executing cell (R38, R59, R60, R62). -/
def CellRun.src (c : CellRun) (n : Nat) : VecReg :=
  if n < 1536 then c.phys (renameV c.fl.rotsz c.fl.rotbase n)
  else if n = 2040 then c.cell.x
  else if n = 2041 then c.xn
  else if n = 2042 then c.xs
  else if n = 2043 then c.xe
  else if n = 2044 then c.xw
  else if n = 2045 then c.rb
  else 0

/-- Predicate `i` of the executing cell; p20 to p23 read SV in stage mode (R61). -/
def CellRun.pReg (c : CellRun) (i : Nat) : Word :=
  if c.fl.sm && decide (20 ≤ i ∧ i ≤ 23) then (if bitAt c.fl.sv (i - 20) then onesW else 0) else fget c.cell.p 0 i

/-- The 32 enable bits of a predicate field (R133): all ones for 31. -/
def CellRun.predBits (c : CellRun) (pred pneg : Nat) : Word :=
  if pred = 31 then onesW else if pneg = 1 then ~~~ c.pReg pred else c.pReg pred

/-- The gate of an M operation (R117). -/
def CellRun.gate (c : CellRun) (f : FmtM) : Bool := f.pred == 31 || (c.predBits f.pred f.pneg).getLsbD 0

/-- `w` one bits from bit `lo` on. -/
def maskAt (lo w : Nat) : VecReg := BitVec.ofNat 1024 ((2 ^ w - 1) * 2 ^ lo)

/-- The low `w` bits of `v`, at bit `lo`. -/
def bitsTo (lo w v : Nat) : VecReg := BitVec.ofNat 1024 (v % 2 ^ w * 2 ^ lo)

/-- Put a result of latency `lat` for vector name `name` into the cell's holding buffer: the bits of `mask` (R35, R59, R136). -/
def CellRun.write (c : CellRun) (name lat : Nat) (mask v : VecReg) : CellRun :=
  if name = 2047 then c
  else
    let d : CDst := if name = 2040 then .x else .v (renameV c.fl.rotsz c.fl.rotbase name)
    { c with cell := { c.cell with held := c.cell.held ++ [⟨c.fl.n + lat, d, mask, v⟩] } }

/-- Put a result of latency `lat` for a predicate into the cell's holding buffer. -/
def CellRun.writeP (c : CellRun) (i lat : Nat) (mask v : Word) : CellRun :=
  { c with cell := { c.cell with held := c.cell.held ++ [⟨c.fl.n + lat, .p i, mask.setWidth 1024, v.setWidth 1024⟩] } }

/-- What a cell operation computes for one element: its value and flags. -/
abbrev ElemResult := Nat × Nat

/-! ## Cell SRAM (R59, R155) -/

/-- Whether a row lies in the data area or the spill carve-out. -/
def CellRun.rowKept (c : CellRun) (row : Nat) : Bool := decide (row < c.crows) || decide (2048 - c.spill ≤ row ∧ row < 2048)

/-- A cell-SRAM row; a gap row reads zero. -/
def CellRun.rowRd (c : CellRun) (row : Nat) : VecReg := if c.rowKept row then fget c.cell.sram 0 row else 0

/-- Write the bits of `mask` of a row, which ends the errors of the words it fills (R355); a write to a gap row is dropped. -/
def CellRun.rowWr (c : CellRun) (row : Nat) (mask v : VecReg) : CellRun :=
  if c.rowKept row then
    { c with cell := { c.cell with
        sram := fset c.cell.sram 0 row ((fget c.cell.sram 0 row &&& ~~~ mask) ||| (v &&& mask)),
        errs := c.cell.errs.filter (fun e => !(e.place == .row row && mask.extractLsb' (64 * e.word) 64 == BitVec.allOnes 64)) } }
  else c

/-- The lanes whose bit of `en` is 1, as a mask of a register. -/
def laneMask (en : Word) : VecReg := ofLanes (fun l => if en.getLsbD l then 2 ^ 32 - 1 else 0)

end Sys2Proof.Machine

namespace Sys2Proof
open Sys2Proof.Machine

/-! ## Fields of the cell formats as operands -/

/-- The lowest bit of the part of a V operation (R76). -/
def FmtV.lo (f : FmtV) : Nat := f.part * f.bits

/-- Elements of width `w` in the part. -/
def FmtV.count (f : FmtV) (w : Nat) : Nat := f.bits / w

/-- Element `e` of width `w` of the part of a register (R132). -/
def FmtV.elem (f : FmtV) (v : VecReg) (w e : Nat) : Nat := (v.extractLsb' (f.lo + w * e) w).toNat

/-- The lane that holds the lowest bit of element `e` of width `w` of the part. -/
def FmtV.laneOf (f : FmtV) (w e : Nat) : Nat := (f.lo + w * e) / 32

/-- Elements `e` of `l`, of width `w`, wherever enabled: mask, value and flags of all of them. -/
def FmtV.mapAt (f : FmtV) (w : Nat) (en : Word) (l : List Nat) (g : Nat → ElemResult) : VecReg × VecReg × Nat :=
  match l with
  | [] => (0, 0, 0)
  | e :: t =>
    let acc := f.mapAt w en t g
    if en.getLsbD (f.laneOf w e) then
      let r := g e
      (acc.1 ||| maskAt (f.lo + w * e) w, acc.2.1 ||| bitsTo (f.lo + w * e) w r.1, flOr acc.2.2 r.2)
    else acc

/-- Every enabled element of the part: mask, value and flags. -/
def FmtV.mapElems (f : FmtV) (w : Nat) (en : Word) (g : Nat → ElemResult) : VecReg × VecReg × Nat :=
  f.mapAt w en (List.range (f.count w)) g

/-- The lanes of the part. -/
def FmtV.lanes (f : FmtV) : List Nat := (List.range (f.bits / 32)).map (f.lo / 32 + ·)

/-- The row or index an X operation names: addr + stride × lc[lcsel]. -/
def FmtX.index (f : FmtX) (lc : List Word) : Nat := f.addr + f.stride * (lc.getD f.lcsel 0).toNat

end Sys2Proof
end

