-- ==== Sys2Proof/Machine/Rewrite.lean ====
section
/-! DEFINITION. Sys2Proof/Machine/Rewrite.lean: the loader's rewriter, which makes a class-2 image of a class-1 program (R378 to R382). -/
namespace Sys2Proof.Machine

/-! ## What a program's text says -/

/-- The operation a slot of bundle `a` holds; none beyond the code and where the slot does not decode. -/
def opAt (code : List Bundle) (k : Slot) (a : Nat) : Option Instr :=
  match code[a]? with
  | none => none
  | some b => match decodeSlot k (slotBits b k) with | .ok i => some i | .error _ => none

/-- The operations of bundle `a`, cell control apart. -/
def opsAt (code : List Bundle) (a : Nat) : List Instr := ([.h, .sa, .sb, .m, .v0, .v1, .x, .ld, .st, .e] : List Slot).filterMap (fun k => opAt code k a)

/-- The bits of a field of bundle `a`. -/
def fieldAt (code : List Bundle) (k : Slot) (a : Nat) : Nat := slotBits (code.getD a 0) k

/-- The bundle a relative branch of bundle `a` goes to. -/
def branchTarget (code : List Bundle) (a : Nat) : Option Int :=
  match opAt code .sb a with
  | some (.br f) | some (.call f) | some (.bagg f) | some (.loop f) => some ((a : Int) + sext f.imm 29)
  | _ => none

/-- A guard that is always 1 (R71). -/
def always (qp qn : Nat) : Bool := qp == 15 && qn == 0

/-- The bundle after `a` may issue after it. -/
def fallsThrough (code : List Bundle) (a : Nat) : Bool :=
  match opAt code .sb a with
  | some (.br f) | some (.call f) | some (.ret f) => !always f.qp f.qn
  | some (.done f) => !always f.qp f.qn
  | _ => true

/-- Bundle `a` holds `call`. -/
def holdsCall (code : List Bundle) (a : Nat) : Bool := match opAt code .sb a with | some (.call _) => true | _ => false

/-- Bundle `a` holds `ret`. -/
def holdsRet (code : List Bundle) (a : Nat) : Bool := match opAt code .sb a with | some (.ret _) => true | _ => false

/-- Bundle `a` holds `brx`. -/
def holdsBrx (code : List Bundle) (a : Nat) : Bool := match opAt code .sb a with | some (.brx _) => true | _ => false

/-- The bundles that may issue just after bundle `a`, whatever the guards and counts are; `ret` and `brx` may go anywhere. -/
def afterOf (code : List Bundle) (a : Nat) : List Nat :=
  (List.range code.length).filter (fun q => holdsRet code a || holdsBrx code a || (a + 1 == q && fallsThrough code a) ||
    branchTarget code a == some (q : Int))

/-- What is reached from `l` in at most `k` steps. -/
def reachN (next : Nat → List Nat) (k : Nat) (l : List Nat) : List Nat :=
  match k with
  | 0 => l
  | k + 1 =>
    let m := (l ++ l.flatMap next).eraseDups
    if m.length = l.length then l else reachN next k m

/-- The bundles that may issue just before bundle `a`, whatever the guards and counts are. -/
def beforeOf (code : List Bundle) (a : Nat) : List Nat :=
  let all := List.range code.length
  all.filter (fun q => (q + 1 == a && fallsThrough code q) || branchTarget code q == some (a : Int) ||
    (holdsRet code q && decide (0 < a) && holdsCall code (a - 1)))

/-- Those that may issue `n` bundles before one of `l`. -/
def beforeN (code : List Bundle) (n : Nat) (l : List Nat) : List Nat :=
  match n with
  | 0 => l
  | k + 1 => beforeN code k (l.flatMap (beforeOf code)).eraseDups

/-! ## Registers read and written -/

/-- A register a moved operation reads. -/
inductive TextReg where
  | s (i : Nat) | lc (i : Nat) | p (i : Nat) | v (i : Nat)
  deriving DecidableEq, Repr, Inhabited

/-- Latency of a vector operation (R135). -/
def vecLatency (i : Instr) : Nat :=
  match i with
  | .vmul .. | .vmulh .. | .vmad .. | .vclz .. | .vpopc .. | .vperm .. | .vshuf .. | .vbcast .. => 2
  | .vfadd .. | .vfsub .. | .vfmul .. | .vfma .. | .vfmin .. | .vfmax .. | .vfcmp .. | .vfclass .. | .vcvt .. | .vcvti .. | .vcvtf ..
  | .vpack .. | .vmxs .. | .vunpk .. | .vcmpr .. | .vred .. => 4
  | .vrcp .. | .vrsq .. | .vsqrt .. | .vexp2 .. | .vlog2 .. | .vtanh .. => 8
  | _ => 1

/-- Scalar registers and loop counters a sequencer operation writes, with the latency of each (R173). -/
def seqWrites (i : Instr) : List (TextReg × Nat) :=
  match i with
  | .add _ f | .sub _ f | .and _ f | .or _ f | .xor _ f | .shl _ f | .shr _ f | .min _ f | .max _ f | .clz _ f | .popc _ f | .sel _ f
  | .addsc _ f | .bfx _ f | .bfi _ f => [(.s f.d, 1)]
  | .addi _ f | .andi _ f | .ori _ f | .xori _ f | .shli _ f | .shri _ f | .movi _ f | .movh _ f => [(.s f.d, 1)]
  | .mul _ f | .mulh _ f => [(.s f.d, 3)]
  | .muli _ f => [(.s f.d, 3)]
  | .div _ f | .rem _ f => [(.s f.d, 12)]
  | .sld _ f => [(.s f.d, 5)]
  | .samo _ f => [(.s f.d, 8)]
  | .mfs f | .twait f | .tstat f => [(.s f.d, 1)]
  | .evpop f => [(.s f.d, 1), (.s (f.d + 1), 1)]
  | .loop f => [(.lc (f.a % 4), 1)]
  | .loopi f => [(.lc (f.d % 4), 1)]
  | _ => []

/-- Predicates and vector registers a cell operation writes, with the latency of each in class 1 (R135, R173). -/
def cellWrites (i : Instr) : List (TextReg × Nat) :=
  match i with
  | .vcmp _ f | .vfcmp _ f => [(if f.aux / 32 = 1 then .p f.d else .v f.d, vecLatency i)]
  | .pand _ f | .por _ f | .pxor _ f | .pnot _ f | .pset _ f => [(.p f.d, 1)]
  | .pflag .. | .nopV .. => []
  | .vadd _ f | .vsub _ f | .vmul _ f | .vmulh _ f | .vmad _ f | .vand _ f | .vor _ f | .vxor _ f | .vshl _ f | .vshr _ f | .vsar _ f
  | .vmin _ f | .vmax _ f | .vabs _ f | .vclz _ f | .vpopc _ f | .vadds _ f | .vsubs _ f | .vfadd _ f | .vfsub _ f | .vfmul _ f | .vfma _ f
  | .vfmin _ f | .vfmax _ f | .vfabs _ f | .vfneg _ f | .vfclass _ f | .vrcp _ f | .vrsq _ f | .vsqrt _ f | .vexp2 _ f | .vlog2 _ f
  | .vtanh _ f | .vcvt _ f | .vcvti _ f | .vcvtf _ f | .vpack _ f | .vmxs _ f | .vunpk _ f | .vcmpr _ f | .vmov _ f | .vmovi _ f
  | .vsel _ f | .vperm _ f | .vshuf _ f | .vbcast _ f | .vred _ f | .vcoord _ f => [(.v f.d, vecLatency i)]
  | .ast f => (List.range 8).map (fun m => (.v (f.a + m), 2))
  | .ldv f | .ldt f | .ldsp f | .gthl f | .ldb f => [(.v f.v, 3)]
  | .movxp f => [(.v f.v, 1)]
  | _ => []

/-- Some bundle of the program rotates names (R60), so that a vector name does not say which register it is. -/
def rotates (code : List Bundle) : Bool :=
  (List.range code.length).any (fun a => bitAt (fieldAt code .cc a) 14 || (match opAt code .sb a with | some (.rot _) => true | _ => false))

/-- A write of `w` may reach register `r`. -/
def TextReg.meets (rot : Bool) (r w : TextReg) : Bool :=
  r == w || (match r, w with | .v _, .v b => rot && decide (b < 1536) | _, _ => false)

/-- Some result due in bundle `b` writes one of the registers `l`, over every way the text leads there. -/
def dueWrites (code : List Bundle) (l : List TextReg) (b : Nat) : Bool :=
  (List.range 12).any (fun d => (beforeN code (d + 1) [b]).any (fun q => (opsAt code q).any (fun i =>
    (seqWrites i ++ cellWrites i).any (fun w => w.2 == d + 1 && l.any (fun r => r.meets (rotates code) w.1)))))

/-! ## Moves (R379, R380) -/

/-- An operation to move: its slot, its bundle, how far, and the registers it reads. -/
structure TextMove where
  slot : Slot
  at_ : Nat
  by_ : Nat
  reads : List TextReg
  deriving DecidableEq, Repr, Inhabited

/-- The registers an LD operation of `n` pack registers reads. -/
def edgeReads (f : FmtEdge) (n : Nat) : List TextReg :=
  (List.range n).map (fun i => .s (f.pack + i)) ++ (if bitAt f.fmt 4 then [.lc (bitsAt f.fmt 2 2)] else [])

/-- The registers an X load reads. -/
def loadReads (f : FmtX) : List TextReg := .lc f.lcsel :: (if f.pred < 24 then [.p f.pred] else [])

/-- The move R379 makes of an operation of bundle `a`. -/
def moveOf (a : Nat) (i : Instr) : Option TextMove :=
  match i with
  | .eldw f | .eldn f | .ews f | .eldt f | .eldb f => some ⟨.ld, a, 2, edgeReads f 2⟩
  | .ewin f => some ⟨.ld, a, 2, edgeReads f 4⟩
  | .ldv f | .ldt f | .ldsp f | .ldb f => some ⟨.x, a, 1, loadReads f⟩
  | .gthl f => some ⟨.x, a, 1, .v (f.v + 1) :: loadReads f⟩
  | _ => none

/-- Every move of a program. -/
def movesOf (code : List Bundle) : List TextMove :=
  (List.range code.length).flatMap (fun a => ([.ld, .x] : List Slot).filterMap (fun k => (opAt code k a).bind (moveOf a)))

/-- `br`, `call`, `ret`, `bagg`, `loop`, `trap`, `brk`, `done`. -/
def leavesRun (i : Instr) : Bool :=
  match i with
  | .br _ | .call _ | .ret _ | .bagg _ | .loop _ | .trap _ | .brk _ | .done _ => true
  | _ => false

/-- `mskset`. -/
def changesMasks (i : Instr) : Bool := match i with | .mskset _ => true | _ => false

/-- `ftset`, `rot`, `stage`. -/
def changesNames (i : Instr) : Bool := match i with | .ftset _ | .rot _ | .stage _ => true | _ => false

/-- `sst`, `samo`, `call`, an operation of R210, `bar` or `launch`. -/
def ordersMemory (i : Instr) : Bool :=
  match i with
  | .sst .. | .samo .. | .call _ | .twait _ | .tstat _ | .rwait _ | .rfree _ | .radv _ | .semw _ | .semsig _ | .fence _ | .rel _ | .acq _
  | .evpop _ | .bar _ | .launch _ => true
  | _ => false

/-- `stv`, `stsp`, `sctl`. -/
def storesRows (i : Instr) : Bool := match i with | .stv _ | .stsp _ | .sctl _ => true | _ => false

/-- A branch target, a return address or TRAPVEC. -/
def entered (code : List Bundle) (trapvec : Option Nat) (a : Nat) : Bool :=
  trapvec == some a || (List.range code.length).any (fun q => branchTarget code q == some (a : Int) || (holdsCall code q && q + 1 == a))

/-- No operation of the bundles from `lo` on, `n` of them, is such a one. -/
def noneOf (code : List Bundle) (p : Instr → Bool) (lo n : Nat) : Bool := (List.range n).all (fun i => !(opsAt code (lo + i)).any p)

/-- The name of a vector register an X load writes. -/
def loadDest (code : List Bundle) (m : TextMove) : Option Nat :=
  match opAt code m.slot m.at_ with
  | some (.ldv f) | some (.ldt f) | some (.ldsp f) | some (.ldb f) | some (.gthl f) => some f.v
  | _ => none

/-- The move would change which result is kept: the bundle the load moves to has another writer of `x` (R81), or an operation that the load
followed in its bundle writes the load's register with a result due when the load's is (R34). R380 names neither; R382 needs both (log entry 72). -/
def TextMove.clashes (m : TextMove) (code : List Bundle) : Bool :=
  match loadDest code m with
  | none => false
  | some v =>
    (v == 2040 && ([.v0, .v1] : List Slot).any (fun k => (opAt code k (m.at_ - m.by_)).any (fun i => (cellWrites i).any (·.1 == .v 2040)))) ||
    ([.m, .v0, .v1] : List Slot).any (fun k => (opAt code k m.at_).any (fun i => (cellWrites i).any (fun w => w.1 == .v v && w.2 == 3)))

/-- The conditions of R380 on a move, row by row. -/
def TextMove.allowed (m : TextMove) (code : List Bundle) (trapvec : Option Nat) : Bool :=
  let q := m.at_ - m.by_
  let run := List.range m.by_
  decide (m.by_ ≤ m.at_) && fieldAt code m.slot q == 0 &&
  run.all (fun i => !entered code trapvec (q + 1 + i)) &&
  !(List.range code.length).any (holdsBrx code) &&
  noneOf code leavesRun q m.by_ &&
  fieldAt code .h q == fieldAt code .h m.at_ && noneOf code changesMasks q m.by_ &&
  run.all (fun i => !dueWrites code m.reads (q + 1 + i)) && noneOf code changesNames q m.by_ &&
  run.all (fun i => bitsAt (fieldAt code .cc (q + i)) 12 3 == 0) &&
  (if m.slot = .ld then run.all (fun i => fieldAt code .st (q + i) == 0 && fieldAt code .e (q + i) == 0) &&
      noneOf code ordersMemory (q + 1) m.by_
   else noneOf code storesRows (q + 1) (m.by_ - 1)) && !m.clashes code

/-- A bundle with a field replaced. -/
def withSlot (b : Bundle) (k : Slot) (v : Nat) : Bundle :=
  BitVec.ofNat 512 (b.toNat - slotBits b k * 2 ^ k.lo + v % 2 ^ k.width * 2 ^ k.lo)

/-- Make a move: the field goes to its place with every bit, and leaves `nop` behind. -/
def TextMove.make (m : TextMove) (code : List Bundle) : List Bundle :=
  let v := fieldAt code m.slot m.at_
  (code.modify (m.at_ - m.by_) (fun b => withSlot b m.slot v)).modify m.at_ (fun b => withSlot b m.slot 0)

/-- `eldwr` and `eldnr`. -/
def claimsRing (i : Instr) : Bool := match i with | .eldwr _ | .eldnr _ => true | _ => false

/-- The class-2 image of a program's code, if every move is allowed (R379, R381). -/
def rewriteCode (code : List Bundle) (trapvec : Option Nat) : Option (List Bundle) :=
  let ms := movesOf code
  if noneOf code claimsRing 0 code.length && ms.all (fun m => m.allowed code trapvec) then some (ms.foldl (fun c m => m.make c) code) else none

end Sys2Proof.Machine
end

