-- ==== Sys2Proof/Machine/Ops.lean ====
section
/-! DEFINITION. Sys2Proof/Machine/Ops.lean: the named operations over the state: tasks, contexts and their partitions, the
shared SRAM, holding buffers (R174, R175), issue checks and waits (R86, R87, R211), taking a trap and leaving trap mode
(R338, R341), ending a context by a fault (R344 to R346), and the two shapes of an operation of a slot. -/
namespace Sys2Proof.Machine

/-! ## Tasks, contexts, partitions -/

/-- Context `c`. -/
def State.ctx (s : State) (c : Nat) : Ctx := fget s.ctxs default c

/-- Change context `c`. -/
def State.modCtx (s : State) (c : Nat) (f : Ctx → Ctx) : State := { s with ctxs := finsert s.ctxs c (f (s.ctx c)) }

/-- The partition entry of a context on a die (R319). -/
def State.partOf (s : State) (ctx die : Nat) : Part := fget s.parts default (ctx * 24 + die)

/-- Whether `n` bytes at a shared-SRAM offset lie in the context's partition on a die (R182). -/
def State.inSram (s : State) (ctx die a n : Nat) : Bool :=
  decide ((s.partOf ctx die).ssbase ≤ a ∧ a + n ≤ (s.partOf ctx die).sslim)

/-- Whether `n` bytes at a weight-store offset lie in the context's partition on a die (R187). -/
def State.inWs (s : State) (ctx die a n : Nat) : Bool :=
  decide ((s.partOf ctx die).wsbase ≤ a ∧ a + n ≤ (s.partOf ctx die).wslim)

/-- Change the task the step works for. -/
def State.modT (s : State) (f : Task → Task) : State := { s with t := f s.t }

/-- Change the scheduling and counting state of the task. -/
def State.modCtl (s : State) (f : TaskCtl → TaskCtl) : State := s.modT (fun t => { t with ctl := f t.ctl })

/-- Change the system registers of the task. -/
def State.modSys (s : State) (f : SysRegs → SysRegs) : State := s.modT (fun t => { t with sys := f t.sys })

/-- Change the issue in progress. -/
def State.modIss (s : State) (f : Issue → Issue) : State := { s with iss := f s.iss }

/-- Change the cell that executes. -/
def State.modCr (s : State) (f : CellRun → CellRun) : State := { s with cr := f s.cr }

/-- Change the memories. -/
def State.modMem (s : State) (f : Mems → Mems) : State := { s with mem := f s.mem }

/-- Change Rambler's state. -/
def State.modRam (s : State) (f : Rambler → Rambler) : State := { s with ram := f s.ram }

/-- Change the engines' state. -/
def State.modEng (s : State) (f : Engines → Engines) : State := { s with eng := f s.eng }

/-- The task that runs with its head at an array. -/
def State.taskAt (s : State) (head : Nat) : Option Task :=
  (s.tasks.find? (fun e => e.2.id.head == head && e.2.ctl.running)).map (·.2)

/-- Put a task back under its number. -/
def State.putTask (s : State) (t : Task) : State := { s with tasks := finsert s.tasks t.id.uid t }

/-- Work for a task: apply `f` with the task taken out, then put it back. -/
def State.onTask (s : State) (t : Task) (f : State → State) : State :=
  let s' := f { s with t := t }
  s'.putTask s'.t

/-- S(j) (R26). -/
def State.skew (s : State) (head j : Nat) : Nat :=
  match j with
  | 0 => 0
  | k + 1 => s.skew head k + 32 + s.part.seamlat.getD (head + k + 1) 0

/-- How many core cycles after its issue a bundle's aggregate is complete at the head (R44): S(L - 1) + 63 + 4 and the seams back. -/
def State.aggDelay (s : State) (head len : Nat) : Nat :=
  s.skew head (len - 1) + 67 + (List.range (len - 1)).foldl (fun a j => a + s.part.seamlat.getD (head + j + 1) 0) 0

/-! ## Shared SRAM and weight store (R182, R187) -/

/-- The key of a shared-SRAM byte. -/
def sramKey (die off : Nat) : Nat := die * 2 ^ 27 + off
/-- The key of a weight-store byte. -/
def wsKey (die off : Nat) : Nat := die * 2 ^ 31 + off

/-- `n` bytes of a die's shared SRAM, little-endian. -/
def State.sramRd (s : State) (die off n : Nat) : Nat := rdNat s.mem.sram (sramKey die off) n

/-- Errors left after `n` bytes from key `a` on have been written: a full write of a word clears its error (R355). -/
def clearErr (e : FMap Nat) (a n : Nat) : FMap Nat := e.filter (fun x => !(decide (a ≤ 8 * x.1) && decide (8 * x.1 + 8 ≤ a + n)))

/-- Write `n` bytes of a die's shared SRAM. -/
def State.sramWr (s : State) (die off n v : Nat) : State :=
  s.modMem (fun m => { m with sram := wrNat m.sram (sramKey die off) n v, sramErr := clearErr m.sramErr (sramKey die off) n })

/-- `n` bytes of a die's weight store, little-endian. -/
def State.wsRd (s : State) (die off n : Nat) : Nat := rdNat s.mem.ws (wsKey die off) n

/-- Write `n` bytes of a die's weight store. -/
def State.wsWr (s : State) (die off n v : Nat) : State :=
  s.modMem (fun m => { m with ws := wrNat m.ws (wsKey die off) n v, wsErr := clearErr m.wsErr (wsKey die off) n })

/-- A 128-byte segment of a die's shared SRAM. -/
def State.segRd (s : State) (die off : Nat) : VecReg := BitVec.ofNat 1024 (s.sramRd die off 128)

/-- Write a 128-byte segment. -/
def State.segWr (s : State) (die off : Nat) (v : VecReg) : State := s.sramWr die off 128 v.toNat

/-! ## Storage errors of the SRAMs (R354, R355) -/

/-- Whether word `w` meets the `n` bytes from key `a` on. -/
def meetsWord (a n w : Nat) : Bool := decide (a < 8 * w + 8) && decide (8 * w < a + n)

/-- Some word among `n` bytes has an uncorrectable error. -/
def errBad (e : FMap Nat) (a n : Nat) : Bool := e.any (fun x => meetsWord a n x.1 && x.2 == 2)

/-- The first word among `n` bytes with an uncorrectable error. -/
def errWord (e : FMap Nat) (a n : Nat) : Nat := ((e.find? (fun x => meetsWord a n x.1 && x.2 == 2)).map (·.1)).getD 0

/-- The words among `n` bytes with a correctable error. -/
def errSoft (e : FMap Nat) (a n : Nat) : List Nat := (e.filter (fun x => meetsWord a n x.1 && x.2 == 1)).map (·.1)

/-- A read of shared SRAM corrects in place what it can and counts it in the die's history (R354). -/
def State.sramFix (s : State) (die off n : Nat) : State :=
  let l := errSoft s.mem.sramErr (sramKey die off) n
  if l.isEmpty then s
  else s.modMem (fun m => { m with sramErr := m.sramErr.filter (fun x => !l.contains x.1), fixed := fmod m.fixed 0 die (· + l.length) })

/-- A read of the weight store corrects in place what it can. -/
def State.wsFix (s : State) (die off n : Nat) : State :=
  let l := errSoft s.mem.wsErr (wsKey die off) n
  if l.isEmpty then s
  else s.modMem (fun m => { m with wsErr := m.wsErr.filter (fun x => !l.contains x.1), fixed := fmod m.fixed 0 die (· + l.length) })

/-! ## Holding buffer of the head (R174, R175) -/

/-- Put a result into its register. -/
def SeqRegs.apply (r : SeqRegs) (d : SDst) (v : DWord) : SeqRegs :=
  match d with
  | .s i => r.setS i v
  | .q i => r.setQ i (v.getLsbD 0)
  | .lc i => r.setLc i (v.setWidth 32)

/-- Whether a held result lands at the bundle now at issue: normal results by bundle count, handler results by handler
count; results of the other kind stay (R175). -/
def SHeld.isDue (c : TaskCtl) (tm : Bool) (h : SHeld) : Bool :=
  h.handler == tm && decide (h.due ≤ if tm then c.hcnt else c.bcnt)

/-- The landing of a result ends the errors of its register and of its place in the holding buffer (R355). -/
def SHeld.clears (h : SHeld) (e : SeqErr) : Bool :=
  e.place == .held h.due h.dst || (match h.dst with | .s i => e.place == .s i | .q _ => false | .lc i => e.place == .lc i)

/-- Land every result due, in issue order (R34, R174). -/
def Task.land (t : Task) : Task :=
  { t with r := (t.held.filter (·.isDue t.ctl t.sys.tm)).foldl (fun r h => r.apply h.dst h.val) t.r,
           held := t.held.filter (fun h => !h.isDue t.ctl t.sys.tm),
           errs := t.errs.filter (fun e => !(t.held.filter (·.isDue t.ctl t.sys.tm)).any (·.clears e)) }

/-- Land every handler result (R175, `eret`). -/
def Task.landHandler (t : Task) : Task :=
  { t with r := (t.held.filter (·.handler)).foldl (fun r h => r.apply h.dst h.val) t.r,
           held := t.held.filter (fun h => !h.handler),
           errs := t.errs.filter (fun e => !(t.held.filter (·.handler)).any (·.clears e)) }

/-- A place of the sequencer's state has been written whole (R355). -/
def Task.wrote (t : Task) (p : SeqPlace) : Task := { t with errs := t.errs.filter (fun e => e.place != p) }

/-- Hold a result of latency `lat` of the bundle now at issue. -/
def State.hold (s : State) (lat : Nat) (d : SDst) (v : DWord) : State :=
  s.modT (fun t => { t with
    held := t.held ++ [⟨(if t.sys.tm then t.ctl.hcnt else t.ctl.bcnt) + lat, t.sys.tm, d, v, t.ctl.cyc + lat, none⟩] })

/-- Hold the result of a load that performs later, under number `tag`. -/
def State.holdLoad (s : State) (d : SDst) (tag : Nat) : State :=
  s.modT (fun t => { t with
    held := t.held ++ [⟨(if t.sys.tm then t.ctl.hcnt else t.ctl.bcnt) + 5, t.sys.tm, d, 0, t.ctl.cyc + 5, some tag⟩] })

/-- A load performs: its result has its value. -/
def Task.loaded (t : Task) (tag : Nat) (v : DWord) : Task :=
  { t with held := t.held.map (fun h => if h.pend = some tag then { h with val := v, pend := none } else h) }

/-- Some result due at the bundle now at issue waits for its load (R35, R174). -/
def Task.loadDue (t : Task) : Bool := t.held.any (fun h => h.isDue t.ctl t.sys.tm && h.pend.isSome)

/-- Every handler result is ready (R175, R341). -/
def Task.handlerReady (t : Task) : Bool := t.held.all (fun h => !h.handler || (h.pend.isNone && decide (h.ready ≤ t.ctl.cyc)))

/-- A bit as a doubleword. -/
def bitD (b : Bool) : DWord := if b then 1 else 0

/-! ## Issue checks and waits (R86, R87, R211) -/

/-- Record failed checks. -/
def State.addFails (s : State) (l : List Fail) : State := s.modIss (fun i => { i with fails := i.fails ++ l })

/-- A check: nothing if it holds, else a failure. -/
def check (ok : Bool) (f : Fail) : List Fail := if ok then [] else [f]

/-- A failure of kind 0, 1 or 2: `$tval` holds the slot's bits (R385). -/
def failSlot (s : State) (source kind : Nat) : Fail := ⟨source, kind, s.iss.slot, false⟩
/-- An alignment failure (kind 3). -/
def failAlign (source v : Nat) : Fail := ⟨source, 3, BitVec.ofNat 64 v, false⟩
/-- A range failure (kind 4). -/
def failRange (source v : Nat) : Fail := ⟨source, 4, BitVec.ofNat 64 v, false⟩

/-- Issue waits while `c` holds. -/
def State.stallIf (s : State) (c : Bool) : State := s.modIss (fun i => { i with stall := i.stall || c })

/-- The trap R87 takes for failed checks: the lowest source, its lowest kind, the first value recorded for it, and the mask
of failing sources. -/
def chooseTrap (l : List Fail) : Option (Fail × Nat) :=
  let src := l.foldl (fun m f => min m f.source) 16
  let kind := (l.filter (fun f => f.source == src)).foldl (fun m f => min m f.kind) 16
  match l.find? (fun f => f.source == src && f.kind == kind) with
  | none => none
  | some f => some (f, (List.range 9).foldl (fun a i => if l.any (fun g => g.source == i) then a + 2 ^ i else a) 0)

/-! ## Ends of contexts by fault, traps (R338 to R346) -/

/-- Record what ends a context; the first fault stands. The context stops when the CONTEXT_END_FAULT step happens. -/
def State.endByFault (s : State) (ctx : Nat) (r : FaultRec) : State :=
  s.modCtx ctx (fun c => { c with ffault := if c.ffault.isSome then c.ffault else some r })

/-- A record about the task a step works for (R346); 0xFF and all ones where no party of the kind is concerned. -/
def Task.faultRec (t : Task) (cause tval epc fmask : Nat) : FaultRec :=
  ⟨cause, t.die, t.id.head, 0, 0xFF, 0xFF, t.id.taskid % 2 ^ 32, epc, tval, 0xFFFF, fmask, 0⟩

/-- The bundles that may hold one of the next `k` counts after the bundle at issue (R345): those the program's text leads to; a program
with a trap handler may go on anywhere, since the handler may write `$epc`. -/
def Task.soon (t : Task) (k : Nat) : List Nat :=
  if t.prog.hdr.trapv then List.range t.prog.code.length
  else reachN (afterOf t.prog.code) k ([t.ctl.pc].filter (· < t.prog.code.length))

/-- EPC of an imprecise fault of bundle `n` at `addr` (R345): the address of a bundle whose count lies from `n` to `n + 255`, one in
flight or one that may still issue; which of them is open (log entry 10). A bundle of the handler (`hand`) is reported exactly. -/
def State.imprEpc (s : State) (t : Task) (n addr : Nat) (hand : Bool) : Nat :=
  let flying := (t.flights.filter (fun fl => decide (n < fl.n ∧ fl.n ≤ n + 255))).map (·.addr)
  let ahead := if t.ctl.bcnt ≤ n + 255 then t.soon (n + 255 - t.ctl.bcnt) else []
  let l := addr :: (flying ++ ahead)
  if hand then addr else l.getD (Config.freeEpc s.free % l.length) addr

/-- An imprecise fault of a slot of bundle `n` at chain position `pos` ends the context (R344, R345). -/
def State.imprecise (s : State) (t : Task) (n addr : Nat) (hand : Bool) (src kind tval pos : Nat) : State :=
  s.endByFault t.id.ctx
    { t.faultRec (src * 16 + kind + 2 ^ 8) tval (s.imprEpc t n addr hand) (2 ^ src) with die := t.dieAt pos, arr := t.id.head + pos, pos := pos }

/-- An access of a slot of bundle `n` reads `len` bytes of shared SRAM of the die of position `pos`: an uncorrectable error
ends the context, the offset of its word in `$tval` (R346), a correctable one is corrected (R354, R355). -/
def State.sramSee (s : State) (t : Task) (n addr : Nat) (hand : Bool) (src pos off len : Nat) : State :=
  if errBad s.mem.sramErr (sramKey (t.dieAt pos) off) len then
    s.imprecise t n addr hand src 11 (8 * errWord s.mem.sramErr (sramKey (t.dieAt pos) off) len - sramKey (t.dieAt pos) 0) pos
  else s.sramFix (t.dieAt pos) off len

/-- The same for the weight store. -/
def State.wsSee (s : State) (t : Task) (n addr src pos off len : Nat) : State :=
  if errBad s.mem.wsErr (wsKey (t.dieAt pos) off) len then
    s.imprecise t n addr false src 11 (8 * errWord s.mem.wsErr (wsKey (t.dieAt pos) off) len - wsKey (t.dieAt pos) 0) pos
  else s.wsFix (t.dieAt pos) off len

/-- TAKE of R338: taking a trap. In trap mode, or without a trap vector, the context ends. -/
def State.takeTrap (s : State) (code : Nat) (repl : Bool) (tval : DWord) (fmask epc : Nat) : State :=
  if s.t.sys.tm || !s.t.prog.hdr.trapv then
    s.endByFault s.t.id.ctx (s.t.faultRec (code + b2n repl * 2 ^ 9) tval.toNat (if s.t.sys.tm then s.iss.addr else epc) fmask)
  else
    (s.modSys (fun y => { y with cause := BitVec.ofNat 64 (code + b2n repl * 2 ^ 9), tval := tval,
                                 fmask := BitVec.ofNat 64 fmask, epc := BitVec.ofNat 64 epc, tm := true })).modCtl
      (fun c => { c with pc := s.t.prog.hdr.trapvec, early := none })

/-- ERET of R341: every handler result lands; the task leaves trap mode, or the context ends if `$epc` lies outside the code. -/
def State.leaveTrap (s : State) : State :=
  let s := s.modT Task.landHandler
  if s.t.prog.hdr.codesz ≤ s.t.sys.epc.toNat then
    s.endByFault s.t.id.ctx (s.t.faultRec 0x14 s.t.sys.epc.toNat s.iss.addr 2)
  else (s.modSys (fun y => { y with tm := false })).modCtl (fun c => { c with pc := s.t.sys.epc.toNat })

/-- SV after a bundle's stage shift (R61), `z` being lc0 after its own effects. -/
def shiftSv (sv shift : Nat) (z : Word) : Nat :=
  match shift with
  | 0 => sv
  | 1 => (sv * 2 + b2n (z != 0)) % 16
  | 2 => b2n (z != 0)
  | _ => 0

/-! ## The shapes of a slot operation -/

/-- What an operation of a slot does at issue: the checks it fails, the waits it adds (R211), and its effect when the
bundle commits. A step that executes a cell's part leaves it alone. -/
def atIssue (s : State) (fails : List Fail) (wait commit : State) : Res :=
  match s.phase with
  | .check => .next (s.addFails fails)
  | .wait => .next wait
  | .commit => .next commit
  | .cell => .next s

/-- A sequencer operation (R71, R161): `always` are the checks made whatever the guard, `guarded` those made only when it
is performed. -/
def seqOp (s : State) (qp qn : Nat) (always guarded : List Fail) (wait commit : State) : Res :=
  if s.iss.t0.guard qp qn then atIssue s (always ++ guarded) wait commit
  else atIssue s always s s

/-- An operation of the cell part: checks and waits of the head; at commit it travels with the bundle (R24, R27); a cell
that acts performs `cell`. -/
def cellOp (s : State) (i : Instr) (fails : List Fail) (wait commit cell : State) : Res :=
  match s.phase with
  | .check => .next (s.addFails fails)
  | .wait => .next wait
  | .commit => .next (commit.modIss (fun q => { q with fl := { q.fl with ops := q.fl.ops ++ [i] } }))
  | .cell => .next cell

/-- A step of another agent: it happens if `enabled`, and otherwise nothing changes. -/
def event (s : State) (enabled : Bool) (s' : State) : Res := .next (if enabled then s' else s)

end Sys2Proof.Machine
end

