-- ==== Sys2Proof/Machine/Flags.lean ====
section
/-! DEFINITION. Sys2Proof/Machine/Flags.lean: the flags of a bundle in flight and their merge, in bundle order, into `$fpf`
and `$fpev` (R58, R110, R111). -/
namespace Sys2Proof.Machine

/-- The four flag bytes of `$fpf` (R58), by the SLOT code of `$fpev`. -/
inductive FlagSlot where
  | seq | m | v0 | v1
  deriving DecidableEq, Repr, Inhabited

/-- SLOT code (R58). -/
def FlagSlot.code : FlagSlot → Nat
  | .seq => 0 | .m => 1 | .v0 => 2 | .v1 => 3

/-- The flag byte of a vector slot. -/
def flagSlotOf : VSlot → FlagSlot
  | .v0 => .v0
  | .v1 => .v1

/-- Bits 62:44 of `$fpev`: SLOT, POS, ROW, COL, EDGE. The lowest value is the event R58 names. -/
def eventKey (k : FlagSlot) (pos row col : Nat) (edge : Bool) : Nat :=
  k.code * 2 ^ 17 + pos * 2 ^ 11 + row * 2 ^ 6 + col * 2 + b2n edge

/-- Note flags that a cell or an edge loader sets for a bundle. -/
def Flight.note (fl : Flight) (k : FlagSlot) (pos row col : Nat) (edge : Bool) (flags : Nat) : Flight :=
  if flags = 0 then fl
  else
    let key := eventKey k pos row col edge
    let fl := { fl with ev := match fl.ev with | none => some key | some e => some (min e key) }
    match k with
    | .seq => { fl with fSeq := flOr fl.fSeq flags }
    | .m => { fl with fM := flOr fl.fM flags }
    | .v0 => { fl with fV0 := flOr fl.fV0 flags }
    | .v1 => { fl with fV1 := flOr fl.fV1 flags }

/-- The value a bundle's flags OR into `$fpf`. -/
def Flight.fpf (fl : Flight) : Nat := fl.fSeq + fl.fM * 2 ^ 8 + fl.fV0 * 2 ^ 16 + fl.fV1 * 2 ^ 24

/-- The record a bundle's first event writes to `$fpev`. -/
def Flight.fpev (fl : Flight) (key : Nat) : Nat := 2 ^ 63 + key % 2 ^ 19 * 2 ^ 44 + fl.addr % 2 ^ 32

/-- Merge a bundle's flags (R111): FEVEN as at its commit, VALID as it stands now. -/
def SysRegs.merge (y : SysRegs) (fl : Flight) : SysRegs :=
  let y' := { y with fpf := y.fpf ||| BitVec.ofNat 64 fl.fpf }
  match fl.ev with
  | none => y'
  | some key => if fl.feven && !y.fpev.getLsbD 63 then { y' with fpev := BitVec.ofNat 64 (fl.fpev key) } else y'

/-- Whether an edge operation of bundle `n` is unfinished at any position. -/
def Task.edgeOpen (t : Task) (n : Nat) : Bool :=
  t.pos.any (fun p => p.2.ld.any (fun w => w.inst.n == n) || p.2.st.any (fun w => w.inst.n == n))

/-- Whether everything of a bundle in flight is done: its cells, its edge operations, its aggregate. -/
def Task.flightDone (t : Task) (fl : Flight) : Bool :=
  fl.cells == 1024 * t.len && !t.edgeOpen fl.n && t.ctl.aggPend != some fl.n

/-- Merge the finished bundles at the front of the flight list, in order; `fuel` bounds how many. -/
def Task.retire (t : Task) (fuel : Nat) : Task :=
  match fuel with
  | 0 => t
  | k + 1 =>
    match t.flights with
    | [] => t
    | fl :: rest =>
      if t.flightDone fl then Task.retire { t with sys := t.sys.merge fl, flights := rest } k else t

/-- Merge every finished bundle. -/
def Task.retireAll (t : Task) : Task := t.retire t.flights.length

/-- Change the flight of bundle `n`. -/
def Task.modFlight (t : Task) (n : Nat) (f : Flight → Flight) : Task :=
  { t with flights := t.flights.map (fun fl => if fl.n == n then f fl else fl) }

/-- Note flags for a committed bundle of the task. -/
def Task.noteFlags (t : Task) (n : Nat) (k : FlagSlot) (pos row col : Nat) (edge : Bool) (flags : Nat) : Task :=
  t.modFlight n (fun fl => fl.note k pos row col edge flags)

/-- Whether every committed bundle's flags have been merged, as reads and writes of the flag registers need (R111). -/
def Task.flagsMerged (t : Task) : Bool := t.flights.isEmpty

/-- What `fpclr` clears (R72): one byte of `$fpf` for each of imm 3:0 (SEQ, M, V0, V1), VALID of `$fpev` for imm 4. -/
def SysRegs.clearFlags (y : SysRegs) (imm : Nat) : SysRegs :=
  let keep (i : Nat) : Nat := if bitAt imm i then 0 else 255 * 2 ^ (8 * i)
  { y with fpf := y.fpf &&& BitVec.ofNat 64 (keep 0 + keep 1 + keep 2 + keep 3),
           fpev := if bitAt imm 4 then y.fpev &&& BitVec.ofNat 64 (2 ^ 63 - 1) else y.fpev }

/-- The bits of `$fpf` that hold flags (R58); the others read zero. -/
def fpfMask : DWord := 0x1F1F1F1F
/-- The bits of `$fpev` that hold a record (R58). -/
def fpevMask : DWord := 0xFFFFF000FFFFFFFF

end Sys2Proof.Machine
end

