-- ==== Sys2Proof/Machine/SeqAlu.lean ====
section
/-! DEFINITION. Sys2Proof/Machine/SeqAlu.lean: the sequencer's arithmetic, compares and predicate logic (R163 to R165, R173).
Operands are read as they stood at issue; results wait in the holding buffer for their due bundle. -/
namespace Sys2Proof.Machine

/-! ## Shared shapes -/

/-- A result for s[d] due after `lat` bundles. -/
def aluTo (s : State) (qp qn d lat : Nat) (v : DWord) : Res := seqOp s qp qn [] [] s (s.hold lat (.s d) v)

/-- A result for q[d], due after one bundle; d names q0 to q15. -/
def predTo (s : State) (qp qn d : Nat) (v : Bool) : Res := seqOp s qp qn [] [] s (s.hold 1 (.q d) (bitD v))

/-- Operand A as it stood at issue. -/
def opA (s : State) (a : Nat) : DWord := s.iss.t0.sReg a

/-- The constant of an immediate operation, sign-extended (R164). -/
def immS (imm : Nat) : DWord := sextD imm 23
/-- The constant of an immediate operation, zero-extended (R164). -/
def immZ (imm : Nat) : DWord := BitVec.ofNat 64 (imm % 2 ^ 23)

/-- `mulh` (R163): the high half of the exact product. -/
def mulHigh (sgn : Bool) (a b : DWord) : DWord :=
  if sgn then BitVec.ofInt 64 (a.toInt * b.toInt / (2 ^ 64 : Nat)) else BitVec.ofNat 64 (a.toNat * b.toNat / 2 ^ 64)

/-- `div` (R163): toward zero; divisor 0 gives all ones; -2^63 / -1 stays -2^63. -/
def quot (sgn : Bool) (a b : DWord) : DWord :=
  if b = 0 then BitVec.allOnes 64
  else if sgn then BitVec.ofInt 64 (a.toInt.tdiv b.toInt) else BitVec.ofNat 64 (a.toNat / b.toNat)

/-- `rem` (R163): A − B × quotient; divisor 0 gives A. -/
def remainder (sgn : Bool) (a b : DWord) : DWord := if b = 0 then a else a - b * quot sgn a b

/-- `shr` (R163): arithmetic or logical by the low six bits of the amount. -/
def shiftRight (arith : Bool) (a : DWord) (n : Nat) : DWord := if arith then a.sshiftRight (n % 64) else a >>> (n % 64)

/-- `min` and `max` (R163): whether A is the smaller. -/
def less (sgn : Bool) (a b : DWord) : Bool := if sgn then decide (a.toInt < b.toInt) else decide (a.toNat < b.toNat)

/-- Leading zeros of a `w`-bit number. -/
def clzNat (w v : Nat) : Nat := if v = 0 then w else w - 1 - Nat.log2 v

/-- Ones among the `w` low bits of a number. -/
def popcNat (w v : Nat) : Nat := ((List.range w).filter (fun i => bitAt v i)).length

/-- The conditions of R73 and R138. -/
def condHolds (c : Nat) (lt eq : Bool) : Bool :=
  match c with
  | 0 => eq
  | 1 => !eq
  | 2 => lt
  | 3 => lt || eq
  | 4 => !lt && !eq
  | _ => !lt

/-- `cmp` and `cmpi` (R165). -/
def compare64 (c : Nat) (sgn : Bool) (a b : DWord) : Bool := condHolds c (less sgn a b) (a == b)

/-- `bfx` (R163). -/
def bitExtract (a : DWord) (p wd : Nat) : DWord := BitVec.ofNat 64 (a.toNat / 2 ^ p % 2 ^ wd)

/-- `bfi` (R163): bits above 63 are dropped. -/
def bitInsert (d a : DWord) (p wd : Nat) : DWord :=
  let m : DWord := BitVec.ofNat 64 ((2 ^ wd - 1) * 2 ^ p)
  (d &&& ~~~ m) ||| (BitVec.ofNat 64 (a.toNat % 2 ^ wd * 2 ^ p) &&& m)

/-! ## The operations -/

/-- `nop` of SA or SB (R72): no effect. -/
def execNopSeq (_u : SeqSlot) (s : State) : Res := atIssue s [] s s

/-- `add` (R163). -/
def execAdd (_u : SeqSlot) (f : FmtSR) (s : State) : Res :=
  aluTo s f.qp f.qn f.d 1 (opA s f.a + opA s f.b)

/-- `sub` (R163). -/
def execSub (_u : SeqSlot) (f : FmtSR) (s : State) : Res :=
  aluTo s f.qp f.qn f.d 1 (opA s f.a - opA s f.b)

/-- `mul` (R163, R173). -/
def execMul (_u : SeqSlot) (f : FmtSR) (s : State) : Res :=
  aluTo s f.qp f.qn f.d 3 (opA s f.a * opA s f.b)

/-- `mulh` (R163, R173). -/
def execMulh (_u : SeqSlot) (f : FmtSR) (s : State) : Res :=
  aluTo s f.qp f.qn f.d 3 (mulHigh (f.k % 2 == 1) (opA s f.a) (opA s f.b))

/-- `div` (R163, R173). -/
def execDiv (_u : SeqSlot) (f : FmtSR) (s : State) : Res :=
  aluTo s f.qp f.qn f.d 12 (quot (f.k % 2 == 1) (opA s f.a) (opA s f.b))

/-- `rem` (R163, R173). -/
def execRem (_u : SeqSlot) (f : FmtSR) (s : State) : Res :=
  aluTo s f.qp f.qn f.d 12 (remainder (f.k % 2 == 1) (opA s f.a) (opA s f.b))

/-- `and` (R163). -/
def execAnd (_u : SeqSlot) (f : FmtSR) (s : State) : Res :=
  aluTo s f.qp f.qn f.d 1 (opA s f.a &&& opA s f.b)

/-- `or` (R163). -/
def execOr (_u : SeqSlot) (f : FmtSR) (s : State) : Res :=
  aluTo s f.qp f.qn f.d 1 (opA s f.a ||| opA s f.b)

/-- `xor` (R163). -/
def execXor (_u : SeqSlot) (f : FmtSR) (s : State) : Res :=
  aluTo s f.qp f.qn f.d 1 (opA s f.a ^^^ opA s f.b)

/-- `shl` (R163). -/
def execShl (_u : SeqSlot) (f : FmtSR) (s : State) : Res :=
  aluTo s f.qp f.qn f.d 1 (opA s f.a <<< ((opA s f.b).toNat % 64))

/-- `shr` (R163). -/
def execShr (_u : SeqSlot) (f : FmtSR) (s : State) : Res :=
  aluTo s f.qp f.qn f.d 1 (shiftRight (f.k % 2 == 1) (opA s f.a) (opA s f.b).toNat)

/-- `min` (R163). -/
def execMin (_u : SeqSlot) (f : FmtSR) (s : State) : Res :=
  aluTo s f.qp f.qn f.d 1 (if less (f.k % 2 == 1) (opA s f.a) (opA s f.b) then opA s f.a else opA s f.b)

/-- `max` (R163). -/
def execMax (_u : SeqSlot) (f : FmtSR) (s : State) : Res :=
  aluTo s f.qp f.qn f.d 1 (if less (f.k % 2 == 1) (opA s f.a) (opA s f.b) then opA s f.b else opA s f.a)

/-- `clz` (R163). -/
def execClz (_u : SeqSlot) (f : FmtSR) (s : State) : Res :=
  aluTo s f.qp f.qn f.d 1 (BitVec.ofNat 64 (clzNat 64 (opA s f.a).toNat))

/-- `popc` (R163). -/
def execPopc (_u : SeqSlot) (f : FmtSR) (s : State) : Res :=
  aluTo s f.qp f.qn f.d 1 (BitVec.ofNat 64 (popcNat 64 (opA s f.a).toNat))

/-- `sel` (R163). -/
def execSel (_u : SeqSlot) (f : FmtSR) (s : State) : Res :=
  aluTo s f.qp f.qn f.d 1 (if s.iss.t0.qReg (f.k % 16) != bitAt f.k 4 then opA s f.a else opA s f.b)

/-- `addsc` (R163). -/
def execAddsc (_u : SeqSlot) (f : FmtSR) (s : State) : Res :=
  aluTo s f.qp f.qn f.d 1 (opA s f.a + (opA s f.b <<< f.k))

/-- `cmp` (R165). -/
def execCmp (_u : SeqSlot) (f : FmtSR) (s : State) : Res :=
  predTo s f.qp f.qn f.d (compare64 (f.k % 8) (bitAt f.k 3) (opA s f.a) (opA s f.b))

/-- `bfx` (R163). -/
def execBfx (_u : SeqSlot) (f : FmtSR) (s : State) : Res :=
  aluTo s f.qp f.qn f.d 1 (bitExtract (opA s f.a) ((opA s f.b).toNat % 64) (f.k + 1))

/-- `bfi` (R163). -/
def execBfi (_u : SeqSlot) (f : FmtSR) (s : State) : Res :=
  aluTo s f.qp f.qn f.d 1 (bitInsert (opA s f.d) (opA s f.a) ((opA s f.b).toNat % 64) (f.k + 1))

/-- `addi` (R164). -/
def execAddi (_u : SeqSlot) (f : FmtSI) (s : State) : Res :=
  aluTo s f.qp f.qn f.d 1 (opA s f.a + immS f.imm)

/-- `muli` (R164). -/
def execMuli (_u : SeqSlot) (f : FmtSI) (s : State) : Res :=
  aluTo s f.qp f.qn f.d 3 (opA s f.a * immS f.imm)

/-- `andi` (R164). -/
def execAndi (_u : SeqSlot) (f : FmtSI) (s : State) : Res :=
  aluTo s f.qp f.qn f.d 1 (opA s f.a &&& immS f.imm)

/-- `ori` (R164). -/
def execOri (_u : SeqSlot) (f : FmtSI) (s : State) : Res :=
  aluTo s f.qp f.qn f.d 1 (opA s f.a ||| immZ f.imm)

/-- `xori` (R164). -/
def execXori (_u : SeqSlot) (f : FmtSI) (s : State) : Res :=
  aluTo s f.qp f.qn f.d 1 (opA s f.a ^^^ immZ f.imm)

/-- `shli` (R164). -/
def execShli (_u : SeqSlot) (f : FmtSI) (s : State) : Res :=
  aluTo s f.qp f.qn f.d 1 (opA s f.a <<< (f.imm % 64))

/-- `shri` (R164). -/
def execShri (_u : SeqSlot) (f : FmtSI) (s : State) : Res :=
  aluTo s f.qp f.qn f.d 1 (shiftRight (bitAt f.imm 6) (opA s f.a) (f.imm % 64))

/-- `movi` (R164). -/
def execMovi (_u : SeqSlot) (f : FmtSI) (s : State) : Res :=
  aluTo s f.qp f.qn f.d 1 (immS f.imm)

/-- `movh` (R164). -/
def execMovh (_u : SeqSlot) (f : FmtSI) (s : State) : Res :=
  aluTo s f.qp f.qn f.d 1 ((opA s f.a <<< 23) + immZ f.imm)

/-- `cmpi` (R165): condition in imm 22:20, signedness in imm 19, an immediate of 19 bits. -/
def execCmpi (_u : SeqSlot) (f : FmtSI) (s : State) : Res :=
  let sgn := bitAt f.imm 19
  let b : DWord := if sgn then sextD f.imm 19 else BitVec.ofNat 64 (f.imm % 2 ^ 19)
  predTo s f.qp f.qn f.d (compare64 (bitsAt f.imm 20 3) sgn (opA s f.a) b)

/-- `qand` (R165). -/
def execQand (_u : SeqSlot) (f : FmtSR) (s : State) : Res := predTo s f.qp f.qn f.d (s.iss.t0.qReg f.a && s.iss.t0.qReg f.b)

/-- `qor` (R165). -/
def execQor (_u : SeqSlot) (f : FmtSR) (s : State) : Res := predTo s f.qp f.qn f.d (s.iss.t0.qReg f.a || s.iss.t0.qReg f.b)

/-- `qxor` (R165). -/
def execQxor (_u : SeqSlot) (f : FmtSR) (s : State) : Res := predTo s f.qp f.qn f.d (s.iss.t0.qReg f.a != s.iss.t0.qReg f.b)

/-- `qnot` (R165). -/
def execQnot (_u : SeqSlot) (f : FmtSR) (s : State) : Res := predTo s f.qp f.qn f.d (!s.iss.t0.qReg f.a)

end Sys2Proof.Machine
end

