-- ==== Sys2Proof/Machine/VecInt.lean ====
section
/-! DEFINITION. Sys2Proof/Machine/VecInt.lean: the shape of a V operation (R132 to R136) and the integer operations (R137,
R138). -/
namespace Sys2Proof.Machine

/-! ## The shape of a V operation -/

/-- Footprint checks (R59): vector names written in a slot, in the order of R385. -/
def footFails (s : State) (source : Nat) (names : List Nat) : List Fail :=
  (names.filter (fun n => decide (n < 1536 ∧ s.iss.t0.prog.hdr.vregs ≤ n))).map (failRange source)

/-- Note flags of a slot in the executing cell. -/
def CellRun.note (c : CellRun) (k : FlagSlot) (flags : Nat) : CellRun := { c with fl := c.fl.note k c.pos c.row c.col false flags }

/-- A V operation whose checks concern the vector names `names`; in a cell it is `g`. -/
def vOp (s : State) (u : VSlot) (i : Instr) (names : List Nat) (g : CellRun → CellRun) : Res :=
  cellOp s i (footFails s u.slot.source names) s s (s.modCr g)

/-- A V operation that writes d after `lat` bundles: `g` gives mask, value and flags. -/
def vTo (s : State) (u : VSlot) (i : Instr) (f : FmtV) (names : List Nat) (lat : Nat) (g : CellRun → VecReg × VecReg × Nat) : Res :=
  vOp s u i names (fun c => let r := g c; (c.note (flagSlotOf u) r.2.2).write f.d lat r.1 r.2.1)

/-- The lanes the predicate of a V operation enables (R133). -/
def CellRun.enV (c : CellRun) (f : FmtV) : Word := c.predBits f.pred f.pneg

/-- An integer operation with two sources: `g t w A B D` on the patterns of the elements. -/
def intOp (s : State) (u : VSlot) (i : Instr) (f : FmtV) (names : List Nat) (lat : Nat)
    (g : (t w A B D : Nat) → Nat) : Res :=
  let w := typeWidth f.type
  vTo s u i f names lat (fun c =>
    let a := c.src f.a
    let b := c.src f.b
    let d := c.src f.d
    f.mapElems w (c.enV f) (fun e => (g f.type w (f.elem a w e) (f.elem b w e) (f.elem d w e), 0)))

end Sys2Proof.Machine
namespace Sys2Proof
open Sys2Proof.Machine

/-- Names d, a, b. -/
def FmtV.dabNames (f : FmtV) : List Nat := [f.d, f.a, f.b]
/-- Names d, a. -/
def FmtV.daNames (f : FmtV) : List Nat := [f.d, f.a]

end Sys2Proof
namespace Sys2Proof.Machine

/-! ## Element results (R137) -/

/-- Exact sum, wrapped. -/
def elAdd (t w a b _d : Nat) : Nat := wrapI (readInt t a + readInt t b) w
/-- Exact difference, wrapped. -/
def elSub (t w a b _d : Nat) : Nat := wrapI (readInt t a - readInt t b) w
/-- Low half of the product. -/
def elMul (t w a b _d : Nat) : Nat := wrapI (readInt t a * readInt t b) w
/-- High half of the product. -/
def elMulh (t w a b _d : Nat) : Nat := wrapI (readInt t a * readInt t b / (2 ^ w : Nat)) w
/-- Product plus d. -/
def elMad (t w a b d : Nat) : Nat := wrapI (readInt t a * readInt t b + readInt t d) w
/-- Left shift. -/
def elShl (_t w a b _d : Nat) : Nat := a * 2 ^ (b % w) % 2 ^ w
/-- Logical right shift. -/
def elShr (_t w a b _d : Nat) : Nat := a / 2 ^ (b % w)
/-- Arithmetic right shift. -/
def elSar (_t w a b _d : Nat) : Nat := wrapI (sext a w / (2 ^ (b % w) : Nat)) w
/-- The smaller. -/
def elMin (t _w a b _d : Nat) : Nat := if readInt t a < readInt t b then a else b
/-- The larger. -/
def elMax (t _w a b _d : Nat) : Nat := if readInt t a < readInt t b then b else a
/-- Absolute value, wrapped. -/
def elAbs (_t w a _b _d : Nat) : Nat := wrapI (sext a w).natAbs w
/-- Saturating sum. -/
def elAdds (t w a b _d : Nat) : Nat := wrapI (satI (readInt t a + readInt t b) (typeMin t) (typeMax t)) w
/-- Saturating difference. -/
def elSubs (t w a b _d : Nat) : Nat := wrapI (satI (readInt t a - readInt t b) (typeMin t) (typeMax t)) w

/-! ## The operations -/

/-- `vadd` (R137). -/
def execVadd (u : VSlot) (f : FmtV) (s : State) : Res := intOp s u (.vadd u f) f f.dabNames 1 elAdd
/-- `vsub` (R137). -/
def execVsub (u : VSlot) (f : FmtV) (s : State) : Res := intOp s u (.vsub u f) f f.dabNames 1 elSub
/-- `vmul` (R137). -/
def execVmul (u : VSlot) (f : FmtV) (s : State) : Res := intOp s u (.vmul u f) f f.dabNames 2 elMul
/-- `vmulh` (R137). -/
def execVmulh (u : VSlot) (f : FmtV) (s : State) : Res := intOp s u (.vmulh u f) f f.dabNames 2 elMulh
/-- `vmad` (R137): d is read as an addend (R132). -/
def execVmad (u : VSlot) (f : FmtV) (s : State) : Res := intOp s u (.vmad u f) f f.dabNames 2 elMad
/-- `vand` (R137). -/
def execVand (u : VSlot) (f : FmtV) (s : State) : Res := intOp s u (.vand u f) f f.dabNames 1 (fun _ _ a b _ => a &&& b)
/-- `vor` (R137). -/
def execVor (u : VSlot) (f : FmtV) (s : State) : Res := intOp s u (.vor u f) f f.dabNames 1 (fun _ _ a b _ => a ||| b)
/-- `vxor` (R137). -/
def execVxor (u : VSlot) (f : FmtV) (s : State) : Res := intOp s u (.vxor u f) f f.dabNames 1 (fun _ _ a b _ => a ^^^ b)
/-- `vshl` (R137). -/
def execVshl (u : VSlot) (f : FmtV) (s : State) : Res := intOp s u (.vshl u f) f f.dabNames 1 elShl
/-- `vshr` (R137). -/
def execVshr (u : VSlot) (f : FmtV) (s : State) : Res := intOp s u (.vshr u f) f f.dabNames 1 elShr
/-- `vsar` (R137). -/
def execVsar (u : VSlot) (f : FmtV) (s : State) : Res := intOp s u (.vsar u f) f f.dabNames 1 elSar
/-- `vmin` (R137). -/
def execVmin (u : VSlot) (f : FmtV) (s : State) : Res := intOp s u (.vmin u f) f f.dabNames 1 elMin
/-- `vmax` (R137). -/
def execVmax (u : VSlot) (f : FmtV) (s : State) : Res := intOp s u (.vmax u f) f f.dabNames 1 elMax
/-- `vabs` (R137). -/
def execVabs (u : VSlot) (f : FmtV) (s : State) : Res := intOp s u (.vabs u f) f f.daNames 1 elAbs
/-- `vclz` (R137). -/
def execVclz (u : VSlot) (f : FmtV) (s : State) : Res := intOp s u (.vclz u f) f f.daNames 2 (fun _ w a _ _ => clzNat w a)
/-- `vpopc` (R137). -/
def execVpopc (u : VSlot) (f : FmtV) (s : State) : Res := intOp s u (.vpopc u f) f f.daNames 2 (fun _ w a _ _ => popcNat w a)
/-- `vadds` (R137). -/
def execVadds (u : VSlot) (f : FmtV) (s : State) : Res := intOp s u (.vadds u f) f f.dabNames 1 elAdds
/-- `vsubs` (R137). -/
def execVsubs (u : VSlot) (f : FmtV) (s : State) : Res := intOp s u (.vsubs u f) f f.dabNames 1 elSubs

/-- `nop` of V0 or V1 (R69). -/
def execNopV (_u : VSlot) (s : State) : Res := atIssue s [] s s

/-! ## Compares (R138, R141) -/

end Sys2Proof.Machine
namespace Sys2Proof
open Sys2Proof.Machine

/-- Lanes that element `e` of width `w` covers. -/
def FmtV.lanesOf (f : FmtV) (w e : Nat) : List Nat := (List.range (w / 32)).map (fun i => f.laneOf w e + i)

/-- Mask and value of the predicate a compare writes: `g e` for every lane of each enabled element. -/
def FmtV.mapPred (f : FmtV) (w : Nat) (en : Word) (l : List Nat) (g : Nat → Bool) : Word × Word :=
  match l with
  | [] => (0, 0)
  | e :: t =>
    let acc := f.mapPred w en t g
    if en.getLsbD (f.laneOf w e) then
      (f.lanesOf w e).foldl (fun r k => (r.1 ||| BitVec.ofNat 32 (2 ^ k), if g e then r.2 ||| BitVec.ofNat 32 (2 ^ k) else r.2)) acc
    else acc

end Sys2Proof
namespace Sys2Proof.Machine

/-- A compare: a mask of all ones or zeros into d, or, with aux 5, a predicate. -/
def compareOp (s : State) (u : VSlot) (i : Instr) (f : FmtV) (lat : Nat) (g : Nat → Nat → Bool) : Res :=
  let w := typeWidth f.type
  let toPred := f.aux / 32 == 1
  vOp s u i (if toPred then [f.a, f.b] else f.dabNames) (fun c =>
    let a := c.src f.a
    let b := c.src f.b
    if toPred then
      let r := f.mapPred w (c.enV f) (List.range (f.count w)) (fun e => g (f.elem a w e) (f.elem b w e))
      c.writeP f.d lat r.1 r.2
    else
      let r := f.mapElems w (c.enV f) (fun e => (if g (f.elem a w e) (f.elem b w e) then 2 ^ w - 1 else 0, 0))
      c.write f.d lat r.1 r.2.1)

/-- `vcmp` (R138). -/
def execVcmp (u : VSlot) (f : FmtV) (s : State) : Res :=
  compareOp s u (.vcmp u f) f 1
    (fun a b => condHolds (f.aux % 8) (decide (readInt f.type a < readInt f.type b)) (readInt f.type a == readInt f.type b))

end Sys2Proof.Machine
end

