-- ==== Sys2Proof/Machine/CellMem.lean ====
section
/-! DEFINITION. Sys2Proof/Machine/CellMem.lean: the X operations: cell SRAM and the communication register (R155 to R159). -/
namespace Sys2Proof.Machine

/-! ## Rows, lanes, latencies -/

/-- The lanes an X operation acts on, as a mask of a register. -/
def CellRun.enX (c : CellRun) (f : FmtX) : Word := c.predBits f.pred f.pneg

/-- ROW of R155. -/
def CellRun.rowOf (c : CellRun) (f : FmtX) : Nat := f.index c.fl.lc % 2048

/-- The row of carve-out entry `i` (R59). -/
def CellRun.spillRow (c : CellRun) (f : FmtX) : Nat := 2048 - c.spill + f.index c.fl.lc

/-- Latency of the loads of X (R135). -/
def loadLat (cls : Nat) : Nat := if cls = 1 then 3 else 4

/-- In class 1 a load's result is read no earlier than the native ready time (R35, R177); a write of `x` is read one bundle
earlier by the south and east neighbours (R136). -/
def State.noteLoad (s : State) (v : Nat) : State :=
  if s.iss.t0.prog.hdr.latcls = 1 then
    s.modT (fun t => { t with ready := t.ready ++ [(s.iss.n + 3, t.ctl.cyc + 4)] ++
      (if v = 2040 then [(s.iss.n + 2, t.ctl.cyc + 3)] else []) })
  else s

/-- An X operation: its checks, and what it does in a cell. -/
def xOp (s : State) (i : Instr) (fails : List Fail) (g : CellRun → CellRun) : Res := cellOp s i fails s s (s.modCr g)

/-- A load of X: `g` gives the value of the whole register. -/
def xLoad (s : State) (i : Instr) (f : FmtX) (fails : List Fail) (g : CellRun → VecReg) : Res :=
  cellOp s i (footFails s 5 [f.v] ++ fails) s (s.noteLoad f.v)
    (s.modCr (fun c => c.write f.v (loadLat c.cls) (laneMask (c.enX f)) (g c)))

/-- The index check of `ldsp` and `stsp` (R59). -/
def spillFails (s : State) (f : FmtX) : List Fail :=
  let i := f.index ((List.range 4).map s.iss.t0.lcReg)
  check (decide (i < s.iss.t0.prog.hdr.spill)) (failRange 5 i)

/-- The register pair of `gthl` and `sctl` (R158): the name after v lies below the footprint too. -/
def pairFails (s : State) (f : FmtX) : List Fail :=
  check (decide (f.v + 1 < s.iss.t0.prog.hdr.vregs)) (failRange 5 f.v)

/-! ## The operations (R156) -/

/-- `nop` of X (R80). -/
def execNopX (s : State) : Res := atIssue s [] s s

/-- `ldv`. -/
def execLdv (f : FmtX) (s : State) : Res := xLoad s (.ldv f) f [] (fun c => c.rowRd (c.rowOf f))

/-- `stv`. -/
def execStv (f : FmtX) (s : State) : Res :=
  xOp s (.stv f) (footFails s 5 [f.v]) (fun c => c.rowWr (c.rowOf f) (laneMask (c.enX f)) (c.src f.v))

/-- The permutation of `ldt` within one block of 64 bytes (R157): elements of `z` bytes, K = 64 / (16·z). -/
def transposeBlock (z : Nat) (v : Nat) : Nat :=
  let k := 64 / (16 * z)
  (List.range (16 * k)).foldl (fun a p => a + bitsAt v (8 * z * (16 * (p % k) + p / k)) (8 * z) * 2 ^ (8 * z * p)) 0

/-- `ldt` (R157). -/
def execLdt (f : FmtX) (s : State) : Res :=
  xLoad s (.ldt f) f [] (fun c =>
    let v := (c.rowRd (c.rowOf f)).toNat
    let z := f.aux % 2 + 1
    BitVec.ofNat 1024 (transposeBlock z (bitsAt v 0 512) + transposeBlock z (bitsAt v 512 512) * 2 ^ 512))

/-- `movx`. -/
def execMovx (f : FmtX) (s : State) : Res :=
  xOp s (.movx f) (footFails s 5 [f.v]) (fun c => c.write 2040 1 (laneMask (c.enX f)) (c.src f.v))

/-- `movxp` (R159): names 2041 to 2044 by aux. -/
def execMovxp (f : FmtX) (s : State) : Res :=
  xOp s (.movxp f) (footFails s 5 [f.v]) (fun c =>
    let v := c.src (2041 + f.aux % 4)
    (c.write 2040 1 (laneMask (c.enX f)) v).write f.v 1 (laneMask (c.enX f)) v)

/-- `ldsp`. -/
def execLdsp (f : FmtX) (s : State) : Res := xLoad s (.ldsp f) f (spillFails s f) (fun c => c.rowRd (c.spillRow f))

/-- `stsp`. -/
def execStsp (f : FmtX) (s : State) : Res :=
  xOp s (.stsp f) (footFails s 5 [f.v] ++ spillFails s f) (fun c => c.rowWr (c.spillRow f) (laneMask (c.enX f)) (c.src f.v))

/-- The word address of lane `l` (R158): row and word within it. -/
def CellRun.lanePlace (c : CellRun) (f : FmtX) (l : Nat) : Nat × Nat :=
  let o := (128 * c.rowOf f + (lane (c.src (f.v + 1)) l).toNat) % 2 ^ 18
  (o / 128, o % 128 / 4)

/-- `gthl` (R158). -/
def execGthl (f : FmtX) (s : State) : Res :=
  xLoad s (.gthl f) f (pairFails s f) (fun c =>
    ofLanes (fun l => let p := c.lanePlace f l; (lane (c.rowRd p.1) p.2).toNat))

/-- `sctl` (R158): lanes in ascending order. -/
def execSctl (f : FmtX) (s : State) : Res :=
  xOp s (.sctl f) (footFails s 5 [f.v] ++ pairFails s f) (fun c =>
    let v := c.src f.v
    (List.range 32).foldl (fun d l =>
      if (c.enX f).getLsbD l then
        let p := c.lanePlace f l
        d.rowWr p.1 (maskAt (32 * p.2) 32) (bitsTo (32 * p.2) 32 (lane v l).toNat)
      else d) c)

/-- `ldb`. -/
def execLdb (f : FmtX) (s : State) : Res :=
  xLoad s (.ldb f) f [] (fun c => let w := lane (c.rowRd (c.rowOf f)) f.aux; ofLanes (fun _ => w.toNat))

end Sys2Proof.Machine
end

