-- ==== Sys2Proof/Machine/VecFloat.lean ====
section
/-! DEFINITION. Sys2Proof/Machine/VecFloat.lean: floating-point arithmetic, compares, classes and special functions of V0 and
V1 (R139 to R142). -/
namespace Sys2Proof.Machine

/-- Whether a value is NaN. -/
def Rv.isNan : Rv → Bool
  | .nan => true
  | _ => false

/-- A floating operation on the patterns of the elements of a, b and d. -/
def floatOp (s : State) (u : VSlot) (i : Instr) (f : FmtV) (names : List Nat) (lat : Nat)
    (g : (A B D : Nat) → ElemResult) : Res :=
  let w := typeWidth f.type
  vTo s u i f names lat (fun c =>
    let a := c.src f.a
    let b := c.src f.b
    let d := c.src f.d
    f.mapElems w (c.enV f) (fun e => g (f.elem a w e) (f.elem b w e) (f.elem d w e)))

end Sys2Proof.Machine
namespace Sys2Proof
open Sys2Proof.Machine

/-- FTZ of aux 3. -/
def FmtV.ftz (f : FmtV) : Bool := bitAt f.aux 3
/-- The rounding mode of aux 2:0. -/
def FmtV.mode (f : FmtV) : Rnd := rndNoSr (f.aux % 8)
/-- A decoded element (R139). -/
def FmtV.read (f : FmtV) (v : Nat) : Rv := decFtz (typeFmt f.type) f.ftz v

/-- The result of an exact computation on operands `xs` (R139, R140): NaN operands give the canonical NaN, no flag. -/
def FmtV.finish (f : FmtV) (xs : List Rv) (v : Rv × Bool) : ElemResult :=
  if xs.any Rv.isNan then ((typeFmt f.type).nanBits, 0) else roundNv v (typeFmt f.type) f.mode false f.ftz

/-- X + Y. -/
def FmtV.fadd (f : FmtV) (a b : Nat) : ElemResult :=
  f.finish [f.read a, f.read b] (addRv (f.read a) (f.read b) f.mode.isDn)
/-- X − Y. -/
def FmtV.fsub (f : FmtV) (a b : Nat) : ElemResult :=
  f.finish [f.read a, f.read b] (addRv (f.read a) (negRv (f.read b)) f.mode.isDn)
/-- X × Y. -/
def FmtV.fmul (f : FmtV) (a b : Nat) : ElemResult :=
  f.finish [f.read a, f.read b] (mulRv (f.read a) (f.read b))
/-- X × Y + Z, rounded once. -/
def FmtV.fma (f : FmtV) (a b d : Nat) : ElemResult :=
  let p := mulRv (f.read a) (f.read b)
  let r := addRv p.1 (f.read d) f.mode.isDn
  f.finish [f.read a, f.read b, f.read d] (r.1, p.2 || r.2)

end Sys2Proof
namespace Sys2Proof.Machine

/-- `vfadd` (R140). -/
def execVfadd (u : VSlot) (f : FmtV) (s : State) : Res := floatOp s u (.vfadd u f) f f.dabNames 4 (fun a b _ => f.fadd a b)
/-- `vfsub` (R140). -/
def execVfsub (u : VSlot) (f : FmtV) (s : State) : Res := floatOp s u (.vfsub u f) f f.dabNames 4 (fun a b _ => f.fsub a b)
/-- `vfmul` (R140). -/
def execVfmul (u : VSlot) (f : FmtV) (s : State) : Res := floatOp s u (.vfmul u f) f f.dabNames 4 (fun a b _ => f.fmul a b)
/-- `vfma` (R140). -/
def execVfma (u : VSlot) (f : FmtV) (s : State) : Res := floatOp s u (.vfma u f) f f.dabNames 4 f.fma

/-! ## Order of encodings (R140, R141) -/

/-- A pattern with a subnormal turned into the zero of its sign under FTZ. -/
def flushBits (f : FpFmt) (ftz : Bool) (v : Nat) : Nat :=
  if ftz && f.flushes && isSubnormal f v then v / 2 ^ (f.width - 1) * 2 ^ (f.width - 1) else v

/-- A key that orders patterns that are not NaN, −0 below +0. -/
def fpKey (f : FpFmt) (v : Nat) : Int :=
  let mag : Int := ((v % 2 ^ (f.width - 1) : Nat) : Int)
  if bitAt v (f.width - 1) then -mag - 1 else mag

/-- Whether a pattern is NaN. -/
def isNanBits (f : FpFmt) (v : Nat) : Bool := (dec f v).isNan

/-- `vfmin` and `vfmax` on two patterns (R140). -/
def minMaxBits (f : FpFmt) (ftz wantMax : Bool) (a b : Nat) : Nat :=
  let a := flushBits f ftz a
  let b := flushBits f ftz b
  if isNanBits f a then (if isNanBits f b then f.nanBits else b)
  else if isNanBits f b then a
  else if (decide (fpKey f a < fpKey f b)) != wantMax then a else b

/-- `vfmin` (R140). -/
def execVfmin (u : VSlot) (f : FmtV) (s : State) : Res :=
  floatOp s u (.vfmin u f) f f.dabNames 4 (fun a b _ => (minMaxBits (typeFmt f.type) f.ftz false a b, 0))
/-- `vfmax` (R140). -/
def execVfmax (u : VSlot) (f : FmtV) (s : State) : Res :=
  floatOp s u (.vfmax u f) f f.dabNames 4 (fun a b _ => (minMaxBits (typeFmt f.type) f.ftz true a b, 0))
/-- `vfabs` (R140): the sign bit cleared. -/
def execVfabs (u : VSlot) (f : FmtV) (s : State) : Res :=
  floatOp s u (.vfabs u f) f f.daNames 1 (fun a _ _ => (a % 2 ^ (typeWidth f.type - 1), 0))
/-- `vfneg` (R140): the sign bit inverted. -/
def execVfneg (u : VSlot) (f : FmtV) (s : State) : Res :=
  floatOp s u (.vfneg u f) f f.daNames 1 (fun a _ _ => (a ^^^ 2 ^ (typeWidth f.type - 1), 0))

/-- The condition of `vfcmp` (R141). -/
def fcmpHolds (f : FpFmt) (ftz : Bool) (cond a b : Nat) : Bool :=
  let a := flushBits f ftz a
  let b := flushBits f ftz b
  let un := isNanBits f a || isNanBits f b
  let key (v : Nat) : Int := if v % 2 ^ (f.width - 1) = 0 then 0 else fpKey f v + (if bitAt v (f.width - 1) then 1 else 0)
  match cond with
  | 6 => un
  | 7 => !un
  | 1 => un || key a != key b
  | c => !un && condHolds c (decide (key a < key b)) (key a == key b)

/-- `vfcmp` (R141). -/
def execVfcmp (u : VSlot) (f : FmtV) (s : State) : Res :=
  compareOp s u (.vfcmp u f) f 4 (fcmpHolds (typeFmt f.type) f.ftz (f.aux % 8))

/-- The class bit of `vfclass` (R141). -/
def classBit (f : FpFmt) (v : Nat) : Nat :=
  let neg := bitAt v (f.width - 1)
  match dec f v with
  | .nan => 8
  | .inf n => if n then 0 else 7
  | .fin q _ =>
    if q == 0 then (if neg then 3 else 4)
    else if isSubnormal f v then (if neg then 2 else 5)
    else if neg then 1 else 6

/-- `vfclass` (R141). -/
def execVfclass (u : VSlot) (f : FmtV) (s : State) : Res :=
  floatOp s u (.vfclass u f) f f.daNames 4 (fun a _ _ => (2 ^ classBit (typeFmt f.type) a, 0))

/-! ## Special functions (R142) -/

/-- A special function of each FP32 lane. -/
def specOp (s : State) (u : VSlot) (i : Instr) (f : FmtV) (fn : SpecFn) : Res :=
  floatOp s u i f f.daNames 8 (fun a _ _ => specFn fn (decFtz .fp32 f.ftz a) f.ftz)

/-- `vrcp` (R142). -/
def execVrcp (u : VSlot) (f : FmtV) (s : State) : Res := specOp s u (.vrcp u f) f .rcp
/-- `vrsq` (R142). -/
def execVrsq (u : VSlot) (f : FmtV) (s : State) : Res := specOp s u (.vrsq u f) f .rsq
/-- `vsqrt` (R142). -/
def execVsqrt (u : VSlot) (f : FmtV) (s : State) : Res := specOp s u (.vsqrt u f) f .sqrt
/-- `vexp2` (R142). -/
def execVexp2 (u : VSlot) (f : FmtV) (s : State) : Res := specOp s u (.vexp2 u f) f .exp2
/-- `vlog2` (R142). -/
def execVlog2 (u : VSlot) (f : FmtV) (s : State) : Res := specOp s u (.vlog2 u f) f .log2
/-- `vtanh` (R142). -/
def execVtanh (u : VSlot) (f : FmtV) (s : State) : Res := specOp s u (.vtanh u f) f .tanh

end Sys2Proof.Machine
end

