-- ==== Sys2Proof/Machine/VecConvert.lean ====
section
/-! DEFINITION. Sys2Proof/Machine/VecConvert.lean: conversions of V0 and V1: elements (R143 to R145), blocks (R146), packed
formats (R147) and 2:4 compression (R124, R148). -/
namespace Sys2Proof.Machine

/-! ## Element conversions -/

end Sys2Proof.Machine
namespace Sys2Proof
open Sys2Proof.Machine

/-- Elements converted: the part's width over the larger element (R144). -/
def FmtV.convCount (f : FmtV) : Nat := f.bits / max (typeWidth f.stype) (typeWidth f.type)

/-- The first source element: SLICE·N where the result is wider. -/
def FmtV.convSrc (f : FmtV) : Nat := if typeWidth f.stype < typeWidth f.type then f.aux * f.convCount else 0

/-- The first destination element: SLICE·N where the result is narrower. -/
def FmtV.convDst (f : FmtV) : Nat := if typeWidth f.type < typeWidth f.stype then f.aux * f.convCount else 0

end Sys2Proof
namespace Sys2Proof.Machine

/-- An element conversion: `g` takes the source pattern and the rounding mode of its element. -/
def convertOp (s : State) (u : VSlot) (i : Instr) (f : FmtV) (g : Nat → Rnd → ElemResult) : Res :=
  let ws := typeWidth f.stype
  vTo s u i f f.daNames 4 (fun c =>
    let a := c.src f.a
    f.mapAt (typeWidth f.type) (c.enV f) ((List.range f.convCount).map (f.convDst + ·)) (fun d =>
      let e := f.convSrc + (d - f.convDst)
      g (f.elem a ws e) (rndOf f.crnd (lrb c.fl.w c.pos c.row c.col (f.laneOf ws e)))))

end Sys2Proof.Machine
namespace Sys2Proof
open Sys2Proof.Machine

/-- Float to float (R145). -/
def FmtV.cvt (f : FmtV) (v : Nat) (m : Rnd) : ElemResult :=
  round (decFtz (typeFmt f.stype) f.cftz v) (typeFmt f.type) m f.csat f.cftz

/-- To integer (R145, R106): from a float with rounding, from an integer by saturation or wrapping. -/
def FmtV.cvti (f : FmtV) (v : Nat) (m : Rnd) : ElemResult :=
  let w := typeWidth f.type
  if typeInt f.stype then
    let x := readInt f.stype v
    (wrapI (if f.csat then satI x (typeMin f.type) (typeMax f.type) else x) w, 0)
  else
    let r := toInt (decFtz (typeFmt f.stype) f.cftz v) (typeMin f.type) (typeMax f.type) m
    (wrapI r.1 w, r.2)

/-- Integer to float (R145). -/
def FmtV.cvtf (f : FmtV) (v : Nat) (m : Rnd) : ElemResult :=
  round (.fin (readInt f.stype v : Rat) false) (typeFmt f.type) m f.csat false

end Sys2Proof
namespace Sys2Proof.Machine

/-- `vcvt` (R145). -/
def execVcvt (u : VSlot) (f : FmtV) (s : State) : Res := convertOp s u (.vcvt u f) f f.cvt
/-- `vcvti` (R145). -/
def execVcvti (u : VSlot) (f : FmtV) (s : State) : Res := convertOp s u (.vcvti u f) f f.cvti
/-- `vcvtf` (R145). -/
def execVcvtf (u : VSlot) (f : FmtV) (s : State) : Res := convertOp s u (.vcvtf u f) f f.cvtf

/-! ## Blocks (R146) -/

/-- Numbers of width `w` packed from element 0 upwards. -/
def packBits (w : Nat) (l : List Nat) : Nat :=
  match l with
  | [] => 0
  | x :: t => x % 2 ^ w + 2 ^ w * packBits w t

/-- The 32 FP32 lanes of a register. -/
def lanesF32 (v : VecReg) : List Rv := (List.range 32).map (fun l => dec .fp32 (lane v l).toNat)

/-- The bits of `w` bits from bit `lo` on whose lanes are enabled. -/
def gated (en : Word) (lo w : Nat) : VecReg := laneMask en &&& maskAt lo w

/-- `vpack` (R146): the element data of the block, 128 or 256 bits. -/
def execVpack (u : VSlot) (f : FmtV) (s : State) : Res :=
  vTo s u (.vpack u f) f f.daNames 4 (fun c =>
    let r := packmx (lanesF32 (c.src f.a)) f.type (bitAt f.b 0)
    let w := typeWidth f.type
    let n := 8 * blockBytes f.type
    let m := gated (c.enV f) (n * f.aux) n
    (m, bitsTo (n * f.aux) n (packBits w r.2.1), if m = 0 then 0 else r.2.2))

/-- `vmxs` (R146): the scale byte. -/
def execVmxs (u : VSlot) (f : FmtV) (s : State) : Res :=
  vTo s u (.vmxs u f) f f.daNames 4 (fun c =>
    let r := packmx (lanesF32 (c.src f.a)) f.type false
    let m := gated (c.enV f) (8 * f.b) 8
    (m, bitsTo (8 * f.b) 8 r.1, if m = 0 then 0 else if r.1 = 0xFF then flNV else 0))

/-! ## Packed formats (R147) -/

/-- The value of a six-bit element with `eb` exponent bits and `mb` mantissa bits. -/
def sixBit (eb mb bias v : Nat) : Rv :=
  let e := bitsAt v mb eb
  let m := bitsAt v 0 mb
  let mag : Rat := if e = 0 then (m : Rat) * pow2 (1 - bias - mb) else ((2 ^ mb + m : Nat) : Rat) * pow2 ((e : Int) - bias - mb)
  .fin (if bitAt v 5 then -mag else mag) (bitAt v 5)

/-- Element `i` of a packed register in format `k`, half `sel`. -/
def packedElem (k sel : Nat) (v : VecReg) (i : Nat) : Rv :=
  match k with
  | 0 => dec .e2m1 (bitsAt v.toNat (512 * sel + 4 * i) 4)
  | 1 => sixBit 3 2 3 (bitsAt v.toNat (6 * i) 6)
  | _ => sixBit 2 3 1 (bitsAt v.toNat (6 * i) 6)

/-- `vunpk` (R147): every element exactly in E4M3. -/
def execVunpk (u : VSlot) (f : FmtV) (s : State) : Res :=
  vTo s u (.vunpk u f) f f.daNames 4 (fun c =>
    let a := c.src f.a
    f.mapElems 8 (c.enV f) (fun e => ((rne (packedElem (f.aux % 4) (f.aux / 4 % 2) a e) .e4m3).1, 0)))

/-! ## 2:4 compression (R113, R123, R124, R148) -/

/-- Elements of one row of a fragment (R113), by element width. -/
def fragK (w : Nat) : Nat := 32 / w

/-- Rank of an element (R124): NaN above every number, then magnitude. -/
def rankKey (t v : Nat) : Nat :=
  if t == 0 || t == 16 then (sext v 8).natAbs
  else if isNanBits (typeFmt t) v then 2 ^ 16
  else v % 2 ^ ((typeFmt t).width - 1)

/-- The index below `n`, other than `skip`, of the largest key; the lower index among equals. -/
def bestIndex (key : Nat → Nat) (n : Nat) (skip : Option Nat) : Nat :=
  let r := (List.range n).foldl (fun (m : Option Nat) i =>
    if skip == some i then m
    else match m with
      | none => some i
      | some b => if key b < key i then some i else m) none
  r.getD 0

/-- The two kept positions of a group of four, ascending (R124). -/
def keptPair (key : Nat → Nat) : Nat × Nat :=
  let a := bestIndex key 4 none
  let b := bestIndex key 4 (some a)
  (min a b, max a b)

/-- `vcmpr` (R148): kept elements, or metadata nibbles. -/
def execVcmpr (u : VSlot) (f : FmtV) (s : State) : Res :=
  vTo s u (.vcmpr u f) f f.daNames 4 (fun c =>
    let w := typeWidth f.type
    let k := fragK w
    let a := (c.src f.a).toNat
    let at_ (n g p : Nat) : Nat := bitsAt a (w * (n * 2 * k + 4 * g + p)) w
    let groups := (List.range 16).flatMap (fun n => (List.range (k / 2)).map (fun g => (n, g)))
    let pair (x : Nat × Nat) : Nat × Nat := keptPair (fun p => rankKey f.type (at_ x.1 x.2 p))
    if f.aux / 32 = 0 then
      let l := groups.flatMap (fun x => [at_ x.1 x.2 (pair x).1, at_ x.1 x.2 (pair x).2])
      (gated (c.enV f) (512 * (f.aux % 2)) 512, bitsTo (512 * (f.aux % 2)) 512 (packBits w l), 0)
    else
      let l := groups.map (fun x => (pair x).1 + 4 * (pair x).2)
      let lo := 256 * (f.aux / 2 % 4)
      (gated (c.enV f) lo (32 * k), bitsTo lo (32 * k) (packBits 4 l), 0))

end Sys2Proof.Machine
end

