-- ==== Sys2Proof/Machine/VecMove.lean ====
section
/-! DEFINITION. Sys2Proof/Machine/VecMove.lean: movement, reduction, coordinates and predicate operations of V0 and V1 (R149 to
R153). -/
namespace Sys2Proof.Machine

/-! ## Movement (R149) -/

/-- Elements of width `w` moved: element `e` of d is `g a b e`, patterns of the whole part at hand. -/
def moveOp (s : State) (u : VSlot) (i : Instr) (f : FmtV) (names : List Nat) (lat w : Nat)
    (g : (a b : Nat → Nat) → Nat → Nat) : Res :=
  vTo s u i f names lat (fun c =>
    let a := c.src f.a
    let b := c.src f.b
    f.mapElems w (c.enV f) (fun e => (g (f.elem a w) (f.elem b w) e, 0)))

/-- `vmov` (R149). -/
def execVmov (u : VSlot) (f : FmtV) (s : State) : Res := moveOp s u (.vmov u f) f f.daNames 1 32 (fun a _ e => a e)

/-- The element `vmovi` writes, from its 22-bit immediate (R149). -/
def moviElem (t m : Nat) : Nat :=
  if t = 8 then m * 2 ^ 10
  else if t = 9 ∨ t = 10 then m
  else if typeSigned t then wrapI (sext m 22) (typeWidth t) else m % 2 ^ typeWidth t

/-- `vmovi` (R149). -/
def execVmovi (u : VSlot) (f : FmtV) (s : State) : Res :=
  moveOp s u (.vmovi u f) f [f.d] 1 (typeWidth f.type) (fun _ _ _ => moviElem f.type (f.a * 2 ^ 11 + f.b))

/-- `vsel` (R149): every lane of the part, chosen by the predicate. -/
def execVsel (u : VSlot) (f : FmtV) (s : State) : Res :=
  vTo s u (.vsel u f) f f.dabNames 1 (fun c =>
    let a := c.src f.a
    let b := c.src f.b
    let p := c.enV f
    f.mapElems 32 onesW (fun e => (if p.getLsbD (f.laneOf 32 e) then f.elem a 32 e else f.elem b 32 e, 0)))

/-- `vperm` (R149). -/
def execVperm (u : VSlot) (f : FmtV) (s : State) : Res :=
  let w := typeWidth f.type
  moveOp s u (.vperm u f) f f.dabNames 2 w (fun a b e => a (b e % f.count w))

/-- The patterns of `vshuf` (R149); `n` elements. -/
def shufElem (pat n : Nat) (a b : Nat → Nat) (e : Nat) : Nat :=
  let c (i : Nat) : Nat := if i < n then a i else b (i - n)
  match pat with
  | 0 => if e % 2 = 0 then a (e / 2) else b ((e - 1) / 2)
  | 1 => if e % 2 = 0 then a (n / 2 + e / 2) else b (n / 2 + (e - 1) / 2)
  | 2 => c (2 * e)
  | 3 => c (2 * e + 1)
  | 4 => a (n - 1 - e)
  | _ => a (e ^^^ 1)

/-- `vshuf` (R149). -/
def execVshuf (u : VSlot) (f : FmtV) (s : State) : Res :=
  let w := typeWidth f.type
  moveOp s u (.vshuf u f) f (if f.aux < 4 then f.dabNames else f.daNames) 2 w (shufElem f.aux (f.count w))

/-- `vbcast` (R149). -/
def execVbcast (u : VSlot) (f : FmtV) (s : State) : Res :=
  moveOp s u (.vbcast u f) f f.daNames 2 (typeWidth f.type) (fun a _ _ => a f.b)

/-! ## Reduction (R150) -/

/-- The exact sum of values, +0 for zero; whether infinities of both signs met. -/
def sumRv (l : List Rv) : Rv × Bool :=
  if l.any Rv.isNan then (.nan, false)
  else
    let p := l.contains (.inf false)
    let n := l.contains (.inf true)
    if p && n then (.nan, true)
    else if p then (.inf false, false)
    else if n then (.inf true, false)
    else (.fin (l.foldl (fun a x => match x with | .fin q _ => a + q | _ => a) 0) false, false)

/-- `vred` on integer elements. -/
def redInt (op t : Nat) (l : List Nat) : Nat :=
  let w := typeWidth t
  match op with
  | 0 => wrapI (l.foldl (fun a x => a + readInt t x) 0) w
  | 1 => wrapI (l.foldl (fun a x => min a (readInt t x)) (typeMax t)) w
  | 2 => wrapI (l.foldl (fun a x => max a (readInt t x)) (typeMin t)) w
  | 3 => l.foldl (fun a x => a &&& x) (2 ^ w - 1)
  | 4 => l.foldl (fun a x => a ||| x) 0
  | _ => l.foldl (fun a x => a ^^^ x) 0

/-- `vred` on floating elements; `b` is the modifier. -/
def redFloat (op t b : Nat) (l : List Nat) : ElemResult :=
  let f := typeFmt t
  match op with
  | 0 => roundNv (sumRv (l.map (decFtz f (bitAt b 3)))) f (rndNoSr (b % 8)) false (bitAt b 3)
  | k =>
    let wantMax := k == 2
    match l with
    | [] => (f.signed wantMax f.infBits, 0)
    | x :: t => (t.foldl (minMaxBits f false wantMax) (if isNanBits f x then f.nanBits else x), 0)

/-- `vred` (R150): the result in element 0, zero elsewhere, whatever the predicate. -/
def execVred (u : VSlot) (f : FmtV) (s : State) : Res :=
  let w := typeWidth f.type
  vTo s u (.vred u f) f f.daNames 4 (fun c =>
    let a := c.src f.a
    let l := ((List.range (f.count w)).filter (fun e => (c.enV f).getLsbD (f.laneOf w e))).map (f.elem a w)
    let r := if typeInt f.type then (redInt (f.aux % 8) f.type l, 0) else redFloat (f.aux % 8) f.type f.b l
    (maskAt f.lo f.bits, bitsTo f.lo w r.1, r.2))

/-- `vcoord` (R151). -/
def execVcoord (u : VSlot) (f : FmtV) (s : State) : Res :=
  vTo s u (.vcoord u f) f [f.d] 1 (fun c =>
    f.mapElems 32 (c.enV f) (fun e =>
      let l := f.laneOf 32 e
      (match f.aux % 8 with
        | 0 => c.row
        | 1 => c.col
        | 2 => c.pos
        | 3 => l
        | _ => laneIndex c.pos c.row c.col l, 0)))

/-! ## Predicate operations (R152, R153) -/

end Sys2Proof.Machine
namespace Sys2Proof
open Sys2Proof.Machine

/-- The enabled lanes of the part. -/
def FmtV.partEn (f : FmtV) (en : Word) : Word :=
  en &&& BitVec.ofNat 32 ((2 ^ (f.bits / 32) - 1) * 2 ^ (f.lo / 32))

end Sys2Proof
namespace Sys2Proof.Machine

/-- A predicate operation: `g` gives the 32 bits, written in the enabled lanes of the part. -/
def predOp (s : State) (u : VSlot) (i : Instr) (f : FmtV) (g : CellRun → Word) : Res :=
  vOp s u i [] (fun c => c.writeP f.d 1 (f.partEn (c.enV f)) (g c))

/-- `pand` (R152). -/
def execPand (u : VSlot) (f : FmtV) (s : State) : Res := predOp s u (.pand u f) f (fun c => c.pReg f.a &&& c.pReg f.b)
/-- `por` (R152). -/
def execPor (u : VSlot) (f : FmtV) (s : State) : Res := predOp s u (.por u f) f (fun c => c.pReg f.a ||| c.pReg f.b)
/-- `pxor` (R152). -/
def execPxor (u : VSlot) (f : FmtV) (s : State) : Res := predOp s u (.pxor u f) f (fun c => c.pReg f.a ^^^ c.pReg f.b)
/-- `pnot` (R152). -/
def execPnot (u : VSlot) (f : FmtV) (s : State) : Res := predOp s u (.pnot u f) f (fun c => ~~~ c.pReg f.a)
/-- `pset` (R152): the first n lanes of the part. -/
def execPset (u : VSlot) (f : FmtV) (s : State) : Res :=
  predOp s u (.pset u f) f (fun _ => BitVec.ofNat 32 ((2 ^ f.aux - 1) * 2 ^ (f.lo / 32)))

/-- The flag `pflag` gives a cell (R153). -/
def flagOf (f : FmtV) (en p : Word) : Bool :=
  let m := f.partEn en
  if f.aux % 2 = 0 then (p &&& m) != 0 else (p &&& m) == m

/-- `pflag` (R43, R45, R153): the cell's aggregate flag; the head awaits the bundle's aggregate. -/
def execPflag (u : VSlot) (f : FmtV) (s : State) : Res :=
  cellOp s (.pflag u f) [] s
    ((s.modIss (fun i => { i with fl := { i.fl with pflag := true } })).modCtl (fun c =>
      { c with aggPend := some s.iss.n, aggAt := c.cyc + s.aggDelay s.t.id.head s.t.len }))
    (s.modCr (fun c => { c with cell := { c.cell with flag := flagOf f (c.enV f) (c.pReg f.a) } }))

end Sys2Proof.Machine
end

