-- ==== Sys2Proof/Machine/Matrix.lean ====
section
/-! DEFINITION. Sys2Proof/Machine/Matrix.lean: the M operations: the matrix step (R113 to R117, R119, R123), tile movement
(R120 to R122), drains (R126 to R128) and the tile scoreboard (R130). -/
namespace Sys2Proof.Machine

/-! ## Formats and scales (R114, R115) -/

/-- An entry a matrix step accepts (R115). -/
def stepEntryOk (e : Word) : Bool :=
  let a := ftA e
  let b := ftB e
  let fp := decide (ftAcc e < 2)
  let half (t : Nat) : Bool := t == 9 || t == 10
  let byte (t : Nat) : Bool := t == 11 || t == 12 || t == 15
  let nib (t : Nat) : Bool := t == 13 || t == 14
  (half a && half b && fp) || (byte a && byte b && fp) || (a == 16 && b == 16 && fp) || (a == 0 && b == 0 && !fp) ||
    (nib a && nib b && fp)

/-- A step reads its scale register (R114). -/
def readsScales (e : Word) : Bool := ftSmode e == 1 && (isBlock (ftA e) || isBlock (ftB e))

/-- The value of an element under a scale byte (R116): scales matter to block formats alone. -/
def elemValue (t scale v : Nat) (ftz : Bool) : Rv :=
  if isBlock t then mxval t scale v else if t = 0 then .fin (sext v 8 : Rat) false else decFtz (typeFmt t) ftz v

/-- The rounding mode of a final addition (R103). -/
def accMode (e : Word) : Rnd := rndNoSr (ftRnd e)

/-! ## Tiles -/

/-- Element (i, j) of a tile. -/
def tileElem (t : TileReg) (i j : Nat) : Nat := (t.extractLsb' (32 * (16 * i + j)) 32).toNat

/-- A tile all of whose elements are given with their flags. -/
def buildTile (g : Nat → Nat → ElemResult) : TileReg × Nat :=
  let l := (List.range 256).map (fun n => g (n / 16) (n % 16))
  (BitVec.ofNat 8192 (packBits 32 (l.map (·.1))), l.foldl (fun a r => flOr a r.2) 0)

/-- Tile `n` of the executing cell. -/
def CellRun.tile (c : CellRun) (n : Nat) : TileReg := fget c.cell.tiles 0 n

/-- Write tile `n`; flags go to the M byte. -/
def CellRun.setTile (c : CellRun) (n : Nat) (v : TileReg × Nat) : CellRun :=
  let c := c.note .m v.2
  { c with cell := { c.cell with tiles := fset c.cell.tiles 0 n v.1, errs := c.cell.errs.filter (fun e => e.place != .tile n) } }

/-! ## The matrix step (R116) -/

/-- The products a step takes: a skipped position stands for +0, and for none where it meets an infinity or a NaN (R125). -/
def stepPairs (as : List (Option Rv)) (bs : List Rv) : List (Rv × Rv) :=
  (as.zip bs).filterMap (fun x =>
    match x.1, x.2 with
    | some a, b => some (a, b)
    | none, .fin q z => some (.fin 0 false, .fin q z)
    | none, _ => none)

/-- The exact sum of the products of a step, and whether it sets NV. -/
def stepSum (as : List (Option Rv)) (bs : List Rv) : Rv × Bool :=
  let xs := stepPairs as bs
  if xs.any (fun x => x.1.isNan || x.2.isNan) then (.nan, false)
  else
    let ps := xs.map (fun x => mulRv x.1 x.2)
    if ps.any (·.2) then (.nan, true) else sumRv (ps.map (·.1))

/-- The sum as an integer (INT8 steps). -/
def Rv.toI : Rv → Int
  | .fin q _ => q.floor
  | _ => 0

/-- The new value of an element from its old pattern and the operands of its row and column. -/
def stepElem (e : Word) (clr : Bool) (old : Nat) (as : List (Option Rv)) (bs : List Rv) : ElemResult :=
  if 2 ≤ ftAcc e then
    let s := (if clr then 0 else sext old 32) + (stepSum as bs).1.toI
    (wrapI (if ftAcc e = 2 then s else satI s (-(2 ^ 31 : Nat)) ((2 ^ 31 : Nat) - 1)) 32, 0)
  else
    let s := stepSum as bs
    let o := if clr then Rv.fin 0 false else decFtz .fp32 (ftFtz e) old
    let nv := if s.2 then flNV else 0
    if o.isNan || s.1.isNan then (FpFmt.nanBits .fp32, nv)
    else
      let r := roundNv (addRv o s.1 (accMode e).isDn) .fp32 (accMode e) (ftAcc e == 1) (ftFtz e)
      (r.1, flOr r.2 nv)

/-- Operand lists of a step: row i of A, `none` at a skipped position, and column j of B. -/
structure StepArgs where
  rows : List (List (Option Rv))
  cols : List (List Rv)
  deriving DecidableEq, Repr, Inhabited

/-- The tile a step leaves, with its flags. -/
def stepTile (e : Word) (clr : Bool) (t : TileReg) (x : StepArgs) : TileReg × Nat :=
  buildTile (fun i j => stepElem e clr (tileElem t i j) (x.rows.getD i []) (x.cols.getD j []))

/-- Scale byte `n` of group SSTEP of the scale register; 0x7F where none is read. -/
def scaleByte (e : Word) (reg : VecReg) (sstep n : Nat) : Nat :=
  if readsScales e then bitsAt reg.toNat (8 * (32 * sstep + n)) 8 else 0x7F

/-- Row `i` of a dense A fragment of `k` elements of width `w` from bit `lo` on; the same for a column of B. -/
def fragRow (v lo w k i : Nat) : List Nat := (List.range k).map (fun kk => bitsAt v (lo + w * (i * k + kk)) w)

/-- Rows of A as values: `raw i` are the patterns; `zr` marks zeroed rows. -/
def argRows (e : Word) (t base : Nat) (reg : VecReg) (sstep : Nat) (raw : Nat → List Nat) (zero : Nat → Bool) : List (List Rv) :=
  (List.range 16).map (fun i => (raw i).map (fun v =>
    if zero i then .fin 0 false else elemValue t (scaleByte e reg sstep (base + i)) v (ftFtz e)))

/-- Operands of `mma` and `mmaz`. -/
def CellRun.denseArgs (c : CellRun) (f : FmtM) (e : Word) (zr zc : Nat → Bool) : StepArgs :=
  let w := typeWidth (ftA e)
  let k := fragK w
  let sc := c.src f.scale
  ⟨(argRows e (ftA e) 0 sc f.sstep (fragRow (c.src f.a).toNat (512 * f.ah) w k) zr).map (·.map some),
   argRows e (ftB e) 16 sc f.sstep (fragRow (c.src f.b).toNat (512 * f.bh) w k) zc⟩

/-- EXP of R123: the dense row that the kept elements `kept` and nibbles `nib` of row `i` stand for; `none` is a skipped
position. -/
def expandRow (k : Nat) (kept nib : Nat → Nat) (i : Nat) : List (Option Nat) :=
  (List.range (2 * k)).map (fun p =>
    let g := p / 4
    let n := nib (i * (k / 2) + g)
    if n / 4 % 4 = p % 4 then some (kept (i * k + 2 * g + 1)) else if n % 4 = p % 4 then some (kept (i * k + 2 * g)) else none)

/-- Operands of `mmas` (R123): scales stand in the register after the metadata. -/
def CellRun.sparseArgs (c : CellRun) (f : FmtM) (e : Word) : StepArgs :=
  let w := typeWidth (ftA e)
  let k := fragK w
  let a := (c.src f.a).toNat
  let md := (c.src f.scale).toNat
  let sc := c.src (f.scale + 1)
  let kept (n : Nat) : Nat := bitsAt a (512 * f.ah + w * n) w
  let nib (n : Nat) : Nat := bitsAt md (256 * f.sstep + 4 * n) 4
  ⟨(List.range 16).map (fun i => (expandRow k kept nib i).map (fun o =>
      o.map (fun v => elemValue (ftA e) (scaleByte e sc f.sstep i) v (ftFtz e)))),
   argRows e (ftB e) 16 sc f.sstep (fragRow (c.src f.b).toNat 0 w (2 * k)) (fun _ => false)⟩

/-! ## Checks, scoreboard, shape -/

/-- The tile check of R59. -/
def tileFails (s : State) (n : Nat) : List Fail := check (decide (n < s.iss.t0.prog.hdr.atiles)) (failRange 2 n)

/-- Whether an access to a tile must wait (R130): `step` marks a matrix step, which forwards from matrix steps. -/
def Task.tileBusy (t : Task) (step : Bool) (n : Nat) : Bool :=
  let b := fget t.busy (0, false) n
  decide (t.ctl.cyc < b.1) && !(step && b.2)

/-- Set a tile's busy bit for `cycles` core cycles after issue. -/
def State.setBusy (s : State) (step : Bool) (n cycles : Nat) : State :=
  s.modT (fun t => { t with busy := finsert t.busy n (t.ctl.cyc + cycles, step) })

/-- An M operation: checks, the tiles it touches, the busy time of tile `acc`, the resolved entry, and its part in a cell. -/
def mOp (s : State) (i : Instr) (f : FmtM) (fails : List Fail) (touch : List Nat) (step : Bool) (cycles : Nat)
    (g : CellRun → CellRun) : Res :=
  let b := if cycles = 0 then s else s.setBusy step f.acc cycles
  cellOp s i fails (s.stallIf (touch.any (s.t.tileBusy step)))
    (b.modIss (fun q => { q with fl := { q.fl with entry := s.iss.t0.fmtEntry f.fmt } }))
    (s.modCr g)

/-- An operation gated by bit 0 of its predicate (R117). -/
def gatedOp (f : FmtM) (g : CellRun → CellRun) (c : CellRun) : CellRun := if c.gate f then g c else c

/-- Checks of a matrix step: tile, operand names, format entry, scale register. -/
def stepFails (s : State) (f : FmtM) (sparse : Bool) : List Fail :=
  let e := s.iss.t0.fmtEntry f.fmt
  let reads := readsScales e
  tileFails s f.acc ++ footFails s 2 [f.a, f.b] ++ check (stepEntryOk e) (failSlot s 2 1) ++
  (if sparse then
    footFails s 2 [f.scale] ++
      (if reads then check (decide (f.scale ≤ 1534)) (failSlot s 2 1) ++
        check (decide (1534 < f.scale) || decide (f.scale + 1 < s.iss.t0.prog.hdr.vregs)) (failRange 2 f.scale) else [])
   else if reads then footFails s 2 [f.scale] else [])

/-! ## The operations -/

/-- `nop` of M (R79). -/
def execNopM (s : State) : Res := atIssue s [] s s

/-- `mma` (R119). -/
def execMma (f : FmtM) (s : State) : Res :=
  mOp s (.mma f) f (stepFails s f false) [f.acc] true 6 (gatedOp f (fun c =>
    c.setTile f.acc (stepTile c.fl.entry (f.clr == 1) (c.tile f.acc)
      (c.denseArgs f c.fl.entry (fun _ => false) (fun _ => false)))))

/-- `mmas` (R123). -/
def execMmas (f : FmtM) (s : State) : Res :=
  mOp s (.mmas f) f (stepFails s f true) [f.acc] true 6 (gatedOp f (fun c =>
    c.setTile f.acc (stepTile c.fl.entry (f.clr == 1) (c.tile f.acc) (c.sparseArgs f c.fl.entry))))

/-- `mmaz` (R119): the predicate zeroes rows and columns; the step is always performed. -/
def execMmaz (f : FmtM) (s : State) : Res :=
  mOp s (.mmaz f) f (stepFails s f false) [f.acc] true 6 (fun c =>
    let p := c.predBits f.pred f.pneg
    c.setTile f.acc (stepTile c.fl.entry (f.clr == 1) (c.tile f.acc)
      (c.denseArgs f c.fl.entry (fun i => !p.getLsbD i) (fun j => !p.getLsbD (16 + j)))))

/-- `aclr` (R120). -/
def execAclr (f : FmtM) (s : State) : Res :=
  mOp s (.aclr f) f (tileFails s f.acc) [f.acc] false 1 (gatedOp f (fun c => c.setTile f.acc (0, 0)))

/-- The register check of `ald` and `ast` (R120). -/
def eightFails (s : State) (a : Nat) : List Fail :=
  check (decide (a ≤ 1528 ∧ a + 7 < s.iss.t0.prog.hdr.vregs)) (failRange 2 a)

/-- `ald` (R120). -/
def execAld (f : FmtM) (s : State) : Res :=
  mOp s (.ald f) f (tileFails s f.acc ++ eightFails s f.a) [f.acc] false 3 (gatedOp f (fun c =>
    c.setTile f.acc (BitVec.ofNat 8192 (packBits 1024 ((List.range 8).map (fun m => (c.src (f.a + m)).toNat))), 0)))

/-- `ast` (R120). -/
def execAst (f : FmtM) (s : State) : Res :=
  mOp s (.ast f) f (tileFails s f.acc ++ eightFails s f.a) [f.acc] false 0 (gatedOp f (fun c =>
    (List.range 8).foldl (fun d m => d.write (f.a + m) 2 (BitVec.allOnes 1024) ((c.tile f.acc).extractLsb' (1024 * m) 1024)) c))

/-- An element of a tile as ACC says (R121). -/
def accValue (e : Word) (v : Nat) : Rv := if 2 ≤ ftAcc e then .fin (sext v 32 : Rat) false else decFtz .fp32 (ftFtz e) v

/-- One element of `ascl` (R121). -/
def scaleElem (e : Word) (x f g : Rv) : ElemResult :=
  if x.isNan || f.isNan || g.isNan then (FpFmt.nanBits .fp32, 0)
  else
    let p := mulRv x f
    let r := if p.2 then p else mulRv p.1 g
    roundNv r .fp32 (accMode e) (ftAcc e == 1 || ftAcc e == 3) (ftFtz e)

/-- `ascl` (R121). -/
def execAscl (f : FmtM) (s : State) : Res :=
  mOp s (.ascl f) f (tileFails s f.acc ++ footFails s 2 [f.a]) [f.acc] false 4 (gatedOp f (fun c =>
    let e := c.fl.entry
    let q := c.src f.a
    let factor (l : Nat) : Rv := decFtz .fp32 (ftFtz e) (lane q l).toNat
    c.setTile f.acc (buildTile (fun i j => scaleElem e (accValue e (tileElem (c.tile f.acc) i j)) (factor i) (factor (16 + j))))))

/-- One addition of tiles (R122, R126): `m` is the rounding mode. -/
def addElem (e : Word) (m : Rnd) (x y : Nat) : ElemResult :=
  match ftAcc e with
  | 2 => ((x + y) % 2 ^ 32, 0)
  | 3 => (wrapI (satI (sext x 32 + sext y 32) (-(2 ^ 31 : Nat)) ((2 ^ 31 : Nat) - 1)) 32, 0)
  | k => roundNv (addRv (decFtz .fp32 (ftFtz e) x) (decFtz .fp32 (ftFtz e) y) m.isDn) .fp32 m (k == 1) (ftFtz e)

/-- `aadd` (R122). -/
def execAadd (f : FmtM) (s : State) : Res :=
  mOp s (.aadd f) f (tileFails s f.acc ++ tileFails s (f.b % 16)) [f.acc, f.b % 16] false 4 (gatedOp f (fun c =>
    c.setTile f.acc (buildTile (fun i j =>
      addElem c.fl.entry (accMode c.fl.entry) (tileElem (c.tile f.acc) i j) (tileElem (c.tile (f.b % 16)) i j)))))

/-! ## Drains (R126 to R128) -/

/-- The attachment of a drain queue (R233). -/
def Task.dqAtt (t : Task) (q : Nat) : DqAtt := fget t.dq default q

/-- The edge state of a position. -/
def Task.posAt (t : Task) (j : Nat) : Pos := fget t.pos default j

/-- Change the edge state of a position. -/
def Task.modPos (t : Task) (j : Nat) (f : Pos → Pos) : Task := { t with pos := fmod t.pos default j f }

/-- The rows of queue `q` at a position. -/
def Pos.rows (p : Pos) (q : Nat) : List DrainRow := fget p.dq [] q

/-- Occupancy of a queue at a position: rows pushed and not popped (R127). -/
def Task.occupancy (t : Task) (j q : Nat) : Nat := ((t.posAt j).rows q).countP (fun r => !r.popped)

/-- Push a row at the positions of the bundle (R126, R128): a ninth row of a detached queue ends the context. -/
def State.pushRow (s : State) (q : Nat) : State :=
  let n := s.iss.n
  (positions s.iss.fl.pm s.t.len).foldl (fun s j =>
    let s := if 8 ≤ s.t.occupancy j q then s.imprecise s.t n s.iss.addr false 2 9 q j else s
    s.modT (fun t => t.modPos j (fun p => { p with dq := fmod p.dq [] q (fun l => l ++ [⟨n, [], [], false⟩]) }))) s

/-- What `adrn` does to the slot of column `c` as it passes one cell that performs it: the tile enters, or is added. -/
def DrainRow.take (r : DrainRow) (c : Nat) (plain : Bool) (e : Word) (t : TileReg) : DrainRow × Nat :=
  if fget r.have_ 0 c = 0 ∨ plain then ({ r with slots := fset r.slots 0 c t, have_ := finsert r.have_ c 1 }, 0)
  else
    let v := fget r.slots 0 c
    let x := buildTile (fun i j => addElem e .rne (tileElem v i j) (tileElem t i j))
    ({ r with slots := fset r.slots 0 c x.1 }, x.2)

/-- One cell performs `adrn`: its tile goes into the row of its bundle, and is cleared after. -/
def State.drainCell (s : State) (f : FmtM) : State :=
  let c := s.cr
  if c.gate f then
    let rows := (s.t.posAt c.pos).rows f.dq
    match rows.find? (fun r => r.n == c.fl.n) with
    | none => s
    | some r =>
      let x := r.take c.col (f.dmode == 0) c.fl.entry (c.tile f.acc)
      let s := s.modT (fun t => t.modPos c.pos (fun p => { p with dq := fset p.dq [] f.dq (rows.map (fun y => if y.n == c.fl.n then x.1 else y)) }))
      s.modCr (fun c => let d := c.note .m x.2; if f.clr = 1 then d.setTile f.acc (0, 0) else d)
  else s

/-- `adrn` (R126, R128, R233): waits while an attached queue is full at a position that would push, or being detached. -/
def execAdrn (f : FmtM) (s : State) : Res :=
  let t := s.iss.t0
  let att := t.dqAtt f.dq
  let fails := tileFails s f.acc
  let full := (positions s.iss.fl.pm t.len).any (fun j => decide (8 ≤ t.occupancy j f.dq))
  let w := s.stallIf (s.t.tileBusy false f.acc || (att.attached && (att.pending || full)))
  let b := if f.clr = 1 then s.setBusy false f.acc 1 else s
  cellOp s (.adrn f) fails w
    ((b.pushRow f.dq).modIss (fun q => { q with fl := { q.fl with entry := t.fmtEntry f.fmt } }))
    (s.drainCell f)

end Sys2Proof.Machine
end

