-- ==== Sys2Proof/Machine/SeqMem.lean ====
section
/-! DEFINITION. Sys2Proof/Machine/SeqMem.lean: the sequencer's accesses to the head die's shared SRAM (R74, R183) in the order
R205 and R206 give a task's own accesses. An atomic performs when its bundle commits; a store or load is held with the
task until a later step performs it. -/
namespace Sys2Proof.Machine

/-! ## Addresses and order -/

/-- s[base] + off, an exact integer. -/
def seqAddr (s : State) (base : Nat) (off : Int) : Int := ((s.iss.t0.sReg base).toNat : Int) + off

/-- The checks of a sequencer access (R74, R182): alignment, then the partition of the head's die. -/
def seqMemFails (s : State) (u : SeqSlot) (a : Int) (n : Nat) : List Fail :=
  let v : DWord := BitVec.ofInt 64 a
  check (a % (n : Int) == 0) ⟨u.slot.source, 3, v, false⟩ ++
  check (decide (0 ≤ a) && s.inSram s.iss.t0.id.ctx s.iss.t0.die a.toNat n) ⟨u.slot.source, 4, v, false⟩

/-- Whether an edge operation reads the weight store. -/
def EdgeInst.isWs (e : EdgeInst) : Bool := match e.op with | .ews _ => true | _ => false

/-- Whether some unfinished edge operation of a bundle before `n`, at a position on die `die`, satisfies `p`. -/
def Task.edgeEarlier (t : Task) (die n : Nat) (p : EdgeInst → Bool) : Bool :=
  t.pos.any (fun e => t.dieAt e.1 == die &&
    (e.2.ld.any (fun w => decide (w.inst.n < n) && p w.inst) || e.2.st.any (fun w => decide (w.inst.n < n) && p w.inst)))

/-- Whether two ranges of bytes meet. -/
def overlaps (a m b n : Nat) : Bool := decide (a < b + n) && decide (b < a + m)

/-- Whether an access of the head with class `oc` to `n` bytes at `a` must wait for the task's earlier accesses (R205): its
own accesses to the same bytes or of the class, and edge operations of the class on the head's die. When SA of the same
bundle stores or loads, every earlier access is waited for, so that SA's can perform first. -/
def Task.seqMustWait (t : Task) (sstA : Bool) (bn oc a n : Nat) : Bool :=
  t.pstores.any (fun p => sstA || p.oc == oc || overlaps p.addr p.size a n) ||
  t.edgeEarlier t.die bn (fun e => !e.isWs && (sstA || e.oc == oc))

/-- Perform one held store or load. A store of part of a word with an uncorrectable error, and a load that meets one, end the
context (R355); the access stood in SA or SB of its bundle, and which is told by its record. -/
def State.performStore (s : State) (p : PStore) : State :=
  match p.ld with
  | some tag =>
    (s.sramSee s.t p.n p.at_ p.hand p.src 0 p.addr p.size).modT (fun t => t.loaded tag (BitVec.ofNat 64 (s.sramRd s.t.die p.addr p.size)))
  | none =>
    let s := if p.rmw then s.sramSee s.t p.n p.at_ p.hand p.src 0 p.addr p.size
      else if p.size < 8 ∧ errBad s.mem.sramErr (sramKey s.t.die p.addr) p.size
      then s.imprecise s.t p.n p.at_ p.hand p.src 11 p.addr 0 else s
    s.sramWr s.t.die p.addr p.size p.val.toNat

/-- Where SA of the bundle at issue stores or loads, that performs before SB's access (R71); every earlier access of the task
has performed then, so it is the only one held. -/
def State.performOwn (s : State) : State :=
  if s.iss.sstA.isSome then (s.t.pstores.foldl State.performStore s).modT (fun t => { t with pstores := [] }) else s

/-- The state as it will stand once SA's access of the bundle at issue has performed; an atomic stands as the store it makes. -/
def State.peekOwn (s : State) : State := match s.iss.sstA with | some p => s.performStore p | none => s

/-- SA's load of the bundle at issue performs alone, where an operation of SB waits for the task's reads (R213, R341). -/
def State.performLoad (s : State) : State :=
  match s.iss.sstA with
  | none => s
  | some p =>
    if p.ld.isSome && s.t.pstores.any (fun q => q.ld == p.ld) then
      (s.performStore p).modT (fun t => { t with pstores := t.pstores.filter (fun q => q.ld != p.ld) })
    else s

/-- SA's load of the bundle at issue cannot perform yet: an earlier access comes before it (R205). -/
def State.loadHeldBack (s : State) : Bool :=
  match s.iss.sstA with
  | none => false
  | some p => p.ld.isSome && s.t.seqMustWait false s.iss.n p.oc p.addr p.size

/-- SA's access performs as its bundle arrives at a barrier, which covers it (R208, R211, R308); the bundle goes on waiting. -/
def State.performArrival (s : State) : State :=
  match s.iss.sstA with
  | none => s
  | some p =>
    let v : DWord := BitVec.ofNat 64 (s.sramRd s.t.die p.addr p.size)
    (s.performStore p).modCtl (fun c => { c with own := some ⟨s.iss.addr, s.t.sys.tm, v⟩ })

/-- What SA's access of the bundle at issue has read, where it performed with the bundle's arrival at a barrier. -/
def State.ownDone (s : State) (u : SeqSlot) : Option DWord :=
  match s.t.ctl.own with
  | none => none
  | some d => if u = .sa ∧ d.at_ = s.iss.addr ∧ d.hand = s.t.sys.tm then some d.val else none

/-- What SA's load of the bundle at issue has read already. -/
def State.earlyRead (s : State) (u : SeqSlot) : Option DWord := (s.ownDone u).or (if u = .sa then s.t.ctl.early else none)

/-- The access of SA of the bundle at issue is noted for SB, unless it has performed. -/
def State.noteSa (s : State) (u : SeqSlot) (p : PStore) : State :=
  if u = .sa ∧ (s.ownDone u).isNone then s.modIss (fun i => { i with sstA := some p }) else s

/-- Whether the held access at `idx` may perform: no earlier one of its class or bytes, no earlier edge operation of its
class on the head's die (R205). -/
def Task.storeReady (t : Task) (idx : Nat) : Bool :=
  match t.pstores[idx]? with
  | none => false
  | some p =>
    !(t.pstores.take idx).any (fun q => q.oc == p.oc || overlaps q.addr q.size p.addr p.size) &&
    !t.edgeEarlier t.die p.n (fun e => !e.isWs && e.oc == p.oc)

/-- A held store or load of the task at an array performs (the model's move; R204, R205). -/
def storeMove (head idx : Nat) (s : State) : State :=
  match s.taskAt head with
  | none => s
  | some t =>
    match t.pstores[idx]? with
    | none => s
    | some p =>
      if t.storeReady idx then
        { (s.onTask t (fun s => (s.performStore p).modT (fun t => { t with pstores := t.pstores.eraseIdx idx }))) with t := default }
      else s

/-! ## The operations -/

/-- A load is held until a later step performs it. -/
def Task.load (t : Task) (p : PStore) : Task := { t with pstores := t.pstores ++ [p], ctl := { t.ctl with accNo := t.ctl.accNo + 1 } }

/-- The head reads `n` bytes at `a`: storage errors (R354, R355). -/
def State.headSee (s : State) (u : SeqSlot) (a n : Nat) : State :=
  s.sramSee s.iss.t0 s.iss.n s.iss.addr s.iss.t0.sys.tm u.slot.source 0 a n

/-- The bundle at issue waits, and SA's load, which SB does not order, may perform meanwhile (R211; log entry 8). -/
def State.noteEarly (s : State) : State :=
  match s.iss.sstA with
  | none => s
  | some p =>
    if p.ld.isSome && Config.freeEarly s.free && !s.t.seqMustWait false s.iss.n p.oc p.addr p.size &&
        !errBad s.mem.sramErr (sramKey s.t.die p.addr) p.size
    then s.modCtl (fun c => { c with early := some (BitVec.ofNat 64 (s.sramRd s.t.die p.addr p.size)) })
    else s

/-- `sld` (R183): the bytes, zero-extended, due after 5 bundles; read when the load performs. -/
def execSld (u : SeqSlot) (f : FmtSM) (s : State) : Res :=
  let a := seqAddr s f.base (sext f.off 17)
  let n := 2 ^ f.size
  let tag := s.t.ctl.accNo
  let p : PStore := ⟨s.iss.n, s.iss.addr, u.slot.source, a.toNat, n, f.oc, 0, some tag, false, s.iss.t0.sys.tm⟩
  seqOp s f.qp f.qn [] (seqMemFails s u a n) (s.noteSa u p)
    (match s.earlyRead u with
      | some v => s.hold 5 (.s f.d) v
      | none => (s.holdLoad (.s f.d) tag).modT (·.load p))

/-- `sst` (R183): the low bytes of s[d] as read at issue. -/
def execSst (u : SeqSlot) (f : FmtSM) (s : State) : Res :=
  let a := seqAddr s f.base (sext f.off 17)
  let n := 2 ^ f.size
  let p : PStore := ⟨s.iss.n, s.iss.addr, u.slot.source, a.toNat, n, f.oc, opA s f.d, none, false, s.iss.t0.sys.tm⟩
  seqOp s f.qp f.qn [] (seqMemFails s u a n) (s.noteSa u p)
    (if (s.ownDone u).isSome then s else s.modT (fun t => { t with pstores := t.pstores ++ [p] }))

/-- SAMO of R183: the new value of the doubleword. -/
def samoNew (amo : Nat) (old d v : DWord) : DWord :=
  match amo with
  | 0 => old + v
  | 1 => old &&& v
  | 2 => old ||| v
  | 3 => old ^^^ v
  | 4 => if less true v old then v else old
  | 5 => if less true old v then v else old
  | 6 => if less false v old then v else old
  | 7 => if less false old v then v else old
  | 8 => v
  | _ => if old = d then v else old

/-- `samo` (R183): one indivisible read and write of an aligned doubleword; the old value is due after 8 bundles. -/
def execSamo (u : SeqSlot) (f : FmtSA) (s : State) : Res :=
  let a := seqAddr s f.base (sext f.off 9 * 8)
  let s' := s.performOwn
  let old : DWord := BitVec.ofNat 64 (s'.sramRd s.iss.t0.die a.toNat 8)
  let now : DWord := samoNew f.amo (BitVec.ofNat 64 (s.sramRd s.iss.t0.die a.toNat 8)) (opA s f.d) (opA s f.value)
  let w := if (s.ownDone u).isSome then s else s.stallIf (s.t.seqMustWait s.iss.sstA.isSome s.iss.n f.oc a.toNat 8)
  seqOp s f.qp f.qn [] (seqMemFails s u a 8)
    (w.noteSa u ⟨s.iss.n, s.iss.addr, u.slot.source, a.toNat, 8, f.oc, now, none, true, s.iss.t0.sys.tm⟩)
    (match s.ownDone u with
      | some v => s.hold 8 (.s f.d) v
      | none => ((s'.headSee u a.toNat 8).sramWr s.iss.t0.die a.toNat 8 (samoNew f.amo old (opA s f.d) (opA s f.value)).toNat).hold 8 (.s f.d) old)

end Sys2Proof.Machine
end

