-- ==== Sys2Proof/Machine/Edge.lean ====
section
/-! DEFINITION. Sys2Proof/Machine/Edge.lean: LD and ST operations at issue (R48, R83, R184, R185, R193 to R199): addresses,
checks, waits, and the work they leave to the edge loaders. -/
namespace Sys2Proof.Machine

/-! ## Fields and addresses -/

/-- The format fields of an edge operation. -/
def edgeFmt (i : Instr) : FmtEdge :=
  match i with
  | .eldw f | .eldn f | .eldwr f | .eldnr f | .ews f | .ewin f | .eldt f | .eldb f => f
  | .ests f | .este f | .estsr f | .epop f | .epopr f | .estsa f => f
  | _ => default

/-- Operations on a ring entry. -/
def edgeRing (i : Instr) : Bool := match i with | .eldwr _ | .eldnr _ | .estsr _ | .epopr _ => true | _ => false

/-- Drain pops. -/
def edgePop (i : Instr) : Bool := match i with | .epop _ | .epopr _ => true | _ => false

/-- The east egress; the other egress stores are at the south. -/
def edgeEast (i : Instr) : Bool := match i with | .este _ => true | _ => false

/-- The north ingress (R195). -/
def edgeNorth (i : Instr) : Bool :=
  match i with
  | .eldn _ | .eldnr _ | .ews _ => true
  | .eldt f | .eldb f => f.rows == 1
  | _ => false

/-- Segments an LD operation reads, or a ST operation writes. -/
def edgeSegs (i : Instr) : Nat := match i with | .eldb _ => 1 | _ => 32

/-- BASE. -/
def EdgeInst.base (e : EdgeInst) : Nat := field e.p0 0 32
/-- PITCH, or RPITCH of `ewin`. -/
def EdgeInst.pitch (e : EdgeInst) : Nat := field e.p0 32 32
/-- CSTR. -/
def EdgeInst.cstr (e : EdgeInst) : Nat := match e.op with | .ewin _ => field e.p3 0 32 | _ => field e.p1 0 32
/-- SBASE. -/
def EdgeInst.sbase (e : EdgeInst) : Nat := field e.p1 32 32

/-- cp·j·CSTR (R48). -/
def EdgeInst.chainOff (e : EdgeInst) (j : Nat) : Nat := (edgeFmt e.op).cp * j * e.cstr

/-- o_i at position j (R194): an exact integer. -/
def EdgeInst.off (e : EdgeInst) (j i : Nat) : Nat := 128 * (edgeFmt e.op).imm + i * e.pitch + e.chainOff j

/-- Logical address of offset `o`. -/
def EdgeInst.at_ (e : EdgeInst) (o : Nat) : Nat := (if edgeRing e.op then e.ringEntry else e.base) + o

/-- SWZ of R184 for modes 0 to 2. -/
def swizzle (mode a : Nat) : Nat :=
  match mode with
  | 1 => a ^^^ (a / 2 ^ 16 % 512 * 2 ^ 7)
  | 2 => a - bitsAt a 7 10 * 2 ^ 7 + bitsAt a 7 5 * 2 ^ 12 + bitsAt a 12 5 * 2 ^ 7
  | _ => a

/-- The swizzle mode. -/
def EdgeInst.swz (e : EdgeInst) : Nat := (edgeFmt e.op).swz
/-- bb of R185. -/
def EdgeInst.bb (e : EdgeInst) : Nat := blockBytes (ftA e.entry)

/-- The input address of row `i` of `ewin` at position j; `none` is padding (R199). -/
def EdgeInst.tap (e : EdgeInst) (j i : Nat) : Option Nat :=
  let f := edgeFmt e.op
  let kw := field e.p2 48 8
  let ow := field e.p2 32 16
  let n := field e.p2 0 32 + i
  let y : Int := (n / ow : Nat) * field e.p1 32 4 + (f.imm / kw : Nat) * field e.p1 40 4 - field e.p1 48 8
  let x : Int := (n % ow : Nat) * field e.p1 36 4 + (f.imm % kw : Nat) * field e.p1 44 4 - field e.p1 56 8
  if 0 ≤ y ∧ y < field e.p1 16 16 ∧ 0 ≤ x ∧ x < field e.p1 0 16 then
    some (e.base + e.chainOff j + y.toNat * e.pitch + 128 * x.toNat)
  else none

/-- The physical address of a segment at offset `o` (R184, R185). -/
def EdgeInst.phys (e : EdgeInst) (o : Nat) : Nat :=
  if e.swz = 3 then e.sbase + o / e.bb else swizzle e.swz (e.at_ o)

/-- The physical address segment `i` of an LD or egress ST operation names; `none` is padding. -/
def EdgeInst.seg (e : EdgeInst) (j i : Nat) : Option Nat :=
  match e.op with
  | .ewin _ => (e.tap j i).map (swizzle e.swz)
  | .eldb _ => some (e.phys (e.off j 0))
  | _ => some (e.phys (e.off j i))

/-! ## Pieces of a store (R181, R197, R198) -/

/-- Bytes of a slot's data in the target format of `epop`: the 64-bit integer targets, which the pseudocode of R197 has and its list of element
sizes has not, take 8 bytes an element (log entry 16). -/
def popBytes (e : Word) : Nat := if isBlock (ftA e) then 8 * blockBytes (ftA e) else 256 * typeWidth (ftA e) / 8

/-- Pieces one segment performs in: data segments of a drain slot and its scales, the words of `estsa`. -/
def EdgeInst.pieces (e : EdgeInst) : Nat :=
  match e.op with
  | .epop _ | .epopr _ => popBytes e.entry / 128 + (if isBlock (ftA e.entry) then 1 else 0)
  | .estsa _ => 32
  | _ => 1

/-- Physical address and length of piece `k` of segment `i` at position j. -/
def EdgeInst.piece (e : EdgeInst) (j i k : Nat) : Nat × Nat :=
  let o := e.off j i
  match e.op with
  | .epop _ | .epopr _ =>
    if isBlock (ftA e.entry) then
      (if k < popBytes e.entry / 128 then (e.at_ o + 128 * k, 128) else (e.sbase + o / e.bb, 8))
    else (swizzle e.swz (e.at_ (o + 128 * k)), 128)
  | .estsa _ => (swizzle e.swz (e.at_ o) + 4 * k, 4)
  | _ => (e.phys o, 128)

/-! ## The instance at issue -/

/-- The edge operation of the bundle at issue: pack, format entry and ring entry as they stand. -/
def mkEdge (s : State) (i : Instr) (store : Bool) : EdgeInst :=
  let t := s.iss.t0
  let f := edgeFmt i
  let ring := t.rings.find? (fun e => e.1 == f.ring)
  { op := i, n := s.iss.n, addr := s.iss.addr, store := store, oc := f.oc, p0 := t.sReg f.pack, p1 := t.sReg (f.pack + 1),
    p2 := t.sReg (f.pack + 2), p3 := t.sReg (f.pack + 3), entry := t.fmtEntry f.fmt,
    ringEntry := (match ring with
      | some (_, r) => r.base + (if store then r.ip else r.ic).toNat % r.count * 2 ^ r.e
      | none => 0),
    dq := (match i with | .epopr _ => field (t.sReg f.pack) 0 2 | _ => f.ring % 4), row := 0, w := s.iss.fl.w }

/-- The positions that perform the bundle's edge operations (R32). -/
def State.edgePositions (s : State) : List Nat := positions s.iss.fl.pm s.iss.t0.len

/-! ## Checks (R86, R182, R185, R194 to R199) -/

/-- The slot of an edge operation. -/
def EdgeInst.source (e : EdgeInst) : Nat := if e.store then 7 else 6

/-- Pack registers. -/
def packLen (i : Instr) : Nat := match i with | .ewin _ => 4 | _ => 2

/-- Reserved fields of the slot: the ring, the format entry (R82). -/
def slotReserved (s : State) (e : EdgeInst) : List Fail :=
  let r := failSlot s e.source 1
  let a := ftA e.entry
  check (!edgeRing e.op || s.iss.t0.rings.any (fun x => x.1 == (edgeFmt e.op).ring)) r ++
  (match e.op with
    | .epop _ => check (isBlock a == (e.swz == 3)) r
    | .epopr _ => check (!isBlock a) r
    | .estsa _ => check (a == 8) r
    | _ => check (e.swz != 3 || isBlock a) r)

/-- Pack fields that must be zero (R14, R194, R199). SMODE of the format entry is no such field, and has no effect on LD and ST: R103 has
them use it, and no rule says how (log entry 48). -/
def edgeReserved (s : State) (e : EdgeInst) : List Fail :=
  let r := failSlot s e.source 1
  (match e.op with
    | .ewin _ => check (field e.p3 32 32 == 0) r
    | .epopr _ => check (decide (e.base < 4)) r
    | op => check (!edgeRing op || e.base == 0) r) ++
  (match e.op with | .ewin _ => [] | _ => check (e.swz == 3 || e.sbase == 0) r)

/-- Alignment of the pack's fields (R194). -/
def edgeAligned (e : EdgeInst) : List Fail :=
  let al (v : Nat) : List Fail := check (v % 128 == 0) (failAlign e.source v)
  (if edgeRing e.op then [] else al e.base) ++ al e.pitch ++ al e.cstr ++ (match e.op with | .ewin _ => [] | _ => al e.sbase)

/-- The range and zero checks of `ewin` (R199): the slot's field before the pack's (R385). -/
def winFails (e : EdgeInst) : List Fail :=
  let z (v : Nat) : List Fail := check (v != 0) (failRange e.source 0)
  check (decide ((edgeFmt e.op).imm < field e.p2 56 8 * field e.p2 48 8)) (failRange e.source (edgeFmt e.op).imm) ++ z (field e.p2 56 8) ++ z (field e.p2 48 8) ++ z (field e.p2 32 16) ++ z (field e.p1 44 4) ++ z (field e.p1 40 4) ++
  z (field e.p1 36 4) ++ z (field e.p1 32 4)

/-- An address range within the partition of position j's die. -/
def rangeCheck (s : State) (e : EdgeInst) (j a n : Nat) : List Fail :=
  let t := s.iss.t0
  check (if e.isWs then s.inWs t.id.ctx (t.dieAt j) a n else s.inSram t.id.ctx (t.dieAt j) a n) (failRange e.source a)

/-- A range within the claimed ring entry. -/
def entryCheck (s : State) (e : EdgeInst) (o n : Nat) : List Fail :=
  match s.iss.t0.rings.find? (fun x => x.1 == (edgeFmt e.op).ring) with
  | some (_, r) => check (!edgeRing e.op || decide (o + n ≤ 2 ^ r.e)) (failRange e.source (e.at_ o))
  | none => []

/-- A range of bytes in consecutive segments, checked one by one, the lowest first (R197, R385). -/
def segmentsCheck (s : State) (e : EdgeInst) (j o n : Nat) : List Fail :=
  (List.range (n / 128)).flatMap (fun k => entryCheck s e (o + 128 * k) 128 ++ rangeCheck s e j (e.at_ (o + 128 * k)) 128)

/-- The checks of one segment at one position. Where a block format needs o_i aligned, `$tval` holds o_i (R185; log entry 71). -/
def segFails (s : State) (e : EdgeInst) (j i : Nat) : List Fail :=
  let o := e.off j i
  match e.op with
  | .ewin _ => match e.tap j i with | some a => rangeCheck s e j a 128 | none => []
  | .epop _ | .epopr _ =>
    if isBlock (ftA e.entry) then
      check (o % (8 * e.bb) == 0) (failAlign e.source o) ++ segmentsCheck s e j o (popBytes e.entry) ++
        rangeCheck s e j (e.sbase + o / e.bb) 8
    else segmentsCheck s e j o (popBytes e.entry)
  | _ =>
    if e.swz = 3 then check (o % (128 * e.bb) == 0) (failAlign e.source o) ++ rangeCheck s e j (e.sbase + o / e.bb) 128
    else entryCheck s e o 128 ++ rangeCheck s e j (e.at_ o) 128

/-- A drain pop of an attached queue traps (R128). The queue of `epopr` stands in its pack. -/
def attachFails (s : State) (e : EdgeInst) : List Fail :=
  check (!edgePop e.op || !(s.iss.t0.dqAtt e.dq).attached) (failRange e.source e.dq)

/-- Every check of an edge operation, in the order of R385. Of a pack that runs past s63 no field is checked, the fields of the slot are
(log entry 71). -/
def edgeFails (s : State) (e : EdgeInst) : List Fail :=
  let f := edgeFmt e.op
  slotReserved s e ++
  if 64 < f.pack + packLen e.op then failRange e.source f.pack :: (match e.op with | .epop _ => attachFails s e | _ => [])
  else
    attachFails s e ++ edgeReserved s e ++ edgeAligned e ++ (match e.op with | .ewin _ => winFails e | _ => []) ++
    (if (match e.op with | .ewin _ => (winFails e).isEmpty | _ => true) then
      s.edgePositions.flatMap (fun j => (List.range (edgeSegs e.op)).flatMap (segFails s e j)) else [])

/-! ## Waits (R188, R193) -/

/-- Some segment of an `ews` would meet its bank's refresh window (R188). -/
def State.refreshHit (s : State) (e : EdgeInst) : Bool :=
  s.edgePositions.any (fun j => (List.range 32).any (fun i =>
    let ph := (s.iss.t0.ctl.now + s.skew s.iss.t0.id.head j + i + 16383) % 16384
    decide (ph % 256 < 32) && ph / 256 == e.at_ (e.off j i) / 2 ^ 25 % 64))

/-- The wait of a ring operation (R193). -/
def ringWait (t : Task) (e : EdgeInst) : Bool :=
  match t.rings.find? (fun x => x.1 == (edgeFmt e.op).ring) with
  | none => false
  | some (_, r) => if e.store then decide (r.count ≤ (r.ip - r.c).toNat) else (r.p - r.ic) == 0

/-- The waits of an edge operation. -/
def State.edgeWait (s : State) (e : EdgeInst) : State :=
  s.stallIf ((edgeRing e.op && ringWait s.iss.t0 e) || (e.isWs && s.refreshHit e))

/-! ## Commit -/

/-- Claim a ring entry with `rows`: the cursor moves, and a publication is owed (R193). -/
def State.claim (s : State) (e : EdgeInst) : State :=
  let f := edgeFmt e.op
  if edgeRing e.op && f.rows == 1 then
    s.modT (fun t =>
      match t.rings.find? (fun x => x.1 == f.ring) with
      | none => t
      | some (_, r) =>
        { t with rings := finsert t.rings f.ring (if e.store then { r with ip := r.ip + 1 } else { r with ic := r.ic + 1 }),
                 pubs := t.pubs ++ [⟨f.ring, e.store, e.n⟩] })
  else s

/-- The first row of a queue not yet popped. -/
def firstRow (l : List DrainRow) : Option DrainRow := l.find? (fun r => !r.popped)

/-- Mark the first row not yet popped. -/
def markPopped (l : List DrainRow) : List DrainRow :=
  match l with
  | [] => []
  | r :: t => if r.popped then r :: markPopped t else { r with popped := true } :: t

/-- Pop a row for a ST operation at position j (R127, R128): none left ends the context. -/
def State.popRow (s : State) (e : EdgeInst) (j : Nat) : State × Option EdgeInst :=
  let rows := (s.t.posAt j).rows e.dq
  match firstRow rows with
  | none => (s.imprecise s.t e.n e.addr false 7 10 e.dq j, none)
  | some r =>
    (s.modT (fun t => t.modPos j (fun p => { p with dq := fset p.dq [] e.dq (markPopped rows) })), some { e with row := r.n })

/-- The work of an edge operation at the position j. -/
def State.addWork (s : State) (e : EdgeInst) (j : Nat) : State :=
  match (if edgePop e.op then s.popRow e j else (s, some e)) with
  | (s, none) => s
  | (s, some e) =>
    let w : EdgeWork := ⟨e, [], [], 0⟩
    s.modT (fun t => t.modPos j (fun p => if e.store then { p with st := p.st ++ [w] } else { p with ld := p.ld ++ [w] }))

/-- λ (R40, R173). -/
def edgeLat (cls : Nat) : Nat := if cls = 1 then 4 else 6

/-- Commit an edge operation: the ring claim, the work at each position, the captures its cells owe. -/
def State.commitEdge (s : State) (e : EdgeInst) : State :=
  let s := s.edgePositions.foldl (fun s j => s.addWork e j) (s.claim e)
  let s := if !e.store && s.iss.t0.prog.hdr.latcls == 1
    then s.modT (fun t => { t with ready := t.ready ++ [(e.n + 4, t.ctl.cyc + 6)] }) else s
  if e.store && !edgePop e.op then
    s.modIss (fun q => { q with fl := if edgeEast e.op then { q.fl with capEast := true } else { q.fl with capSouth := true } })
  else s

/-- An LD or ST operation. -/
def edgeOp (s : State) (i : Instr) (store : Bool) : Res :=
  let e := mkEdge s i store
  atIssue s (edgeFails s e) (s.edgeWait e) (s.commitEdge e)

/-! ## The operations -/

/-- `nop` of LD (R85). -/
def execNopLd (s : State) : Res := atIssue s [] s s
/-- `nop` of ST (R85). -/
def execNopSt (s : State) : Res := atIssue s [] s s
/-- `eldw` (R195). -/
def execEldw (f : FmtEdge) (s : State) : Res := edgeOp s (.eldw f) false
/-- `eldn` (R195). -/
def execEldn (f : FmtEdge) (s : State) : Res := edgeOp s (.eldn f) false
/-- `eldwr` (R193, R195). -/
def execEldwr (f : FmtEdge) (s : State) : Res := edgeOp s (.eldwr f) false
/-- `eldnr` (R193, R195). -/
def execEldnr (f : FmtEdge) (s : State) : Res := edgeOp s (.eldnr f) false
/-- `ews` (R187, R188, R195). -/
def execEws (f : FmtEdge) (s : State) : Res := edgeOp s (.ews f) false
/-- `ewin` (R199). -/
def execEwin (f : FmtEdge) (s : State) : Res := edgeOp s (.ewin f) false
/-- `eldt` (R195). -/
def execEldt (f : FmtEdge) (s : State) : Res := edgeOp s (.eldt f) false
/-- `eldb` (R195). -/
def execEldb (f : FmtEdge) (s : State) : Res := edgeOp s (.eldb f) false
/-- `ests` (R196). -/
def execEsts (f : FmtEdge) (s : State) : Res := edgeOp s (.ests f) true
/-- `este` (R196). -/
def execEste (f : FmtEdge) (s : State) : Res := edgeOp s (.este f) true
/-- `estsr` (R193, R196). -/
def execEstsr (f : FmtEdge) (s : State) : Res := edgeOp s (.estsr f) true
/-- `epop` (R127, R128, R197). -/
def execEpop (f : FmtEdge) (s : State) : Res := edgeOp s (.epop f) true
/-- `epopr` (R127, R128, R193, R197). -/
def execEpopr (f : FmtEdge) (s : State) : Res := edgeOp s (.epopr f) true
/-- `estsa` (R198). -/
def execEstsa (f : FmtEdge) (s : State) : Res := edgeOp s (.estsa f) true

end Sys2Proof.Machine
end

