-- ==== Sys2Proof/Machine/StoreErr.lean ====
section
/-! DEFINITION. Sys2Proof/Machine/StoreErr.lean: errors in the arrays' own storage (R354, R355; log entry 25): what an operation reads of
a cell's registers, tiles and SRAM or of the sequencer's state, and what a read that meets an error does. -/
namespace Sys2Proof.Machine

/-! ## Held results and errors -/

/-- A held result writes `x`. -/
def CHeld.isX (h : CHeld) : Bool := match h.dst with | .x => true | _ => false

/-- The storage a held result lands in. -/
def CHeld.place (h : CHeld) : CellPlace := match h.dst with | .v i => .v i | .p i => .p i | .x => .x 0

/-- The landing of a held result ends an error: it fills the word, or the error was in the holding buffer (R355). -/
def CHeld.clears (h : CHeld) (e : CellErr) : Bool :=
  e.place == .held h.due h.dst || (e.place == h.place && h.mask.extractLsb' (64 * e.word) 64 == BitVec.allOnes 64)

/-! ## What an operation reads of cells -/

/-- Bits of a cell's storage from bit `lo` of a place on, by the cell's number. -/
structure Touch where
  key : Nat
  place : CellPlace
  lo : Nat
  len : Nat
  deriving DecidableEq, Repr, Inhabited

/-- The error lies among bits that are read. -/
def CellErr.meets (e : CellErr) (t : Touch) : Bool := e.place == t.place && decide (64 * e.word < t.lo + t.len ∧ t.lo < 64 * e.word + 64)

/-- The number of the executing cell. -/
def CellRun.key (c : CellRun) : Nat := 1024 * c.pos + 32 * c.row + c.col

/-- The storage behind a vector name in the executing cell. -/
def Task.nameTouch (t : Task) (c : CellRun) (n lo len : Nat) : List Touch :=
  let z (k : Nat) : Cell := fget t.cells default k
  if n < 1536 then [⟨c.key, .v (renameV c.fl.rotsz c.fl.rotbase n), lo, len⟩]
  else if n = 2040 then [⟨c.key, .x 0, lo, len⟩]
  else if n = 2041 ∧ 0 < c.row then [⟨c.key - 32, .x ((z (c.key - 32)).n - (c.fl.n + 1)), lo, len⟩]
  else if n = 2042 ∧ c.row < 31 then [⟨c.key + 32, .x ((z (c.key + 32)).n + 1 - c.fl.n), lo, len⟩]
  else if n = 2043 ∧ c.col < 31 then [⟨c.key + 1, .x ((z (c.key + 1)).n + 1 - c.fl.n), lo, len⟩]
  else if n = 2044 ∧ 0 < c.col then [⟨c.key - 1, .x ((z (c.key - 1)).n - (c.fl.n + 1)), lo, len⟩]
  else []

/-- The storage behind a predicate; in stage mode p20 to p23 are SV's (R61). -/
def CellRun.predTouch (c : CellRun) (i : Nat) : List Touch :=
  if i = 31 ∨ (c.fl.sm ∧ 20 ≤ i) then [] else [⟨c.key, .p i, 0, 32⟩]

end Sys2Proof.Machine
namespace Sys2Proof

/-- The source of an operation of a slot of the cell part (R335). -/
def Instr.source (i : Instr) : Nat :=
  match i with
  | .vadd u _ | .vsub u _ | .vmul u _ | .vmulh u _ | .vmad u _ | .vand u _ | .vor u _ | .vxor u _ | .vshl u _ | .vshr u _ | .vsar u _ |
    .vmin u _ | .vmax u _ | .vabs u _ | .vclz u _ | .vpopc u _ | .vadds u _ | .vsubs u _ | .vcmp u _ | .vfadd u _ | .vfsub u _ |
    .vfmul u _ | .vfma u _ | .vfmin u _ | .vfmax u _ | .vfabs u _ | .vfneg u _ | .vfcmp u _ | .vfclass u _ | .vrcp u _ | .vrsq u _ |
    .vsqrt u _ | .vexp2 u _ | .vlog2 u _ | .vtanh u _ | .vcvt u _ | .vcvti u _ | .vcvtf u _ | .vpack u _ | .vmxs u _ | .vunpk u _ |
    .vcmpr u _ | .vmov u _ | .vmovi u _ | .vsel u _ | .vperm u _ | .vshuf u _ | .vbcast u _ | .vred u _ | .vcoord u _ | .pand u _ |
    .por u _ | .pxor u _ | .pnot u _ | .pset u _ | .pflag u _ => u.slot.source
  | .mma _ | .mmas _ | .mmaz _ | .aclr _ | .ald _ | .ast _ | .adrn _ | .ascl _ | .aadd _ => 2
  | _ => 5

end Sys2Proof
namespace Sys2Proof.Machine

/-- Names a V operation reads, whether over the whole register, and predicates apart from its own. -/
def vReads (i : Instr) : Option (FmtV × List Nat × Bool × List Nat) :=
  match i with
  | .vadd _ f | .vsub _ f | .vmul _ f | .vmulh _ f | .vand _ f | .vor _ f | .vxor _ f | .vshl _ f | .vshr _ f | .vsar _ f | .vmin _ f |
    .vmax _ f | .vadds _ f | .vsubs _ f | .vcmp _ f | .vfadd _ f | .vfsub _ f | .vfmul _ f | .vfmin _ f | .vfmax _ f | .vfcmp _ f |
    .vsel _ f | .vperm _ f => some (f, [f.a, f.b], false, [])
  | .vshuf _ f => some (f, if f.aux < 4 then [f.a, f.b] else [f.a], false, [])
  | .vmad _ f | .vfma _ f => some (f, [f.d, f.a, f.b], false, [])
  | .vabs _ f | .vclz _ f | .vpopc _ f | .vfabs _ f | .vfneg _ f | .vfclass _ f | .vrcp _ f | .vrsq _ f | .vsqrt _ f | .vexp2 _ f |
    .vlog2 _ f | .vtanh _ f | .vmov _ f | .vbcast _ f | .vred _ f => some (f, [f.a], false, [])
  | .vcvt _ f | .vcvti _ f | .vcvtf _ f | .vpack _ f | .vmxs _ f | .vunpk _ f | .vcmpr _ f => some (f, [f.a], true, [])
  | .vmovi _ f | .vcoord _ f | .pset _ f => some (f, [], false, [])
  | .pand _ f | .por _ f | .pxor _ f => some (f, [], false, [f.a, f.b])
  | .pnot _ f | .pflag _ f => some (f, [], false, [f.a])
  | _ => none

/-- Names an M operation reads, and tiles. -/
def mReads (e : Word) (i : Instr) : Option (FmtM × List (Nat × Nat × Nat) × List Nat) :=
  let sc (f : FmtM) (n : Nat) : List (Nat × Nat × Nat) := if f.scale = 2047 then [] else [(n, 0, 1024)]
  match i with
  | .mma f | .mmaz f => some (f, [(f.a, 512 * f.ah, 512), (f.b, 512 * f.bh, 512)] ++ (if readsScales e then sc f f.scale else []),
      if f.clr = 1 then [] else [f.acc])
  | .mmas f => some (f, [(f.a, 0, 1024), (f.b, 0, 1024)] ++ sc f f.scale ++ (if readsScales e then sc f (f.scale + 1) else []),
      if f.clr = 1 then [] else [f.acc])
  | .aclr f => some (f, [], [])
  | .ald f => some (f, (List.range 8).map (fun m => (f.a + m, 0, 1024)), [])
  | .ast f | .adrn f => some (f, [], [f.acc])
  | .ascl f => some (f, [(f.a, 0, 1024)], [f.acc])
  | .aadd f => some (f, [], [f.acc, f.b % 16])
  | _ => none

/-- A cell-SRAM row an X operation reads, if it is kept. -/
def CellRun.rowTouch (c : CellRun) (row lo len : Nat) : List Touch := if c.rowKept row then [⟨c.key, .row row, lo, len⟩] else []

/-- The words of a row that enabled lanes write in part (R355). -/
def CellRun.partTouch (c : CellRun) (row : Nat) (en : Word) : List Touch :=
  (List.range 16).flatMap (fun w => if en.getLsbD (2 * w) != en.getLsbD (2 * w + 1) then c.rowTouch row (64 * w) 64 else [])

/-- What an X operation reads. -/
def Task.xReads (t : Task) (c : CellRun) (i : Instr) : Option (FmtX × List Touch) :=
  match i with
  | .ldv f | .ldt f => some (f, c.rowTouch (c.rowOf f) 0 1024)
  | .ldb f => some (f, c.rowTouch (c.rowOf f) (32 * f.aux) 32)
  | .ldsp f => some (f, c.rowTouch (c.spillRow f) 0 1024)
  | .stv f => some (f, t.nameTouch c f.v 0 1024 ++ c.partTouch (c.rowOf f) (c.enX f))
  | .stsp f => some (f, t.nameTouch c f.v 0 1024 ++ c.partTouch (c.spillRow f) (c.enX f))
  | .movx f => some (f, t.nameTouch c f.v 0 1024)
  | .movxp f => some (f, t.nameTouch c (2041 + f.aux % 4) 0 1024)
  | .gthl f => some (f, t.nameTouch c (f.v + 1) 0 1024 ++ ((List.range 32).filter (fun l => (c.enX f).getLsbD l)).flatMap (fun l =>
      c.rowTouch (c.lanePlace f l).1 (32 * (c.lanePlace f l).2) 32))
  | .sctl f => some (f, t.nameTouch c f.v 0 1024 ++ t.nameTouch c (f.v + 1) 0 1024)
  | _ => none

/-- What an operation of the cell part reads, and its source (R354, R335). An M operation whose gate is 0 reads nothing else. -/
def Task.cellTouches (t : Task) (c : CellRun) (i : Instr) : Nat × List Touch :=
  match vReads i with
  | some (f, names, whole, preds) =>
    let at_ (n : Nat) : List Touch := if whole then t.nameTouch c n 0 1024 else t.nameTouch c n f.lo f.bits
    (i.source, names.flatMap at_ ++ (f.pred :: preds).flatMap c.predTouch)
  | none =>
    match mReads c.fl.entry i with
    | some (f, names, tiles) =>
      (2, c.predTouch f.pred ++ (if c.gate f then names.flatMap (fun n => t.nameTouch c n.1 n.2.1 n.2.2) ++
        tiles.map (fun a => ⟨c.key, .tile a, 0, 8192⟩) else []))
    | none =>
      match t.xReads c i with
      | some (f, l) => (5, c.predTouch f.pred ++ l)
      | none => (5, [])

/-! ## A read that meets an error in a cell -/

/-- Cell `key` of the task, where the executing cell is the one being changed. -/
def State.cellNow (s : State) (key : Nat) : Cell := if key = s.cr.key then s.cr.cell else fget s.t.cells default key

/-- Change what is wrong in a cell's storage. -/
def State.modErrs (s : State) (key : Nat) (f : List CellErr → List CellErr) : State :=
  if key = s.cr.key then s.modCr (fun c => { c with cell := { c.cell with errs := f c.cell.errs } })
  else s.modT (fun t => { t with cells := fmod t.cells default key (fun z => { z with errs := f z.errs }) })

/-- Errors among what is read, with the number of their cell. -/
def State.errsAt (s : State) (l : List Touch) : List (Nat × CellErr) :=
  (l.flatMap (fun t => ((s.cellNow t.key).errs.filter (·.meets t)).map (fun e => (t.key, e)))).eraseDups

/-- TVAL of an uncorrectable error of a cell's storage: the offset in its SRAM, else a free value (R346; log entry 25). -/
def State.errTval (s : State) (e : CellErr) : Nat :=
  match e.place with
  | .row i => 128 * i + 8 * e.word
  | _ => Config.freeTval s.free % 2 ^ 64

/-- An operation of the executing cell reads `l`: an uncorrectable error ends the context, and a correctable one is corrected and
counted (R354, R355). The answer tells whether the operation may use what it read. -/
def State.seeCell (s : State) (src : Nat) (l : List Touch) : State × Bool :=
  let hits := s.errsAt l
  let c := s.cr
  match hits.find? (fun x => x.2.hard) with
  | some x =>
    (s.endByFault s.t.id.ctx
      { s.t.faultRec (src * 16 + 11 + 2 ^ 8) (s.errTval x.2) (s.imprEpc s.t c.fl.n c.fl.addr false) (2 ^ src) with
        die := s.t.dieAt c.pos, arr := s.t.id.head + c.pos, pos := c.pos, row := c.row, col := c.col }, false)
  | none =>
    if hits.isEmpty then (s, true)
    else ((hits.foldl (fun s x => s.modErrs x.1 (·.filter (· != x.2))) s).modMem (fun m =>
      { m with fixed := fmod m.fixed 0 (s.t.dieAt c.pos) (· + hits.length) }), true)

/-- The words of its destination that a held result writes in part (R355). -/
def CHeld.parts (h : CHeld) (key : Nat) (place : CellPlace) : List Touch :=
  (List.range 16).flatMap (fun w =>
    let m := h.mask.extractLsb' (64 * w) 64
    if m = 0 ∨ m = BitVec.allOnes 64 then [] else [⟨key, place, 64 * w, 64⟩])

/-- What the landing of a held result reads: its place in the holding buffer, and the words it writes in part. -/
def CHeld.touches (h : CHeld) (key : Nat) : List Touch :=
  ⟨key, .held h.due h.dst, 0, 1024⟩ :: h.parts key h.place

/-- What the results that land as the cell opens bundle `b`, or closes it, read. -/
def Cell.landTouches (z : Cell) (key b : Nat) : List Touch :=
  (z.held.filter (fun h => decide (h.due ≤ if h.isX then b + 1 else b))).flatMap (·.touches key)

/-- The source charged with an error met as a result lands, which no slot reads: M, V0, V1 or X (log entry 25). -/
def State.landSource (s : State) : Nat := 2 + Config.freeSource s.free % 4

/-! ## What an operation reads of the sequencer's state -/

/-- What resolving a format selector reads (R82). -/
def Task.fmtPlaces (t : Task) (fmt : Nat) : List SeqPlace :=
  if fmt < 16 then [.ft fmt]
  else [.lc (bitsAt fmt 2 2), .ft (((t.lcReg (bitsAt fmt 2 2)).toNat + bitsAt fmt 0 2) % 16)]

/-- What an operation at issue reads, less its guard. -/
def Task.seqPlaces (t : Task) (i : Instr) : List SeqPlace :=
  let pk (pack n : Nat) : List SeqPlace := (List.range n).map (fun k => .s (pack + k))
  let edge (f : FmtEdge) (n : Nat) : List SeqPlace := pk f.pack n ++ t.fmtPlaces f.fmt ++ [.ring]
  let eng (f : FmtE) (n : Nat) : List SeqPlace := pk f.pack n ++ [.tok]
  match i with
  | .selection p c r => [.pm p, .cm c, .rm r]
  | .add _ f | .sub _ f | .mul _ f | .mulh _ f | .div _ f | .rem _ f | .and _ f | .or _ f | .xor _ f | .shl _ f | .shr _ f | .min _ f |
    .max _ f | .addsc _ f | .cmp _ f | .bfx _ f => [.s f.a, .s f.b]
  | .bfi _ f => [.s f.a, .s f.b, .s f.d]
  | .clz _ f | .popc _ f => [.s f.a]
  | .sel _ f => [.s f.a, .s f.b, .q]
  | .qand _ _ | .qor _ _ | .qxor _ _ | .qnot _ _ => [.q]
  | .addi _ f | .muli _ f | .andi _ f | .ori _ f | .xori _ f | .shli _ f | .shri _ f | .movh _ f | .cmpi _ f => [.s f.a]
  | .sld _ f => [.s f.base]
  | .sst _ f => [.s f.base, .s f.d]
  | .samo _ f => [.s f.base, .s f.value, .s f.d]
  | .brx f => [.s f.a]
  | .loop f => [.lc (f.a % 4)]
  | .mts f | .ftset f | .mskset f | .dset f | .semw f | .semsig f | .launch f => [.s f.a]
  | .loopi f => if f.func = 0 then [] else [.s f.a]
  | .mfs _ => [.sys]
  | .eret _ => [.sys]
  | .call _ | .ret _ => [.stack]
  | .bagg _ => [.agg]
  | .sshift _ => [.lc 0]
  | .twait _ | .tstat _ => [.tok]
  | .rwait _ | .rfree _ | .radv _ => [.ring]
  | .evpop _ => [.events]
  | .rbpop => [.random]
  | .adrn f => .attach :: t.fmtPlaces f.fmt
  | .mma f | .mmas f | .mmaz f | .ascl f | .aadd f => t.fmtPlaces f.fmt
  | .ldv f | .stv f | .ldt f | .ldsp f | .stsp f | .gthl f | .sctl f | .ldb f => if f.stride = 0 then [] else [.lc f.lcsel]
  | .ewin f => edge f 4
  | .eldw f | .eldn f | .eldwr f | .eldnr f | .ews f | .eldt f | .eldb f | .ests f | .este f | .estsr f |
    .estsa f => edge f 2
  | .epop f | .epopr f => .attach :: edge f 2
  | .dqatt f | .dqdet f => .attach :: eng f 1
  | .nmfence f => eng f 1
  | .vxget f | .vxput f | .vxadd f | .vxinv f | .vxtile f | .vxpoolInit f | .vxpoolAddt f | .vxpoolAddn f => eng f 2
  | .idec f | .pksel f => eng f 3
  | .fill f | .pkfwd f | .pkmrg f => eng f 4
  | .cpy f | .cpyp f | .wsld f | .rsc f | .agt f | .ard f | .bcs f | .nmadd f | .nmamo f | .nmgs f | .nmdot f => eng f 5
  | .cpy2 f | .cpyt f | .gthr f | .sctr f => eng f 6
  | .nmopt f | .pkbwd f => eng f 7
  | .gth2 f | .sct2 f => eng f 8
  | _ => []

/-- The guard of a sequencer operation: slot source, qp, qn. -/
def guardOf (i : Instr) : Option (Nat × Nat × Nat) :=
  match i with
  | .add u f | .sub u f | .mul u f | .mulh u f | .div u f | .rem u f | .and u f | .or u f | .xor u f | .shl u f | .shr u f | .min u f |
    .max u f | .clz u f | .popc u f | .sel u f | .addsc u f | .cmp u f | .bfx u f | .bfi u f | .qand u f | .qor u f | .qxor u f |
    .qnot u f => some (u.slot.source, f.qp, f.qn)
  | .addi u f | .muli u f | .andi u f | .ori u f | .xori u f | .shli u f | .shri u f | .movi u f | .movh u f | .cmpi u f =>
    some (u.slot.source, f.qp, f.qn)
  | .sld u f | .sst u f => some (u.slot.source, f.qp, f.qn)
  | .samo u f => some (u.slot.source, f.qp, f.qn)
  | .br f | .call f | .ret f | .brx f | .bagg f | .loop f => some (1, f.qp, f.qn)
  | .loopi f | .mfs f | .mts f | .ftset f | .mskset f | .rot f | .stage f | .fpclr f | .dset f | .trap f | .brk f | .eret f | .done f |
    .twait f | .tstat f | .rwait f | .rfree f | .radv f | .semw f | .semsig f | .bar f | .fence f | .rel f | .acq f | .launch f |
    .trig f | .evpop f => some (1, f.qp, f.qn)
  | _ => none

/-- Source and places of the sequencer's state an operation at issue reads; one whose guard is 0 reads the guard alone. -/
def Task.seqReads (t : Task) (i : Instr) : Nat × List SeqPlace :=
  match guardOf i with
  | some (src, qp, qn) =>
    (src, (if qp = 15 then [] else [SeqPlace.q]) ++ (if t.guard qp qn then t.seqPlaces i else []))
  | none =>
    (match i with
      | .selection _ _ _ => 0
      | .ewin _ | .eldw _ | .eldn _ | .eldwr _ | .eldnr _ | .ews _ | .eldt _ | .eldb _ => 6
      | .ests _ | .este _ | .estsr _ | .epop _ | .epopr _ | .estsa _ => 7
      | .ldv _ | .stv _ | .ldt _ | .ldsp _ | .stsp _ | .gthl _ | .sctl _ | .ldb _ | .rbpop | .sshift _ => 5
      | .mma _ | .mmas _ | .mmaz _ | .adrn _ | .ascl _ | .aadd _ => 2
      | _ => 8, t.seqPlaces i)

/-- The sequencer of `t` reads places for bundle `n` at `addr`, charged to a source: an uncorrectable error ends the context, and a
correctable one is corrected and counted (R354, R355). -/
def State.seeSeqAt (s : State) (t : Task) (n addr src : Nat) (l : List SeqPlace) : State × Bool :=
  let hits := t.errs.filter (fun e => l.contains e.place)
  if hits.isEmpty then (s, true)
  else if hits.any (·.hard) then (s.imprecise t n addr t.sys.tm src 11 (Config.freeTval s.free % 2 ^ 64) 0, false)
  else (s.modMem (fun m => { m with fixed := fmod m.fixed 0 t.die (· + hits.length) }), true)

/-- Errors of the places `l` are corrected. -/
def Task.fixed (t : Task) (l : List SeqPlace) : Task := { t with errs := t.errs.filter (fun e => !l.contains e.place) }

/-- The source of a read of the sequencer's state that R337 charges to no slot: SA or SB, which is open (log entry 25). -/
def State.headSource (s : State) : Nat := Config.freeSource s.free % 2

/-- As the next bundle of `t` opens, PC is read, and the results that land are read from the holding buffer; no slot reads them. -/
def State.seeLand (s : State) (t : Task) : State × Bool :=
  s.seeSeqAt t t.ctl.bcnt t.ctl.pc s.headSource
    (.pc :: (t.held.filter (·.isDue t.ctl t.sys.tm)).map (fun h => SeqPlace.held h.due h.dst))

/-- An operation of the open issue reads the sequencer's state. No error is charged to the issue of engine commands (R337). -/
def State.seeOp (s : State) (i : Instr) : State × Bool :=
  let r := s.t.seqReads i
  let x := s.seeSeqAt s.t s.iss.n s.iss.addr (if r.1 = 8 then s.headSource else r.1) r.2
  if x.2 then (x.1.modT (·.fixed r.2), true) else x

/-- The operations of a bundle read the sequencer's state (R354, R355): false where one of them may not be performed. -/
def State.seeSeq (s : State) (l : List Instr) : State × Bool :=
  match l with
  | [] => (s, true)
  | i :: rest => let r := s.seeOp i; if r.2 then r.1.seeSeq rest else r

end Sys2Proof.Machine
end

