-- ==== Sys2Proof/Machine/Cells.lean ====
section
/-! DEFINITION. Sys2Proof/Machine/Cells.lean: CELL_EXECUTE (R23 to R42, R136): when a cell may execute its next bundle, what it
reads, and what it leaves. A cell executes a bundle once the cells its operands come from have (R27, R38): that is what the skew
of the wavefront secures. -/
namespace Sys2Proof.Machine

/-! ## Cells of a task -/

/-- The number of a cell. -/
def cellKey (j r c : Nat) : Nat := 1024 * j + 32 * r + c

/-- Cell (r, c) of position j. -/
def Task.cellAt (t : Task) (j r c : Nat) : Cell := fget t.cells default (cellKey j r c)

/-- Put a cell back. -/
def Task.setCell (t : Task) (j r c : Nat) (z : Cell) : Task := { t with cells := fset t.cells default (cellKey j r c) z }

/-- The flight of bundle `n`. -/
def Task.flight? (t : Task) (n : Nat) : Option Flight := t.flights.find? (fun fl => fl.n == n)

/-- `x` of a cell as it stood `k` bundles before its last one (R37, R38). -/
def Cell.xAgo (z : Cell) (k : Nat) : VecReg := match k with | 0 => z.x | 1 => z.h1 | _ => z.h2

/-- X(Z, b) where Z has executed b (R37). -/
def Cell.xAt (z : Cell) (b : Nat) : VecReg := z.xAgo (z.n - (b + 1))

/-- X(Z, b - 2) where Z has executed b - 2 (R38). -/
def Cell.xBack (z : Cell) (b : Nat) : VecReg := z.xAgo (z.n + 1 - b)

/-! ## When a cell may execute bundle b -/

/-- An ingress on an edge that falls due at `b` or before has not acted (R35, R40). -/
def Pos.ingressLate (p : Pos) (north : Bool) (cls b : Nat) : Bool :=
  p.ld.any (fun w => edgeNorth w.inst.op == north && decide (w.inst.n + edgeLat cls ≤ b))

/-- Everything cell (r, c) of position j reads in bundle `b` is there (R27, R38 to R41). -/
def Task.cellReady (t : Task) (j r c b : Nat) : Bool :=
  let p := t.posAt j
  let cls := t.prog.hdr.latcls
  (if r = 0 then (j == 0 || decide (b < (t.cellAt (j - 1) 31 c).n)) && !p.ingressLate true cls b
   else decide (b < (t.cellAt j (r - 1) c).n)) &&
  (if c = 0 then !p.ingressLate false cls b else decide (b < (t.cellAt j r (c - 1)).n)) &&
  (r == 31 || decide (b ≤ (t.cellAt j (r + 1) c).n + 1)) && (c == 31 || decide (b ≤ (t.cellAt j r (c + 1)).n + 1))

/-! ## What it reads -/

/-- A pseudo-cell after the ingress of its segment that has fallen due by `b` has landed (R35, R40). -/
def landEdge (v : VecReg) (l : List Ingress) (north : Bool) (seg b : Nat) : VecReg :=
  (l.filter (fun g => g.north == north && g.seg == seg && decide (g.due ≤ b))).foldl (fun _ g => g.val) v

/-- The ingress left after it has landed. -/
def keepEdge (l : List Ingress) (north : Bool) (seg b : Nat) : List Ingress :=
  l.filter (fun g => !(g.north == north && g.seg == seg && decide (g.due ≤ b)))

/-- An ingress of the segment falls due at exactly `b` (R41). -/
def dueNow (l : List Ingress) (north : Bool) (seg b : Nat) : Bool :=
  l.any (fun g => g.north == north && g.seg == seg && g.due == b)

/-- The segment of an error lands at pseudo-cell (r, c) as bundle `b` executes. -/
def EdgeErr.lands (r c b : Nat) (e : EdgeErr) : Bool :=
  decide (e.due ≤ b) && (if e.north then decide (r = 0) && e.seg == c else decide (c = 0) && e.seg == r)

/-- The edges of position j as an edge cell executes bundle `b`: due segments land, the seam's value is taken (R35, R41). -/
def Pos.arrive (p : Pos) (r c b : Nat) : Pos :=
  let p := { p with errs := p.errs.filter (fun e => !e.lands r c b) }
  let p := if r = 0 then { p with north := fset p.north 0 c (landEdge (fget p.north 0 c) p.ingress true c b),
                                  ingress := keepEdge p.ingress true c b, seam := ferase p.seam (32 * b + c) } else p
  if c = 0 then { p with west := fset p.west 0 r (landEdge (fget p.west 0 r) p.ingress false r b),
                         ingress := keepEdge p.ingress false r b } else p

/-- `xn` (R38, R39, R41). -/
def Task.xnAt (t : Task) (j r c b : Nat) : VecReg :=
  let p := t.posAt j
  if r = 0 then
    if j = 0 ∨ dueNow p.ingress true c b then landEdge (fget p.north 0 c) p.ingress true c b else fget p.seam 0 (32 * b + c)
  else (t.cellAt j (r - 1) c).xAt b

/-- `xw` (R38, R39). -/
def Task.xwAt (t : Task) (j r c b : Nat) : VecReg :=
  if c = 0 then landEdge (fget (t.posAt j).west 0 r) (t.posAt j).ingress false r b else (t.cellAt j r (c - 1)).xAt b

/-- `xs` (R38, R39). -/
def Task.xsAt (t : Task) (j r c b : Nat) : VecReg := if r = 31 then 0 else (t.cellAt j (r + 1) c).xBack b

/-- `xe` (R38, R39). -/
def Task.xeAt (t : Task) (j r c b : Nat) : VecReg := if c = 31 then 0 else (t.cellAt j r (c + 1)).xBack b

/-- A held result replaces the bits of its mask. -/
def CHeld.put (h : CHeld) (v : VecReg) : VecReg := (v &&& ~~~ h.mask) ||| (h.val &&& h.mask)

/-- A held result of a vector register or predicate lands (R35). -/
def Cell.landOne (z : Cell) (h : CHeld) : Cell :=
  match h.dst with
  | .v i => { z with v := fset z.v 0 i (h.put (fget z.v 0 i)) }
  | .p i => { z with p := fset z.p 0 i ((h.put ((fget z.p 0 i).setWidth 1024)).setWidth 32) }
  | .x => z

/-- Results due at `b` land in issue order (R34, R35), and clear the errors of the words they fill (R355). -/
def Cell.land (z : Cell) (b : Nat) : Cell :=
  let l := z.held.filter (fun h => !h.isX && decide (h.due ≤ b))
  { l.foldl Cell.landOne z with
    held := z.held.filter (fun h => h.isX || decide (b < h.due)), errs := z.errs.filter (fun e => !l.any (·.clears e)) }

/-- An error of `x` or its history after one more bundle: the history moves on, and what `l` fills is right again. -/
def CellErr.age (l : List CHeld) (e : CellErr) : List CellErr :=
  match e.place with
  | .x 0 => { e with place := .x 1 } :: (if l.any (·.clears e) then [] else [e])
  | .x 1 => [{ e with place := .x 2 }]
  | .x _ => []
  | _ => if l.any (·.clears e) then [] else [e]

/-- Writes of `x` that belong to bundle `b` are applied, later-issued last (R34, R136); the history moves on (R38). -/
def Cell.close (z : Cell) (b : Nat) : Cell :=
  let l := z.held.filter (fun h => h.isX && decide (h.due ≤ b + 1))
  { z with n := b + 1, h1 := z.x, h2 := z.h1, x := l.foldl (fun v h => h.put v) z.x,
           held := z.held.filter (fun h => !(h.isX && decide (h.due ≤ b + 1))), errs := z.errs.flatMap (CellErr.age l) }

/-- A cell acts on a bundle (R29, R30). -/
def Flight.acts (fl : Flight) (j r c : Nat) : Bool := fl.rm.getLsbD r && fl.cm.getLsbD c && decide (j < 48) && fl.pm.getLsbD j

/-- The cell as it opens bundle `fl`. -/
def Task.openCell (t : Task) (j r c : Nat) (fl : Flight) : CellRun :=
  { head := t.id.head, pos := j, row := r, col := c, acts := fl.acts j r c, xn := t.xnAt j r c fl.n, xs := t.xsAt j r c fl.n,
    xe := t.xeAt j r c fl.n, xw := t.xwAt j r c fl.n, vregs := t.prog.hdr.vregs, crows := t.prog.hdr.crows,
    spill := t.prog.hdr.spill, cls := t.prog.hdr.latcls, cell := (t.cellAt j r c).land fl.n, fl := fl }

/-! ## The cell part -/

/-- One operation of a bundle's cell part in the executing cell (R24). -/
def cellPart (i : Instr) (s : State) : Res :=
  match i with
  | .nopV u => execNopV u s
  | .vadd u f => execVadd u f s
  | .vsub u f => execVsub u f s
  | .vmul u f => execVmul u f s
  | .vmulh u f => execVmulh u f s
  | .vmad u f => execVmad u f s
  | .vand u f => execVand u f s
  | .vor u f => execVor u f s
  | .vxor u f => execVxor u f s
  | .vshl u f => execVshl u f s
  | .vshr u f => execVshr u f s
  | .vsar u f => execVsar u f s
  | .vmin u f => execVmin u f s
  | .vmax u f => execVmax u f s
  | .vabs u f => execVabs u f s
  | .vclz u f => execVclz u f s
  | .vpopc u f => execVpopc u f s
  | .vadds u f => execVadds u f s
  | .vsubs u f => execVsubs u f s
  | .vcmp u f => execVcmp u f s
  | .vfadd u f => execVfadd u f s
  | .vfsub u f => execVfsub u f s
  | .vfmul u f => execVfmul u f s
  | .vfma u f => execVfma u f s
  | .vfmin u f => execVfmin u f s
  | .vfmax u f => execVfmax u f s
  | .vfabs u f => execVfabs u f s
  | .vfneg u f => execVfneg u f s
  | .vfcmp u f => execVfcmp u f s
  | .vfclass u f => execVfclass u f s
  | .vrcp u f => execVrcp u f s
  | .vrsq u f => execVrsq u f s
  | .vsqrt u f => execVsqrt u f s
  | .vexp2 u f => execVexp2 u f s
  | .vlog2 u f => execVlog2 u f s
  | .vtanh u f => execVtanh u f s
  | .vcvt u f => execVcvt u f s
  | .vcvti u f => execVcvti u f s
  | .vcvtf u f => execVcvtf u f s
  | .vpack u f => execVpack u f s
  | .vmxs u f => execVmxs u f s
  | .vunpk u f => execVunpk u f s
  | .vcmpr u f => execVcmpr u f s
  | .vmov u f => execVmov u f s
  | .vmovi u f => execVmovi u f s
  | .vsel u f => execVsel u f s
  | .vperm u f => execVperm u f s
  | .vshuf u f => execVshuf u f s
  | .vbcast u f => execVbcast u f s
  | .vred u f => execVred u f s
  | .vcoord u f => execVcoord u f s
  | .pand u f => execPand u f s
  | .por u f => execPor u f s
  | .pxor u f => execPxor u f s
  | .pnot u f => execPnot u f s
  | .pset u f => execPset u f s
  | .pflag u f => execPflag u f s
  | .nopM => execNopM s
  | .mma f => execMma f s
  | .mmas f => execMmas f s
  | .mmaz f => execMmaz f s
  | .aclr f => execAclr f s
  | .ald f => execAld f s
  | .ast f => execAst f s
  | .adrn f => execAdrn f s
  | .ascl f => execAscl f s
  | .aadd f => execAadd f s
  | .nopX => execNopX s
  | .ldv f => execLdv f s
  | .stv f => execStv f s
  | .ldt f => execLdt f s
  | .movx f => execMovx f s
  | .movxp f => execMovxp f s
  | .ldsp f => execLdsp f s
  | .stsp f => execStsp f s
  | .gthl f => execGthl f s
  | .sctl f => execSctl f s
  | .ldb f => execLdb f s
  | _ => .next s

/-- The cell part, operation by operation; one that reads an uncorrectable error has no effect but the fault (R355). -/
def cellParts (l : List Instr) (s : State) : Res :=
  match l with
  | [] => .next s
  | i :: rest =>
    let r := s.t.cellTouches s.cr i
    let seen := s.seeCell r.1 r.2
    if seen.2 then
      match cellPart i seen.1 with
      | .next s => cellParts rest s
      | .fault e => .fault e
      | .refused e => .refused e
    else cellParts rest seen.1

/-! ## What it leaves -/

/-- The capture of an egress store of bundle `n` at one segment (R42). -/
def captureWork (n seg : Nat) (east : Bool) (v : VecReg) (w : EdgeWork) : EdgeWork :=
  if w.inst.n == n && !edgePop w.inst.op && edgeEast w.inst.op == east then { w with caps := fset w.caps 0 seg v } else w

/-- What the edges take from a cell of row 31 or column 31 that has applied bundle `n` (R41, R42). -/
def Task.leave (t : Task) (j r c n : Nat) (v : VecReg) : Task :=
  let t := if r = 31 then t.modPos j (fun p => { p with st := p.st.map (captureWork n c false v) }) else t
  let t := if c = 31 then t.modPos j (fun p => { p with st := p.st.map (captureWork n r true v) }) else t
  if r = 31 ∧ j + 1 < t.len then t.modPos (j + 1) (fun p => { p with seam := fset p.seam 0 (32 * n + c) v }) else t

/-- An egress store captures `x` of cell (r, c) after bundle `n` (R42). -/
def Task.capturesAt (t : Task) (j r c n : Nat) : Bool :=
  (t.posAt j).st.any (fun w => w.inst.n == n && !edgePop w.inst.op && if edgeEast w.inst.op then decide (c = 31) else decide (r = 31))

/-- `x` of the executing cell leaves it, for a store or over the seam: it is read (R354, R355). The answer tells whether it may. -/
def State.seeLeave (s : State) : State × Bool :=
  let c := s.cr
  if s.t.capturesAt c.pos c.row c.col c.fl.n then s.seeCell 7 [⟨c.key, .x 0, 0, 1024⟩]
  else if c.row = 31 ∧ c.pos + 1 < s.t.len then s.seeCell s.landSource [⟨c.key, .x 0, 0, 1024⟩]
  else (s, true)

/-- Close the cell: `x`, the aggregate (R43), the captures, the flags. -/
def State.closeCell (s : State) : State :=
  let c := s.cr
  let z := c.cell.close c.fl.n
  let fl := { c.fl with cells := c.fl.cells + 1,
                        any := c.fl.any || (c.fl.pflag && c.acts && z.flag),
                        all := c.fl.all && !(c.fl.pflag && c.acts && !z.flag) }
  let seen := (s.modCr (fun c => { c with cell := z })).seeLeave
  seen.1.modT (fun t =>
    let u := t.setCell c.pos c.row c.col seen.1.cr.cell
    ((if seen.2 then u.leave c.pos c.row c.col c.fl.n z.x else u).modFlight c.fl.n (fun _ => fl)).retireAll)

/-- A segment lands from an edge loader's holding buffer (R354, R355): an uncorrectable error ends the context, a correctable one is
counted. The answer tells whether it may land. -/
def State.seeIngress (s : State) (t : Task) (fl : Flight) (j r c : Nat) : State × Bool :=
  let hits := (t.posAt j).errs.filter (·.lands r c fl.n)
  if hits.isEmpty then (s, true)
  else if hits.any (·.hard) then (s.imprecise t fl.n fl.addr false 6 11 (Config.freeTval s.free % 2 ^ 64) j, false)
  else (s.modMem (fun m => { m with fixed := fmod m.fixed 0 (t.dieAt j) (· + hits.length) }), true)

/-- A cell executes its next bundle (R27): due results land, it performs the bundle's operations if it acts (R31), and `x`
moves on. A result that cannot be read ends the context, and the cell goes no further. -/
def execCellExecute (head pos row col : Nat) (s : State) : Res :=
  match s.taskAt head with
  | none => .next s
  | some t =>
    if pos < t.len ∧ row < 32 ∧ col < 32 then
      match t.flight? (t.cellAt pos row col).n with
      | none => .next s
      | some fl =>
        if t.cellReady pos row col fl.n then
          let u : State := { s with t := t, cr := { t.openCell pos row col fl with cell := t.cellAt pos row col } }
          let edge := u.seeIngress t fl pos row col
          let seen := edge.1.seeCell u.landSource ((t.cellAt pos row col).landTouches (cellKey pos row col) fl.n)
          if !edge.2 || !seen.2 then .next { seen.1 with t := default, cr := default } else
          let o : State := { seen.1 with
            t := seen.1.t.modPos pos (fun p => p.arrive row col fl.n),
            cr := { t.openCell pos row col fl with cell := seen.1.cr.cell.land fl.n }, phase := .cell }
          match cellParts (if (t.openCell pos row col fl).acts then fl.ops else []) o with
          | .next s =>
            let s := s.closeCell
            .next { s.putTask s.t with t := default, cr := default, phase := .check }
          | .fault e => .fault e
          | .refused e => .refused e
        else .next s
    else .next s

end Sys2Proof.Machine
end

