-- ==== Sys2Proof/Machine/Port.lean ====
section
/-! DEFINITION. Sys2Proof/Machine/Port.lean: the memory port of the engines (R190 to R192) and translation (R321 to R331):
buffer-table entries and page tables are read from the bytes of HBM4E that hold them. -/
namespace Sys2Proof.Machine

/-! ## Device memory and its errors (R102, R354, R355) -/

/-- `n` bytes from a device address on (R326). -/
def State.devRd (s : State) (a n : Nat) : Nat := rdNat s.mem.hbm a n

/-- Write `n` bytes from a device address on. -/
def State.devWr (s : State) (a n v : Nat) : State := s.modMem (fun m => { m with hbm := wrNat m.hbm a n v })

/-- A burst that no read can return: poisoned, or with three or more bad bytes. -/
def Mems.burstBad (m : Mems) (burst : Nat) : Bool := fget m.poison 0 burst != 0 || decide (3 ≤ fget m.err 0 burst)

/-- An event enters a scrubber's history, which keeps the last 16 (R356). -/
def ScrubHist.record (h : ScrubHist) (e : Nat × Nat × Nat) : ScrubHist :=
  { h with events := (h.events ++ [e]).drop ((h.events ++ [e]).length - 16) }

/-- Read a burst: a correctable error is corrected in place and counted, an uncorrectable one becomes poison (R354 to
R356). -/
def State.burstTouch (s : State) (burst : Nat) : State :=
  let e := fget s.mem.err 0 burst
  let stack := burst * 64 / 2 ^ 36
  let h := fget s.scrub default stack
  if e = 0 then s
  else if e ≤ 2 then
    { s.modMem (fun m => { m with err := ferase m.err burst }) with
      scrub := finsert s.scrub stack
        { h.record (burst * 64, 1, s.ram.tick) with corrected := min (h.corrected + 1) (2 ^ 32 - 1) } }
  else
    { s.modMem (fun m => { m with err := ferase m.err burst, poison := finsert m.poison burst 1 }) with
      scrub := finsert s.scrub stack
        { h.record (burst * 64, 2, s.ram.tick) with uncorrectable := min (h.uncorrectable + 1) (2 ^ 32 - 1) } }

/-! ## Buffer-table entries (R321 to R323) -/

/-- Feature bit `i` as negotiated. -/
def State.feat (s : State) (i : Nat) : Bool := s.mod.featneg.getLsbD i

/-- XFLAGS of a context, with the kinds negotiated off reading 0 (R318). -/
def State.xflag (s : State) (ctx i : Nat) : Bool := bitAt (s.ctx ctx).xflags i && s.feat i

/-- Bytes of a page (R321). -/
def pageBytes (pg : Nat) : Nat :=
  match pg % 4 with
  | 0 => 2 ^ 16
  | 1 => 2 ^ 21
  | 2 => 2 ^ 25
  | _ => 2 ^ 30

/-- Device address of entry `k`. -/
def State.entryAddr (s : State) (ctx k : Nat) : Nat := (s.ctx ctx).btbase + 256 * k

/-- The entry as its bytes say. -/
def State.rawEntry (s : State) (ctx k : Nat) : BufEntry :=
  let a := s.entryAddr ctx k
  let nstk := s.devRd (a + 0x1B) 1
  { valid := bitAt (s.devRd (a + 0x18) 1) 0, size := s.devRd a 8, ptroot := s.devRd (a + 8) 8, expmask := s.devRd (a + 0x10) 8,
    ctrl := s.devRd (a + 0x18) 1, pg := s.devRd (a + 0x19) 1 % 8, owner := s.devRd (a + 0x1A) 1 % 64, gran := s.devRd (a + 0x1C) 1,
    srcidx := s.devRd (a + 0x1E) 2, stk := (List.range nstk).map (fun i => s.devRd (a + 0x20 + i) 1), addr := a }

/-- RD. -/
def BufEntry.rd (e : BufEntry) : Bool := bitAt e.ctrl 1
/-- WR. -/
def BufEntry.wr (e : BufEntry) : Bool := bitAt e.ctrl 2
/-- MXSB. -/
def BufEntry.mxsb (e : BufEntry) : Bool := bitAt e.ctrl 3
/-- VOL. -/
def BufEntry.vol (e : BufEntry) : Bool := bitAt e.ctrl 4
/-- HOST. -/
def BufEntry.host (e : BufEntry) : Bool := bitAt e.ctrl 5
/-- IMPORT. -/
def BufEntry.imp (e : BufEntry) : Bool := bitAt e.ctrl 6
/-- REMOTE. -/
def BufEntry.remote (e : BufEntry) : Bool := bitAt e.ctrl 7
/-- Page size in bytes. -/
def BufEntry.page (e : BufEntry) : Nat := pageBytes e.pg
/-- Granule in bytes. -/
def BufEntry.granule (e : BufEntry) : Nat := 256 * 2 ^ e.gran

/-- The block of a PCIe function. -/
def State.fnb (s : State) (fn : Nat) : FnBlock := fget s.fns FnBlock.init fn

/-- Change the block of a function. -/
def State.modFn (s : State) (fn : Nat) (f : FnBlock → FnBlock) : State := { s with fns := finsert s.fns fn (f (s.fnb fn)) }

/-- A range of device addresses lies in the private extent of a context's function (R364). -/
def State.inExtent (s : State) (ctx a n : Nat) : Bool :=
  decide ((s.fnb (s.ctx ctx).fn).extBase ≤ a ∧ a + n ≤ (s.fnb (s.ctx ctx).fn).extLim)

/-- Bytes of the table PTROOT names: page-table entries, or directory entries above 2^17 pages (R326). -/
def BufEntry.tableBytes (e : BufEntry) : Nat :=
  let np := e.size / e.page
  8 * (if np ≤ 2 ^ 17 then np else (np + 2 ^ 17 - 1) / 2 ^ 17)

/-- The limits of R321, the cases of R322 and the place of the page table (R364). Reserved fields are ignored (R14). -/
def State.entryOk (s : State) (ctx k : Nat) (e : BufEntry) : Bool :=
  let a := e.addr
  decide (k < (s.ctx ctx).btcount) && e.valid &&
  decide (0 < e.size ∧ e.size % e.page = 0 ∧ e.size ≤ 2 ^ 43) &&
  decide (e.stk.length ≤ 96 ∧ e.stk.Nodup) && e.stk.all (fun n => decide (n ≤ 95)) &&
  decide (e.gran ≤ 13 ∧ e.granule ≤ e.page) &&
  (if e.host || e.imp || e.remote then e.stk.isEmpty else !e.stk.isEmpty) &&
  !(e.host && (e.mxsb || e.vol)) && !(e.imp && e.remote) &&
  s.devRd (a + 0x20 + e.stk.length) (96 - e.stk.length) == 0 && (e.vol || s.devRd (a + 0x80) 128 == 0) &&
  (if e.imp then e.ptroot == 0
   else if e.remote then decide (e.ptroot % 2 ^ 24 < 2 ^ 19 ∧ e.ptroot < 2 ^ 30)
   else decide (e.ptroot % 2 ^ 12 = 0 ∧ e.ptroot < 2 ^ 43) && s.inExtent ctx e.ptroot e.tableBytes) &&
  (e.imp || e.remote || e.srcidx == 0) &&
  (!e.imp || s.xflag ctx 0) && (!e.remote || s.xflag ctx 1) && (!e.host || s.xflag ctx 2) && (e.imp || e.owner == ctx)

/-- The entry the port uses: one that fails behaves as a buffer of size 0 (R322). -/
def State.bufEntry (s : State) (ctx k : Nat) : BufEntry :=
  let e := s.rawEntry ctx k
  if s.entryOk ctx k e then e else { e with valid := false, size := 0, ctrl := 0 }

/-- Whether an access under entry `e` of context `ctx` passes the owner check (R191 check 2, R323). -/
def State.ownerOk (s : State) (ctx : Nat) (e : BufEntry) : Bool :=
  if e.imp then
    let o := s.bufEntry e.owner e.srcidx
    o.valid && !o.imp && !o.remote && bitAt o.expmask ctx
  else true

/-- The entry whose frames, size and interleave an access uses, with the rights of both (R323). -/
def State.useEntry (s : State) (ctx k : Nat) : BufEntry :=
  let e := s.bufEntry ctx k
  if e.imp then
    let o := s.bufEntry e.owner e.srcidx
    { o with ctrl := o.ctrl % 2 + b2n (o.rd && e.rd) * 2 + b2n (o.wr && e.wr) * 4 + o.ctrl / 8 * 8 }
  else e

/-! ## Page tables (R326, R327) -/

/-- Device address of the page-table entry of page `p`; none where the directory entry has V = 0 or names a leaf table outside
the extent (R326, R364). -/
def State.pteAddr (s : State) (e : BufEntry) (p : Nat) : Option Nat :=
  if e.size / e.page ≤ 2 ^ 17 then some (e.ptroot + 8 * p)
  else
    let d := s.devRd (e.ptroot + 8 * (p / 2 ^ 17)) 8
    let leaf := bitsAt d 0 31 * 2 ^ 12
    if bitAt d 63 && s.inExtent e.owner leaf (2 ^ 20) then some (leaf + 8 * (p % 2 ^ 17)) else none

/-- The page-table entry of page `p` as memory holds it; 0, not present, where none can be reached. -/
def State.freshPte (s : State) (e : BufEntry) (p : Nat) : Nat :=
  match s.pteAddr e p with
  | some a => s.devRd a 8
  | none => 0

/-- The translation a die holds for a page, if any (R329). -/
def State.heldPte (s : State) (die ctx k p : Nat) : Option TlbEntry :=
  s.eng.tlb.find? (fun t => t.die == die && t.ctx == ctx && t.buf == k && t.page == p)

/-- The buffer-table entry an access of an engine of `die` uses: what memory holds, or, where the die still holds an older one, either
(R329, R330). -/
def State.usedEntry (s : State) (die ctx k : Nat) : BufEntry :=
  let e := s.useEntry ctx k
  match s.eng.tlb.find? (fun t => t.die == die && t.ctx == ctx && t.buf == k) with
  | some t => if t.ent = e ∨ !Config.freeStale s.free (2 ^ 64) then e else t.ent
  | none => e

/-- The entry and page-table entry an access of an engine of `die` uses: what memory holds, or, where the die still holds an
older translation, either (R330). -/
def State.pte (s : State) (die ctx k p : Nat) : BufEntry × Nat :=
  let e := s.usedEntry die ctx k
  let fresh := s.freshPte e p
  match s.heldPte die ctx k p with
  | some t => if (t.pte = fresh ∧ t.ent = e) ∨ !Config.freeStale s.free p then (e, fresh) else (t.ent, t.pte)
  | none => (e, fresh)

/-- The translation of a page enters the die's cache when it is present (R329). -/
def State.holdPte (s : State) (die ctx k p : Nat) : State :=
  let x := s.pte die ctx k p
  if bitAt x.2 63 && (s.heldPte die ctx k p).isNone then
    s.modEng (fun g => { g with tlb := g.tlb ++ [⟨die, ctx, k, p, x.2, x.1⟩] })
  else s

/-- The place in `host` of a bus address of a function, which has 64 bits (log entry 74). -/
def hostKey (fn a : Nat) : Nat := fn * 2 ^ 64 + a % 2 ^ 64

/-- Where a byte of a buffer lies. -/
inductive Loc where
  | dev (a : Nat)
  | bus (fn a : Nat)
  | zeros
  deriving DecidableEq, Repr, Inhabited

/-- Share of one page in each stack (R327). -/
def BufEntry.share (e : BufEntry) : Nat :=
  e.granule * ((e.page / e.granule + e.stk.length - 1) / e.stk.length)

/-- The frame of a page-table entry lies in range (R327) and meets no private extent (R364). -/
def State.frameOk (s : State) (e : BufEntry) (pte : Nat) : Bool :=
  let q := e.share
  let f := bitsAt pte 0 48
  e.host || (decide ((f + 1) * q ≤ 2 ^ 36) && e.stk.all (fun k => s.fns.all (fun x =>
    decide (x.2.extBase = x.2.extLim ∨ k * 2 ^ 36 + (f + 1) * q ≤ x.2.extBase ∨ x.2.extLim ≤ k * 2 ^ 36 + f * q))))

/-- The location of the byte at `off` (R327). A bus address has 64 bits: of a frame beyond them the low 64 are used, so that a function's
accesses stay in its own host memory (R324; log entry 74). -/
def BufEntry.locate (e : BufEntry) (fn pte off : Nat) : Loc :=
  if bitAt pte 61 then .zeros
  else if e.host then .bus fn ((bitsAt pte 0 48 * e.page + off % e.page) % 2 ^ 64)
  else
    let m := e.stk.length
    let g := e.granule
    let l := off % e.page / g / m
    .dev (e.stk.getD (off / g % m) 0 * 2 ^ 36 + bitsAt pte 0 48 * e.share + l * g + off % g)

/-- The location of a byte of a buffer for an engine of `die`. -/
def State.byteLoc (s : State) (die ctx k off : Nat) : Loc :=
  let e := s.usedEntry die ctx k
  let x := s.pte die ctx k (off / e.page)
  x.1.locate (s.ctx ctx).fn x.2 off

/-! ## The checks of the port (R191, R328, R355) -/

/-- A failed port check: its kind, what `$tval` of its record holds: the offset that failed, for kind 11 the device address or SRAM
offset (R346); whether source 11 is charged: an error in a page table or buffer-table entry (R355), an access over the link (R357); the
uncorrectable burst that was met. Kinds 5 and 7 are replayable. -/
structure PortErr where
  kind : Nat
  off : Nat
  sys : Bool
  burst : Option Nat
  deriving DecidableEq, Repr, Inhabited

/-- Kinds 5 and 7 go to the driver and the element may be tried again; the others end the context. -/
def PortErr.replayable (e : PortErr) : Bool := e.kind == 5 || e.kind == 7

/-- The cause code of a port failure of a source (R335, R355). -/
def PortErr.code (e : PortErr) (src : Nat) : Nat := if e.sys then 0xB0 + e.kind else 16 * src + e.kind

/-- The pages a range of bytes touches. -/
def pagesOf (page off len : Nat) : List Nat := (List.range ((off % page + len + page - 1) / page)).map (fun i => off / page + i)

/-- The aligned 64-byte pieces of a buffer a range of bytes touches, by number. -/
def piecesOf (off len : Nat) : List Nat := (List.range ((off % 64 + len + 63) / 64)).map (fun i => off / 64 + i)

/-- A piece lies wholly in a range. -/
def wholePiece (off len b : Nat) : Bool := decide (off ≤ 64 * b ∧ 64 * b + 64 ≤ off + len)

/-- The burst of HBM4E that holds piece `b` of a buffer (a granule holds whole bursts, R190). -/
def State.burstAt (s : State) (die ctx k b : Nat) : Option Nat :=
  match s.byteLoc die ctx k (64 * b) with | .dev a => some (a / 64) | _ => none

/-- Some burst among device addresses holds uncorrectable data. -/
def State.devBad (s : State) (a n : Nat) : Bool :=
  (List.range ((a % 64 + n + 63) / 64)).any (fun i => s.mem.burstBad (a / 64 + i))

/-- A read of burst `u` meets uncorrectable data; `sys` as in `PortErr`. -/
def State.burstErr (s : State) (sys : Bool) (u : Nat) : Option PortErr := if s.mem.burstBad u then some ⟨11, 64 * u, sys, some u⟩ else none

/-- The bursts that hold entry `k` of a context's buffer table, and, through an import, the owner's (R321, R323). -/
def State.entryBursts (s : State) (ctx k : Nat) : List Nat :=
  let four (a : Nat) : List Nat := (List.range 4).map (fun i => a / 64 + i)
  let e := s.rawEntry ctx k
  four (s.entryAddr ctx k) ++ (if e.imp then four (s.entryAddr e.owner e.srcidx) else [])

/-- The bursts the walk for a page reads: directory entry, page-table entry (R326). -/
def State.walkBursts (s : State) (e : BufEntry) (p : Nat) : List Nat :=
  (if e.size / e.page ≤ 2 ^ 17 then [] else [(e.ptroot + 8 * (p / 2 ^ 17)) / 64]) ++
  (match s.pteAddr e p with | some a => [a / 64] | none => [])

/-- A die holds an entry of the buffer: a translation, or the entry alone. -/
def State.holdsEntry (s : State) (die ctx k : Nat) : Bool := s.eng.tlb.any (fun t => t.die == die && t.ctx == ctx && t.buf == k)

/-- Whether an access passes the owner check (R191 check 2, R323): a die that holds an entry of the buffer has made it, and goes by
that until the invalidation. -/
def State.ownerPass (s : State) (die ctx k : Nat) : Bool := s.holdsEntry die ctx k || s.ownerOk ctx (s.bufEntry ctx k)

/-- The page under which a die holds the buffer-table entry alone. -/
def noPage : Nat := 2 ^ 64

/-- An access has passed its owner check and found no page: the die holds the entry, so that the command stays past the check until the
invalidation (R323). -/
def State.holdEntry (s : State) (die ctx k : Nat) : State :=
  if s.holdsEntry die ctx k || (s.bufEntry ctx k).remote then s
  else s.modEng (fun g => { g with tlb := g.tlb ++ [⟨die, ctx, k, noPage, 0, s.usedEntry die ctx k⟩] })

/-- The first failing check of an access of `len` bytes (R191): bounds, owner, rights, presence, discarded write; then
uncorrectable data. A write of a whole burst needs none of its old data (R355). DEDUCED: an access that cannot go over the link meets a
remote entry as a buffer of size 0 (log entry 68); an import of a remote entry fails its owner check (R323). The rule does not say whether check 4 goes before check 5 over the pages of one access or page by
page; DESIGN CHOICE: page by page (log entry 69). -/
def State.portErr (s : State) (die ctx k off len : Nat) (write : Bool) : Option PortErr :=
  let e := s.usedEntry die ctx k
  if len = 0 then none
  else match (s.entryBursts ctx k).findSome? (s.burstErr true) with
  | some b => some b
  | none =>
  if e.size < off + len ∨ (e.remote && !(s.bufEntry ctx k).imp) then some ⟨12, off, false, none⟩
  else if !s.ownerPass die ctx k || e.remote then some ⟨13, off, false, none⟩
  else if !(if write then e.wr else e.rd) then some ⟨6, off, false, none⟩
  else
    let bad := (pagesOf e.page off len).findSome? (fun p =>
      let x := s.pte die ctx k p
      let o := max off (p * e.page)
      ((s.walkBursts e p).findSome? (s.burstErr true)).or
        (if !bitAt x.2 63 || (!s.frameOk x.1 x.2 && (write || !bitAt x.2 61)) || (write && !bitAt x.2 62) then some ⟨5, o, false, none⟩
         else if write && bitAt x.2 61 then some ⟨7, o, false, none⟩
         else none))
    match bad with
    | some b => some b
    | none => (piecesOf off len).findSome? (fun b =>
        if write && wholePiece off len b then none
        else match s.burstAt die ctx k b with | some u => s.burstErr false u | none => none)

/-- One byte of a buffer. -/
def State.bufByte (s : State) (die ctx k off : Nat) : Byte :=
  match s.byteLoc die ctx k off with
  | .dev a => rdByte s.mem.hbm a
  | .bus fn a => rdByte s.mem.host (hostKey fn a)
  | .zeros => 0

/-- `n` bytes of a buffer, little-endian. -/
def State.bufRd (s : State) (die ctx k off n : Nat) : Nat :=
  match n with
  | 0 => 0
  | m + 1 => (s.bufByte die ctx k off).toNat + 256 * s.bufRd die ctx k (off + 1) m

/-- Write a byte at a location; a write that reaches a discarded page is stopped before. -/
def State.locWr (s : State) (l : Loc) (b : Byte) : State :=
  match l with
  | .dev a => s.modMem (fun m => { m with hbm := wrByte m.hbm a b, poison := ferase m.poison (a / 64) })
  | .bus fn a => s.modMem (fun m => { m with host := wrByte m.host (hostKey fn a) b })
  | .zeros => s

/-- Write `n` bytes of a buffer, little-endian. -/
def State.bufWr (s : State) (die ctx k off n v : Nat) : State :=
  match n with
  | 0 => s
  | m + 1 => (s.locWr (s.byteLoc die ctx k off) (BitVec.ofNat 8 v)).bufWr die ctx k (off + 1) m (v / 256)

/-! ## Sideband words (R102) -/

/-- The sideband word of the burst at a location. -/
def State.sbRd (s : State) (l : Loc) : Word := match l with | .dev a => fget s.mem.sb 0 (a / 64) | _ => 0

/-- Write byte `i` of a burst's sideband word. -/
def State.sbWrByte (s : State) (l : Loc) (i v : Nat) : State :=
  match l with
  | .dev a => s.modMem (fun m => { m with sb := fmod m.sb 0 (a / 64) (fun w =>
      (w &&& ~~~ (BitVec.ofNat 32 (255 * 2 ^ (8 * i)))) ||| BitVec.ofNat 32 (v % 256 * 2 ^ (8 * i))) })
  | _ => s

/-- The tables an access of a buffer reads are corrected (R354), and its translations are now held by the die (R329). -/
def State.walkTouch (s : State) (die ctx k off len : Nat) : State :=
  let e := s.usedEntry die ctx k
  let pages := pagesOf e.page off len
  let s := (s.entryBursts ctx k ++ pages.flatMap (s.walkBursts e)).foldl State.burstTouch s
  pages.foldl (fun s p => s.holdPte die ctx k p) s

/-- A failed check that met an uncorrectable burst: it is poisoned and counted (R355, R356). -/
def State.errSeen (s : State) (e : PortErr) : State := match e.burst with | some u => s.burstTouch u | none => s

/-- The tables and bursts an access read are corrected (R354), and the translations it used are held by the die (R329). -/
def State.portTouch (s : State) (die ctx k off len : Nat) : State :=
  let s := s.walkTouch die ctx k off len
  (piecesOf off len).foldl (fun s b => match s.burstAt die ctx k b with | some u => s.burstTouch u | none => s) s

/-- Zero `n` bytes from a device address on: data, sidebands, and errors of the bursts they fill (R320, R325, R355, R364). -/
def State.clearDev (s : State) (a n : Nat) : State :=
  let out (k : Nat) : Bool := !decide (a ≤ 64 * k ∧ 64 * k + 64 ≤ a + n)
  s.modMem (fun m => { m with
    hbm := wrZero m.hbm a (a + n), err := m.err.filter (fun e => out e.1), poison := m.poison.filter (fun e => out e.1),
    sb := m.sb.filter (fun e => out e.1) })

/-- A burst is written whole: its errors go (R355). -/
def State.burstFresh (s : State) (burst : Nat) : State :=
  s.modMem (fun m => { m with err := ferase m.err burst, poison := ferase m.poison burst })

/-- What a write that moves no scales does to the sideband word of a burst at a location (R102): zero in a buffer without
sidebands; 0x7F in every scale byte, under either layout, of a block of which it writes a byte. -/
def State.sbPlain (s : State) (mxsb : Bool) (l : Loc) (lo hi : Nat) : State :=
  match l with
  | .dev a =>
    if mxsb then (List.range 4).foldl (fun s i =>
      if (lo < 16 * i + 16 ∧ 16 * i < hi) ∨ (i < 2 ∧ lo < 32 * i + 32 ∧ 32 * i < hi) then s.sbWrByte l i 0x7F else s) s
    else s.modMem (fun m => { m with sb := ferase m.sb (a / 64) })
  | _ => s

/-- An engine writes `n` bytes of a buffer (R231, R329, R354, R355); `plain` writes move no scales (R102). -/
def State.bufPut (s : State) (die ctx k off n v : Nat) (plain : Bool) : State :=
  let s := s.walkTouch die ctx k off n
  let mxsb := (s.usedEntry die ctx k).mxsb
  let s := (piecesOf off n).foldl (fun s b =>
    let s := match s.burstAt die ctx k b with
      | some u => if wholePiece off n b then s.burstFresh u else s.burstTouch u
      | none => s
    if plain then s.sbPlain mxsb (s.byteLoc die ctx k (64 * b)) (off - 64 * b) (off + n - 64 * b) else s) s
  s.bufWr die ctx k off n v

/-! ## Fault records (R346, R362) -/

/-- A record as 32 little-endian bytes (R346). -/
def FaultRec.bytes (r : FaultRec) (ctx : Nat) : Nat :=
  r.cause % 2 ^ 10 + ctx % 2 ^ 8 * 2 ^ 16 + r.die % 2 ^ 8 * 2 ^ 24 + r.arr % 2 ^ 8 * 2 ^ 32 + r.pos % 2 ^ 8 * 2 ^ 40 +
  r.row % 2 ^ 8 * 2 ^ 48 + r.col % 2 ^ 8 * 2 ^ 56 + r.task % 2 ^ 32 * 2 ^ 64 + r.epc % 2 ^ 32 * 2 ^ 96 +
  r.tval % 2 ^ 64 * 2 ^ 128 + r.buf % 2 ^ 16 * 2 ^ 192 + r.fmask % 2 ^ 9 * 2 ^ 208 + r.elem % 2 ^ 32 * 2 ^ 224

/-- Write a record into a function's fault queue and signal vector 0; a full ring drops it (R360, R362). -/
def State.postRecord (s : State) (fn ctx : Nat) (r : FaultRec) : State :=
  let b := s.fnb fn
  if (b.fqtail + 2 ^ 32 - b.fqhead) % 2 ^ 32 < 2 ^ b.fqlog2 then
    (s.modMem (fun m => { m with host := wrNat m.host (hostKey fn (b.fqbase + b.fqtail % 2 ^ b.fqlog2 * 32)) 32 (r.bytes ctx) })).modFn
      fn (fun b => { b with fqtail := (b.fqtail + 1) % 2 ^ 32, msix0 := b.msix0 + 1 })
  else s.modFn fn (fun b => { b with fqdrop := min (b.fqdrop + 1) (2 ^ 64 - 1) })

/-- Report a fault to the driver of a context's function (R342). -/
def State.report (s : State) (ctx : Nat) (r : FaultRec) : State := s.postRecord (s.ctx ctx).fn ctx r

end Sys2Proof.Machine
end

