-- ==== Sys2Proof/Machine/Loader.lean ====
section
/-! DEFINITION. Sys2Proof/Machine/Loader.lean: reading and checking program headers (R64 to R66, R386), the buffers a header
requests (R325), and places for call-stack carve-outs (R168). -/
namespace Sys2Proof.Machine

/-! ## Reading a header -/

/-- What the loader reads through: `n` bytes at offset `o` of the header, little-endian. -/
abbrev HdrRead := Nat → Nat → Nat

/-- The ring table. -/
def readRings (r : HdrRead) : List RingDecl :=
  (List.range (r 0x70 2)).map (fun i => let o := r 0x78 4 + 16 * i; ⟨r o 1, r (o + 1) 1, r (o + 2) 2, r (o + 4) 4⟩)
/-- The buffer-request table. -/
def readBufs (r : HdrRead) : List BufReq :=
  (List.range (r 0x72 2)).map (fun i => let o := r 0x7C 4 + 16 * i; ⟨r o 2, r (o + 2) 1, r (o + 3) 1, r (o + 8) 8⟩)
/-- The semaphore table. -/
def readSems (r : HdrRead) : List SemDecl :=
  (List.range (r 0x74 2)).map (fun i => let o := r 0x80 4 + 8 * i; ⟨r o 2, r (o + 4) 4⟩)
/-- The wait-graph table. -/
def readWaits (r : HdrRead) : List WaitDecl :=
  (List.range (r 0x76 2)).map (fun i => let o := r 0x84 4 + 8 * i; ⟨r o 2, r (o + 2) 1, r (o + 4) 4⟩)

/-- The header as its bytes say (R64, R65). -/
def readHeader (r : HdrRead) : Header :=
  { latcls := r 8 1, chain := r 9 1, trapv := bitAt (r 0xA 2) 0, feven := bitAt (r 0xA 2) 1, vregs := r 0x10 2,
    atiles := r 0x12 1, crows := r 0x14 2, spill := r 0x16 2, codesz := r 0x18 4, stack := r 0x1C 4, trapvec := r 0x20 8,
    key := BitVec.ofNat 64 (r 0x28 8), ft := (List.range 16).map (fun i => BitVec.ofNat 32 (r (0x30 + 4 * i) 4)),
    stkbuf := r 0x8C 2, codeoff := r 0x88 4, rings := readRings r, bufs := readBufs r, sems := readSems r,
    waits := readWaits r }

/-! ## The checks of R66 -/

/-- Offset, count and entry size of the four tables. -/
def hdrTables (r : HdrRead) : List (Nat × Nat × Nat) :=
  [(r 0x78 4, r 0x70 2, 16), (r 0x7C 4, r 0x72 2, 16), (r 0x80 4, r 0x74 2, 8), (r 0x84 4, r 0x76 2, 8)]

/-- Tables: offsets, place within HSIZE, no overlap (R64). -/
def tablesOk (r : HdrRead) : Bool :=
  (hdrTables r).all (fun (o, n, z) =>
    decide (o % 16 = 0) && (if n = 0 then o == 0 else decide (0x100 ≤ o ∧ o + n * z ≤ r 6 2))) &&
  decide (((hdrTables r).filter (fun (_, n, _) => n != 0)).Pairwise (fun a b => a.1 + a.2.1 * a.2.2 ≤ b.1 ∨ b.1 + b.2.1 * b.2.2 ≤ a.1))

/-- Reserved bytes of the fixed part and of the tables are zero. -/
def reservedOk (r : HdrRead) : Bool :=
  r 0xC 4 == 0 && r 0x13 1 == 0 && r 0x8E 114 == 0 &&
  (List.range (r 0x70 2)).all (fun i => r (r 0x78 4 + 16 * i + 8) 8 == 0) &&
  (List.range (r 0x72 2)).all (fun i => r (r 0x7C 4 + 16 * i + 4) 4 == 0) &&
  (List.range (r 0x74 2)).all (fun i => r (r 0x80 4 + 8 * i + 2) 2 == 0) &&
  (List.range (r 0x76 2)).all (fun i => r (r 0x84 4 + 8 * i + 3) 1 == 0)

/-- Bytes of a ring. -/
def RingDecl.bytes (d : RingDecl) : Nat := d.count * 2 ^ d.e

/-- The limits of the fixed part (R64). -/
def fixedOk (r : HdrRead) (h : Header) : Bool :=
  r 0 4 == 0x53523234 && r 4 2 == 1 && decide (r 6 2 % 16 = 0 ∧ 256 ≤ r 6 2) && (h.latcls == 1 || h.latcls == 2) &&
  decide (1 ≤ h.chain ∧ h.chain ≤ 48) && decide (r 0xA 2 < 4) && decide (h.vregs ≤ 1536 ∧ h.atiles ≤ 16) &&
  decide (h.crows ≤ 2048 ∧ h.crows + h.spill ≤ 2048) && decide (1 ≤ h.codesz) &&
  decide (h.stack % 128 = 0 ∧ h.stack ≤ 2 ^ 20) && (if h.trapv then decide (h.trapvec < h.codesz) else h.trapvec == 0) &&
  h.ft.all (fun e => !ftReserved e) && decide (r 0x70 2 ≤ 32 ∧ r 0x72 2 ≤ 4096 ∧ r 0x74 2 ≤ 256 ∧ r 0x76 2 ≤ 1024) &&
  decide (h.codeoff % 64 = 0 ∧ r 6 2 ≤ h.codeoff)

/-- The limits of the tables (R65). -/
def entriesOk (h : Header) : Bool :=
  h.rings.all (fun d => decide (d.num ≤ 31 ∧ 7 ≤ d.e ∧ d.e ≤ 20 ∧ d.base % 128 = 0) &&
    (List.range 13).any (fun k => d.count == 2 ^ k)) &&
  decide ((h.rings.map (·.num)).Nodup) &&
  decide (h.rings.Pairwise (fun a b => a.base + a.bytes ≤ b.base ∨ b.base + b.bytes ≤ a.base)) &&
  h.bufs.all (fun b => decide (b.index ≤ 4095 ∧ b.pgsz ≤ 3 ∧ b.kind < 16 ∧ 0 < b.size ∧ b.size % pageBytes b.pgsz = 0)) &&
  decide ((h.bufs.map (·.index)).Nodup) && h.sems.all (fun m => decide (m.sem ≤ 4095)) &&
  h.waits.all (fun w => h.sems.any (fun m => m.sem == w.sem) &&
    (if w.skind = 0 then w.signaller == 0 else decide (w.skind = 1 ∧ w.signaller ≤ 127))) &&
  (h.stack == 0 || h.stkbuf == 0xFFFF || h.bufs.any (fun b => b.index == h.stkbuf && bitAt b.kind 1))

/-- The dies on which a context's shared-SRAM partition is not empty. -/
def State.partDies (s : State) (ctx : Nat) : List Nat :=
  (List.range 24).filter (fun d => decide ((s.partOf ctx d).ssbase < (s.partOf ctx d).sslim))

/-- The highest 128-byte-aligned range of `n` bytes in a context's partition on a die that meets none of the ranges
`taken` (R168). -/
def State.carveOut (s : State) (ctx die n : Nat) (taken : List (Nat × Nat)) : Option Nat :=
  let p := s.partOf ctx die
  let ends := p.sslim :: taken.map (·.1)
  let cands := ends.filterMap (fun e => if n ≤ e then some ((e - n) / 128 * 128) else none)
  let ok := cands.filter (fun a => decide (p.ssbase ≤ a ∧ a + n ≤ p.sslim) &&
    taken.all (fun t => decide (a + n ≤ t.1 ∨ t.1 + t.2 ≤ a)))
  ok.foldl (fun m a => some (match m with | none => a | some b => max a b)) none

/-- The feature a latency class needs (R369). -/
def State.classOk (s : State) (h : Header) : Bool := h.latcls != 1 || s.feat 5

/-- The checks against the context's partition and arrays (R66, R316, R319). -/
def State.placeOk (s : State) (ctx : Nat) (h : Header) : Bool :=
  decide (h.chain ≤ (s.ctx ctx).maxarr) &&
  (s.partDies ctx).all (fun d => h.rings.all (fun g => s.inSram ctx d g.base g.bytes)) &&
  (h.stack == 0 || (s.partDies ctx).any (fun d => (s.carveOut ctx d h.stack (h.rings.map (fun g => (g.base, g.bytes)))).isSome))

/-- What loading a program gives. -/
inductive LoadResult where
  | ok (p : Program)
  | retry (e : PortErr)
  | reject
  deriving DecidableEq, Repr, Inhabited

/-- The image the loader gives back (R378, R381): of a class-1 program whose native load is requested, the rewriter's class-2 image
where every move is allowed; else the program unchanged. -/
def Program.image (p : Program) (native : Bool) : Program :=
  if native && p.hdr.latcls == 1 then
    match rewriteCode p.code (if p.hdr.trapv then some p.hdr.trapvec else none) with
    | some code => ⟨{ p.hdr with latcls := 2 }, code⟩
    | none => p
  else p

/-- Load the program whose header lies at HOFF of CBUF, through the port of the home die (R66, R386). Whether the driver requests a
native load (R378) is an input (log 72); the checks of R66 apply to the image returned. -/
def State.loadProgram (s : State) (die ctx cbuf hoff : Nat) : LoadResult :=
  let r : HdrRead := fun o n => s.bufRd die ctx cbuf (hoff + o) n
  let bad (off len : Nat) : Option LoadResult :=
    (s.portErr die ctx cbuf off len false).map (fun e => if e.kind = 5 then .retry e else .reject)
  match bad hoff 256 with
  | some x => x
  | none =>
    match bad hoff (max 256 (r 6 2)) with
    | some x => x
    | none =>
      let h := readHeader r
      let native := Config.nativeLoad s.free ctx cbuf hoff
      if fixedOk r h && tablesOk r && reservedOk r && entriesOk h && s.placeOk ctx h && (native || s.classOk h) then
        match bad (hoff + h.codeoff) (64 * h.codesz) with
        | some x => x
        | none =>
          let p := Program.image ⟨h, (List.range h.codesz).map (fun k => BitVec.ofNat 512 (r (h.codeoff + 64 * k) 64))⟩ native
          if s.classOk p.hdr then .ok p else .reject
      else .reject

/-! ## Buffers a header requests (R325) -/

/-- The interleave of buffers the loader makes (R316 IMODE). -/
def Ctx.loadStacks (c : Ctx) : List Nat :=
  match c.imode with
  | 0 => (List.range 96).filter (fun n => decide (n % 4 < 2))
  | 1 => List.range 96
  | 2 => [4 * c.idie, 4 * c.idie + 1]
  | _ => (List.range 4).map (fun k => 4 * c.idie + k)

/-- Granule exponent of buffers the loader makes: no more than the page size. -/
def loadGran (igran pg : Nat) : Nat := min igran (Nat.log2 (pageBytes pg) - 8)

/-- Kind bits of a request as CTRL: VALID, RD, WR, MXSB, VOL. -/
def reqCtrl (kind : Nat) : Nat := 1 + bitsAt kind 0 4 * 2

/-- What the entry of a request will say of its layout. -/
def State.reqEntry (s : State) (ctx : Nat) (b : BufReq) : BufEntry :=
  { (default : BufEntry) with
    size := b.size, pg := b.pgsz, gran := loadGran (s.ctx ctx).igran b.pgsz, stk := (s.ctx ctx).loadStacks }

/-- Pages, bytes of directories and bytes of page tables of a request, the tables in whole units of 4 KiB. -/
def reqTables (b : BufReq) : Nat × Nat × Nat :=
  let np := b.size / pageBytes b.pgsz
  let dirs := if np ≤ 2 ^ 17 then 0 else (np + 2 ^ 17 - 1) / 2 ^ 17
  (np, (8 * dirs + 4095) / 4096 * 4096, if dirs = 0 then (8 * np + 4095) / 4096 * 4096 else dirs * 2 ^ 20)

/-- The first of `np` frames the loader has not given out, in no private extent (R325, R364). -/
def State.framesFor (s : State) (stk : List Nat) (share np : Nat) : Option Nat :=
  let starts := (s.ram.frameNext :: (s.fns.map (fun f => f.2.extLim % 2 ^ 36)).filter (fun o => decide (s.ram.frameNext ≤ o))).map
    (fun o => (o + share - 1) / share)
  let ok := starts.filter (fun f => decide ((f + np) * share ≤ 2 ^ 36) && stk.all (fun k => s.fns.all (fun x =>
    x.2.extBase == x.2.extLim || decide (k * 2 ^ 36 + (f + np) * share ≤ x.2.extBase ∨ x.2.extLim ≤ k * 2 ^ 36 + f * share))))
  ok.foldl (fun m f => some (match m with | none => f | some g => min f g)) none

/-- Whether a request names a free entry that can be filled, or one of the same size, page size and kind. -/
def State.bufReqOk (s : State) (ctx : Nat) (b : BufReq) : Bool :=
  let e := s.rawEntry ctx b.index
  let fn := s.fnb (s.ctx ctx).fn
  let r := s.reqEntry ctx b
  let t := reqTables b
  decide (b.index < (s.ctx ctx).btcount) &&
  (if e.valid then s.entryOk ctx b.index e && !e.imp && !e.remote && !e.host && e.size == b.size && e.pg % 4 == b.pgsz &&
    e.ctrl % 32 == reqCtrl b.kind
   else decide (b.size ≤ 2 ^ 43 ∧ fn.extBase + t.2.1 + t.2.2 ≤ fn.ptNext) && (s.framesFor r.stk r.share t.1).isSome)

/-- Make the buffer of a request whose entry is free: zeroed frames, a page table at the top of what is left of the function's
private extent, and the entry. Pages are writable; the rights are those of the entry, so that a driver copy can load it (R363). -/
def State.makeBuf (s : State) (ctx : Nat) (b : BufReq) : State :=
  if (s.rawEntry ctx b.index).valid then s
  else
    let fn := s.fnb (s.ctx ctx).fn
    let e := s.reqEntry ctx b
    let t := reqTables b
    let np := t.1
    let first := (s.framesFor e.stk e.share np).getD 0
    let root := fn.ptNext - (t.2.1 + t.2.2)
    let leaf := root + t.2.1
    let pte (p : Nat) : Nat := 2 ^ 63 + 2 ^ 62 + first + p
    let s := e.stk.foldl (fun s k => s.clearDev (k * 2 ^ 36 + first * e.share) (np * e.share)) s
    let s := s.clearDev root (t.2.1 + t.2.2)
    let s := (List.range (t.2.1 / 8)).foldl (fun s d =>
      if d * 2 ^ 17 < np then s.devWr (root + 8 * d) 8 (2 ^ 63 + (leaf + d * 2 ^ 20) / 2 ^ 12) else s) s
    let s := (List.range np).foldl (fun s p => s.devWr (leaf + 8 * p) 8 (pte p)) s
    let a := s.entryAddr ctx b.index
    let s := s.devWr a 256 (b.size + root * 2 ^ 64 + reqCtrl b.kind * 2 ^ 192 + b.pgsz * 2 ^ 200 + ctx * 2 ^ 208 +
      e.stk.length * 2 ^ 216 + e.gran * 2 ^ 224)
    let s := (List.range e.stk.length).foldl (fun s i => s.devWr (a + 0x20 + i) 1 (e.stk.getD i 0)) s
    ((s.modFn (s.ctx ctx).fn (fun f => { f with ptNext := root })).modCtx ctx
      (fun x => { x with volInit := ferase x.volInit b.index })).modRam (fun m => { m with frameNext := (first + np) * e.share })

/-- Make or share the buffers of a header's requests, in order; none where one of them cannot be (R325). -/
def State.makeBufs (s : State) (ctx : Nat) (l : List BufReq) : Option State :=
  l.foldl (fun o b => o.bind (fun s => if s.bufReqOk ctx b then some (s.makeBuf ctx b) else none)) (some s)

end Sys2Proof.Machine
end

