-- ==== Sys2Proof/Machine/VolTree.lean ====
section
/-! DEFINITION. Sys2Proof/Machine/VolTree.lean: what a volume is to the rest of the machine (R273, R275, R276): its descriptor, its free lists, and what
is left of a class-6 command whose context ends (R282, R289, R344). -/
namespace Sys2Proof.Machine

/-! ## The descriptor (R273, R275) -/

/-- A volume descriptor. -/
structure VolDesc where
  root : Nat
  fmt : Nat
  ch : Nat
  mode : Nat
  ext : List Nat
  nnode : Nat
  ntile : Nat
  nodeoff : Nat
  tileoff : Nat
  nloff : Nat
  tloff : Nat
  bg : Nat
  deriving DecidableEq, Repr, Inhabited

/-- The descriptor in 128 bytes. -/
def volDesc (v : Nat) : VolDesc :=
  let at_ (off n : Nat) : Nat := bitsAt v (8 * off) (8 * n)
  ⟨at_ 0 4, at_ 4 1, at_ 5 1, at_ 6 1, [at_ 8 4, at_ 12 4, at_ 16 4], at_ 0x14 4, at_ 0x18 4, at_ 0x20 8, at_ 0x28 8, at_ 0x30 8,
    at_ 0x38 8, at_ 0x40 64⟩

/-- Which volume a context's buffer index names: through an import, the owner's. -/
def State.volKey (s : State) (ctx k : Nat) : Nat × Nat :=
  let e := s.bufEntry ctx k
  if e.imp then (e.owner, e.srcidx) else (ctx, k)

/-- The place of the counter of a free list, of its numbers, and how many it holds at most (R276). -/
def VolDesc.listOf (d : VolDesc) (node : Bool) : Nat × Nat × Nat := if node then (8, d.nloff, d.nnode) else (0, d.tloff, d.ntile)

/-- The number is pushed on a free list of a volume (R276): a list that is full drops it. -/
def State.listPush (s : State) (die ctx k : Nat) (d : VolDesc) (node : Bool) (num : Nat) : State :=
  let l := d.listOf node
  let n := s.bufRd die ctx k l.1 8
  if l.2.2 ≤ n then s else (s.bufPut die ctx k (l.2.1 + 4 * n) 4 num true).bufPut die ctx k l.1 8 (n + 1) true

/-- A command is a `vxinv` or a `vxpool` that has started and whose shoot-down has not been acknowledged by every die (R284). -/
def Cmd.shootPending (c : Cmd) : Bool := (c.opcode == 0x63 || c.opcode == 0x65) && c.st != .queued && c.st != .done

/-- A volume has a shoot-down on its way. -/
def State.shootPending (s : State) (v : Nat × Nat) : Bool :=
  s.eng.cmds.any (fun c => c.shootPending && c.vol == v)

/-- A class-6 command is abandoned: a child popped and not yet published goes back, and so do the entries a shoot-down had still to
drop. -/
def State.volAbandon (s : State) (c : Cmd) : State :=
  let k := field (c.pack.getD 0 0) 0 12
  let s := match c.vals with
    | [img, _, _, _, level, _, num] => if c.opcode / 16 = 6 then s.listPush c.die c.ctx k (volDesc img) (decide (1 < level)) num else s
    | _ => s
  if c.shootPending then s.modEng (fun g => { g with look := g.look.filter (fun e => s.volKey e.ctx e.buf != c.vol) }) else s

/-- What makes a buffer the one it is: a buffer-table entry that differs here names another (R275, R321). -/
def BufEntry.identity (e : BufEntry) : Bool × Nat × Nat × Bool × Nat × Nat × List Nat :=
  (e.valid, e.size, e.ptroot, e.vol, e.pg, e.gran, e.stk)

/-- An index of a context still names the buffer it named. -/
def State.sameBuf (old s : State) (ctx k : Nat) : Bool :=
  (old.rawEntry ctx k).identity == (s.rawEntry ctx k).identity && old.volKey ctx k == s.volKey ctx k

/-- After memory or a context's buffer table has been changed: an INIT counts only for the buffer it was made for, one whose shoot-down is
on its way among them (R275; `vals` is empty then), and an entry of a look-aside buffer stays only with its volume (R283). -/
def State.keepInits (old s : State) : State :=
  let kept (v : Nat × Nat) : Bool := old.sameBuf s v.1 v.2
  { s with
    ctxs := s.ctxs.map (fun x => (x.1, { x.2 with volInit := x.2.volInit.filter (fun m => kept (x.1, m.1)) }))
    eng := { s.eng with
      cmds := s.eng.cmds.map (fun c => if c.st == .shooting && c.opcode == 0x65 && !kept c.vol then { c with vals := [] } else c)
      look := s.eng.look.filter (fun e => kept (e.ctx, e.buf) && kept (s.volKey e.ctx e.buf)) } }

end Sys2Proof.Machine
end

