-- ==== Sys2Proof/Machine/Rambler.lean ====
section
/-! DEFINITION. Sys2Proof/Machine/Rambler.lean: the task dispatcher (R292 to R312): launch records, admission, completion of
sets, candidates, windows, binding and the order of one SCHEDULE. -/
namespace Sys2Proof.Machine

/-! ## Launch records (R294) -/

/-- A launch record read through `r` (R294). `clean`: its reserved fields, STATUS and FIDX are zero. -/
def readRecord (r : HdrRead) : LaunchRec :=
  { hoff := r 0 8, cbuf := r 8 2, dep := r 0xA 1, head := r 0xB 1, setsize := r 0xC 4, dom := BitVec.ofNat 64 (r 0x10 8),
    barn := BitVec.ofNat 64 (r 0x18 8), args := (List.range 16).map (fun i => BitVec.ofNat 64 (r (0x20 + 8 * i) 8)),
    clean := r 0xA0 4 == 0 && r 0xA4 4 == 0 && r 0xA8 88 == 0 }

/-- The limits of R294. -/
def LaunchRec.ok (l : LaunchRec) : Bool :=
  l.clean && decide (l.hoff % 256 = 0 ∧ l.dep ≤ 2 ∧ (l.head ≤ 47 ∨ l.head = 0xFF) ∧ 1 ≤ l.setsize ∧ l.setsize ≤ 2 ^ 24)

/-- A fixed placement fits the module (R295). -/
def LaunchRec.fits (l : LaunchRec) (chain : Nat) : Bool := l.head == 0xFF || decide (l.head + l.setsize * chain ≤ 48)

/-! ## What a task still has to do -/

/-- Everything a task has sent to shared SRAM and its edges has performed (R209: what a release waits for). -/
def Task.allPerformed (t : Task) : Bool := t.pstores.isEmpty && t.pos.all (fun e => e.2.ld.isEmpty && e.2.st.isEmpty)

/-- No token slot is BUSY (R307). -/
def Task.noBusy (t : Task) : Bool := t.tok.all (fun e => e.2.st != .busy)

/-- Nothing of the task is outstanding. -/
def Task.settled (t : Task) : Bool := t.allPerformed && t.noBusy

/-- A collective command whose participants have not all been accepted (R243, R311): it waits in its queue, its collective has not closed, or at LEVEL
3 its home has not matched it. -/
def State.notMatched (s : State) (c : Cmd) : Bool :=
  c.opcode / 16 == 3 && (c.st == .queued || (c.st == .running &&
    (if field (c.pack.getD 4 0) 46 2 = 3 then c.acks.headD 0 < 2
     else s.eng.colls.any (fun k => decide (k.members.length < k.np) && k.members.any (fun m => m.1 == c.id)))))

/-- Some instance of a command group is such a command. -/
def State.openCollective (s : State) (group : Nat) : Bool := s.eng.cmds.any (fun c => c.group == group && s.notMatched c)

/-- The condition of the wait a task is at still fails (R311). A barrier group's generation passes when it completes. -/
def State.stillWaits (s : State) (t : Task) : Bool :=
  match t.ctl.waiting with
  | .none => false
  | .semw n =>
    match fget? (s.ctx t.id.ctx).sems n with
    | none => false
    | some m => match m.waiters with
      | [] => false
      | w :: _ => !(w.1 == t.id.uid && decide (w.2 ≤ m.val))
  | .bar =>
    match t.ctl.arrived with
    | none => false
    | some (3, st) => st != 1 && st != 2
    | some (lvl, gen) => (s.ctx t.id.ctx).groups.any (fun g =>
        g.level == lvl && g.grp == field t.id.dom (16 * lvl) 16 && g.gen == gen)
  | .collective g => s.openCollective g

/-- A task is yieldable now (R311). -/
def State.yieldsNow (s : State) (t : Task) : Bool := t.ctl.yieldable && s.stillWaits t

/-! ## Queues and sets -/

/-- Queue `q` of a context. -/
def Ctx.queue? (c : Ctx) (q : Nat) : Option Queue := fget? c.queues q

/-- Change queue `q` of a context. -/
def State.modQueue (s : State) (ctx q : Nat) (f : Queue → Queue) : State :=
  s.modCtx ctx (fun c => match c.queue? q with | some x => { c with queues := finsert c.queues q (f x) } | none => c)

/-- The effective priority of a queue (R292). -/
def State.eprio (s : State) (ctx q : Nat) : Nat :=
  match (s.ctx ctx).queue? q with
  | some x => min x.prio (s.ctx ctx).pcap
  | none => 0

/-- Offset in its buffer of record `k` of a queue (R293). -/
def Queue.recOff (q : Queue) (k : Nat) : Nat := q.roff + 256 * (k % 2 ^ q.log2n)

/-- The launch set `id`. -/
def State.set? (s : State) (id : Nat) : Option LaunchSet := s.ram.sets.find? (fun x => x.id == id)

/-- Change a launch set. -/
def State.modSet (s : State) (id : Nat) (f : LaunchSet → LaunchSet) : State :=
  s.modRam (fun m => { m with sets := m.sets.map (fun x => if x.id == id then f x else x) })

/-- The set of record `k` of a queue while it is not complete. -/
def State.hostSet? (s : State) (ctx q k : Nat) : Option LaunchSet :=
  s.ram.sets.find? (fun x => x.ctx == ctx && x.queue == q && x.src == .host k)

/-- CMPL passes every record completed in ring order (R292). -/
def Queue.advance (q : Queue) (fuel : Nat) : Queue :=
  match fuel with
  | 0 => q
  | n + 1 =>
    if q.doneRecs.contains q.cmpl.toNat then
      Queue.advance { q with cmpl := q.cmpl + 1, doneRecs := q.doneRecs.erase q.cmpl.toNat } n
    else q

/-- Write STATUS and FIDX of a host record where its bytes can be written, as a write that moves no scales (R102), and signal vector 1
(R295, R360, R386; log entry 63). -/
def State.hostStatus (s : State) (ctx q k code fidx : Nat) : State :=
  match (s.ctx ctx).queue? q with
  | none => s
  | some x =>
    let o := x.recOff k + 0xA0
    let s := if (s.portErr x.home ctx x.rbuf o 8 true).isNone then
        (s.bufPut x.home ctx x.rbuf o 8 (code + 2 ^ 31 + fidx * 2 ^ 32) true).modFn (s.ctx ctx).fn (fun f => { f with msix1 := f.msix1 + 1 })
      else s
    s.modQueue ctx q (fun x => { x with doneRecs := x.doneRecs ++ [k] }.advance (x.doneRecs.length + 1))

/-- A set completes: STATUS is written, its wait edges leave the graph, its pool entry is freed (R295, R305, R310). -/
def State.completeSet (s : State) (l : LaunchSet) (code : Nat) : State :=
  let fidx := if code = 0 then l.rec_.setsize else if code = 1 then 0 else l.retired
  let s := match l.src with
    | .host k => s.hostStatus l.ctx l.queue k code fidx
    | .pool die a _ _ => s.sramWr die (a + 0xA0) 8 (code + 2 ^ 31 + fidx * 2 ^ 32)
  s.modRam (fun m => { m with sets := m.sets.filter (fun x => x.id != l.id), edges := m.edges.filter (fun e => e.2.1 != l.id),
                              pool := m.pool.filter (fun p => p.set != l.id) })

/-! ## Admission (R295, R310, R325) -/

/-- The wait-graph node of a set (R310). -/
def LaunchSet.node (l : LaunchSet) : Nat := match l.src with | .host _ => l.queue | .pool .. => 64 + l.queue

/-- Nodes reachable from `from_` in at most `fuel` edges. -/
def reach (edges : List (Nat × Nat)) (from_ : List Nat) (fuel : Nat) : List Nat :=
  match fuel with
  | 0 => from_
  | n + 1 =>
    let next := ((edges.filter (fun e => from_.contains e.1)).map (·.2)).filter (fun x => !from_.contains x)
    if next.isEmpty then from_ else reach edges (from_ ++ next.eraseDups) n

/-- Whether a graph holds a cycle; a self-edge is one. -/
def hasCycle (edges : List (Nat × Nat)) : Bool := edges.any (fun e => (reach edges [e.2] 128).contains e.1)

/-- The edges a set adds: (context, set, from, to). -/
def LaunchSet.newEdges (l : LaunchSet) (h : Header) : List (Nat × Nat × Nat × Nat) :=
  (h.waits.filter (fun w => w.skind == 1)).map (fun w => (l.ctx, l.id, l.node, w.signaller))

/-- The edges of a context as pairs of nodes. -/
def edgesOf (es : List (Nat × Nat × Nat × Nat)) (ctx : Nat) : List (Nat × Nat) :=
  (es.filter (fun e => e.1 == ctx)).map (fun e => (e.2.2.1, e.2.2.2))

/-- A semaphore comes to exist with the first header that declares it (R215). -/
def Ctx.declareSem (c : Ctx) (d : SemDecl) : Ctx :=
  if (fget? c.sems d.sem).isSome then c else { c with sems := finsert c.sems d.sem ⟨d.init, []⟩ }

/-- The home die of a queue. -/
def State.homeOf (s : State) (ctx q : Nat) : Nat := match (s.ctx ctx).queue? q with | some x => x.home | none => 0

/-- The record of a page Rambler finds not present (R386): replayable, no task concerned. -/
def ramblerRec (die off buf : Nat) : FaultRec := ⟨0x295, die, 0xFF, 0xFF, 0xFF, 0xFF, 2 ^ 32 - 1, 0, off, buf, 0, 0⟩

/-- A read for a queue meets a page that is not present: one record for a page, until the queue moves on or its TAIL is written
(R386). -/
def State.tellPage (s : State) (ctx q off buf : Nat) : State :=
  match (s.ctx ctx).queue? q with
  | none => s
  | some x =>
    if x.told.contains (buf, off) then s
    else (s.modQueue ctx q (fun x => { x with told := (buf, off) :: x.told })).report ctx (ramblerRec x.home off buf)

/-- The loader has read a range: what it met is corrected, or poisoned and counted (R354, R355, R386). -/
def State.loadTouch (s : State) (die ctx k off len : Nat) : State :=
  match s.portErr die ctx k off len false with
  | none => s.portTouch die ctx k off len
  | some e => s.errSeen e

/-- It has read a program: the fixed header, all of the header, the code. -/
def State.progTouch (s : State) (die ctx cbuf hoff : Nat) : State :=
  let fail (s : State) (off len : Nat) : Bool := (s.portErr die ctx cbuf off len false).isSome
  let r : HdrRead := fun o n => s.bufRd die ctx cbuf (hoff + o) n
  let h := readHeader r
  let s1 := s.loadTouch die ctx cbuf hoff 256
  if fail s hoff 256 then s1
  else
    let n := max 256 (r 6 2)
    let s2 := s1.loadTouch die ctx cbuf hoff n
    if fail s hoff n || !fixedOk r h then s2 else s2.loadTouch die ctx cbuf (hoff + h.codeoff) (64 * h.codesz)

/-- Admit a set, reject it, or leave it waiting for a page (R295, R386). -/
def State.admitSet (s0 : State) (l : LaunchSet) : State :=
  let reject (s : State) : State := s.completeSet l 1
  let s := s0.progTouch (s0.homeOf l.ctx l.queue) l.ctx l.rec_.cbuf l.rec_.hoff
  if !l.rec_.ok then reject s0
  else match s0.loadProgram (s.homeOf l.ctx l.queue) l.ctx l.rec_.cbuf l.rec_.hoff with
    | .retry e => s.tellPage l.ctx l.queue e.off l.rec_.cbuf
    | .reject => reject s
    | .ok p =>
      let es := l.newEdges p.hdr
      match s.makeBufs l.ctx p.hdr.bufs with
      | none => reject s
      | some made =>
        let s' := s.keepInits made
        if l.rec_.fits p.hdr.chain && !hasCycle (edgesOf (s.ram.edges ++ es) l.ctx) then
          let s := s'.modCtx l.ctx (fun c => p.hdr.sems.foldl Ctx.declareSem c)
          (s.modRam (fun m => { m with edges := m.edges ++ es })).modSet l.id (fun x => { x with prog := some p, age := (match l.src with | .host _ => l.age | .pool .. => s.ram.tick) })
        else reject s

/-- A set's tasks have all been dispatched. -/
def LaunchSet.allOut (l : LaunchSet) : Bool := decide (l.rec_.setsize ≤ l.next)

/-- Every task of a set has run `trig` or `done` (R296). -/
def LaunchSet.allTrig (l : LaunchSet) : Bool := (List.range l.rec_.setsize).all (fun i => l.trigd.contains i)

/-- The dependency mode of a record, bits 1:0 of DEP, is satisfied (R294, R296). -/
def State.depOk (s : State) (ctx q : Nat) (src : SetSrc) (dep_ : Nat) : Bool :=
  let dep := dep_ % 4
  match src with
  | .host k =>
    match s.hostSet? ctx q ((k + 2 ^ 32 - 1) % 2 ^ 32) with
    | none => true
    | some p => dep == 0 || dep == 3 || (dep == 2 && p.allTrig)
  | .pool _ _ ls li =>
    match s.set? ls with
    | none => true
    | some p => dep == 0 || dep == 3 || (dep == 1 && p.finished.contains li) || (dep == 2 && p.trigd.contains li)

/-- The next record of a queue, if the device may look at it now: written, and every task of the record before it
dispatched (R297). -/
def State.nextRecord (s : State) (ctx q : Nat) (x : Queue) : Option Nat :=
  if x.headc = x.tail then none
  else
    let k := x.headc.toNat
    match s.hostSet? ctx q ((k + 2 ^ 32 - 1) % 2 ^ 32) with
    | some p => if p.allOut then some k else none
    | none => some k

/-- The record a queue's HEADC names is ready (R297): readable and its dependency satisfied, or to be rejected. -/
def State.recordReady (s : State) (ctx q : Nat) (x : Queue) (k : Nat) : Bool :=
  let r : HdrRead := fun o n => s.bufRd x.home ctx x.rbuf (x.recOff k + o) n
  match s.portErr x.home ctx x.rbuf (x.recOff k) 256 false with
  | some _ => true
  | none => s.depOk ctx q (.host k) (readRecord r).dep

/-- HEADC passes a record. -/
def Queue.moveOn (q : Queue) : Queue := { q with headc := q.headc + 1, told := [], readyAt := none }

/-- The tick at which the next record of each queue became ready, mapped or not (R297), its page absent or not (log entry 63). -/
def State.noteReady (s : State) : State :=
  { s with ctxs := s.ctxs.map (fun e => (e.1, { e.2 with queues := e.2.queues.map (fun q => (q.1,
      match s.nextRecord e.1 q.1 q.2 with
      | some k => if s.recordReady e.1 q.1 q.2 k then { q.2 with readyAt := q.2.readyAt.or (some s.ram.tick) } else { q.2 with readyAt := none }
      | none => { q.2 with readyAt := none })) })) }

/-- Admit the next record of a mapped queue when it becomes ready. -/
def State.admitQueue (s : State) (ctx q : Nat) : State :=
  match (s.ctx ctx).queue? q with
  | none => s
  | some x =>
    match s.nextRecord ctx q x with
    | none => s
    | some k =>
      if x.mapped && s.recordReady ctx q x k then
        let r : HdrRead := fun o n => s.bufRd x.home ctx x.rbuf (x.recOff k + o) n
        match s.portErr x.home ctx x.rbuf (x.recOff k) 256 false with
        | some e =>
          if e.kind = 5 then s.tellPage ctx q e.off x.rbuf
          else (((s.errSeen e).modQueue ctx q (fun x => { x.moveOn with rderr := true })).hostStatus ctx q k 1 0)
        | none =>
          let l : LaunchSet := ⟨s.ram.nextSet, ctx, q, .host k, readRecord r, none, 0, [], 0, [], x.readyAt.getD s.ram.tick, none⟩
          let s' := ((s.portTouch x.home ctx x.rbuf (x.recOff k) 256).modRam (fun m => { m with sets := m.sets ++ [l], nextSet := m.nextSet + 1 })).admitSet l
          match s'.set? l.id with
          | some y => if y.prog.isSome then s'.modQueue ctx q Queue.moveOn
                      else s'.modRam (fun m => { m with sets := m.sets.filter (fun z => z.id != l.id) })
          | none => s'.modQueue ctx q Queue.moveOn
      else s

/-- Admit a pool entry when its dependency is satisfied. -/
def State.admitPool (s : State) (l : LaunchSet) : State :=
  match l.src with
  | .host _ => s
  | .pool .. => if l.prog.isNone && s.depOk l.ctx l.queue l.src l.rec_.dep then s.admitSet l else s

/-! ## Candidates and windows (R297 to R301) -/

/-- A candidate: kind 0 pre-empted task (key: its number), 1 host record or 2 pool entry (key: the set). -/
structure Cand where
  kind : Nat
  key : Nat
  ctx : Nat
  queue : Nat
  eprio : Nat
  age : Nat
  idx : Nat
  len : Nat
  fixed : Option Nat
  stack : Nat
  img : Nat
  rings : List RingDecl
  deriving DecidableEq, Repr, Inhabited

/-- ISZ of a program (R349). -/
def Header.imageSize (h : Header) : Nat :=
  let cb := 128 * h.vregs + 512 + 1024 * h.atiles + 4096 + 128 * (h.crows + h.spill)
  (0x8000 + h.chain * (0x110000 + 1024 * cb) + 4095) / 4096 * 4096

/-- A queue of a context is mapped. -/
def State.isMapped (s : State) (ctx q : Nat) : Bool := match (s.ctx ctx).queue? q with | some x => x.mapped | none => false

/-- The candidate a pre-empted task is. A task of a host record waits while its queue is unmapped (R312). -/
def State.candTask (s : State) (t : Task) : Option Cand :=
  let l? := s.set? t.id.set
  if t.ctl.bound || t.ctl.halted || (s.ctx t.id.ctx).ffault.isSome || (!t.id.poolSet && !s.isMapped t.id.ctx t.id.queue) then none
  else some ⟨0, t.id.uid, t.id.ctx, t.id.queue, t.id.eprio, (match l? with | some l => l.age | none => t.ctl.age), t.id.idx, t.len,
    some t.id.head, 0, t.prog.hdr.imageSize, []⟩

/-- The candidate a set is: it offers its next index, at most 255 ahead of its retired tasks (R297, R303). -/
def State.candSet (s : State) (l : LaunchSet) : Option Cand :=
  match l.prog with
  | none => none
  | some p =>
    let kind := match l.src with | .host _ => 1 | .pool .. => 2
    if l.allOut || decide (l.retired + 256 ≤ l.next) || (kind == 1 && !s.isMapped l.ctx l.queue) ||
        (s.ctx l.ctx).ffault.isSome then none
    else some ⟨kind, l.id, l.ctx, l.queue, s.eprio l.ctx l.queue, l.age, l.next, p.hdr.chain,
      (if l.rec_.head = 0xFF then none else some (l.rec_.head + l.next * p.hdr.chain)), p.hdr.stack, p.hdr.imageSize, p.hdr.rings⟩

/-- Every candidate that offers a task. -/
def State.cands (s : State) : List Cand :=
  s.tasks.filterMap (fun e => s.candTask e.2) ++ s.ram.sets.filterMap (fun l => s.candSet l)

/-- Position of a queue after RR in the round-robin order (R298). -/
def rrPos (rr : Option (Nat × Nat)) (ctx q : Nat) : Nat :=
  match rr with
  | none => ctx * 64 + q
  | some (c, k) => (ctx * 64 + q + 4095 - (c * 64 + k)) % 4096

/-- The rank of a candidate: a smaller list goes first (R298). -/
def State.rank (s : State) (c : Cand) : List Nat :=
  [3 - c.eprio, c.age, rrPos (fget? s.ram.rr c.eprio) c.ctx c.queue, c.kind, if c.kind = 0 then c.age else c.key, c.idx]

/-- Lexicographic order of equally long lists. -/
def lexLe (a b : List Nat) : Bool :=
  match a, b with
  | x :: s, y :: t => decide (x < y) || (x == y && lexLe s t)
  | _, _ => true

/-- Insert by key. -/
def insertBy {α : Type} (key : α → List Nat) (c : α) (l : List α) : List α :=
  match l with
  | [] => [c]
  | d :: t => if lexLe (key c) (key d) then c :: d :: t else d :: insertBy key c t

/-- Candidates in the order of R298. -/
def State.ordered (s : State) : List Cand := s.cands.foldr (insertBy s.rank) []

/-- A task is bound to an array. -/
def Task.holds (t : Task) (a : Nat) : Bool := t.ctl.bound && decide (t.id.head ≤ a ∧ a < t.id.head + t.len)

/-- A task is bound to an array of a window. -/
def Task.holdsIn (t : Task) (a len : Nat) : Bool := t.ctl.bound && decide (t.id.head < a + len ∧ a < t.id.head + t.len)

/-- Arrays a context holds through the tasks that `keep` keeps. -/
def State.heldArrays (s : State) (ctx : Nat) (keep : Task → Bool) : Nat :=
  (List.range 48).countP (fun a => s.tasks.any (fun e => e.2.id.ctx == ctx && keep e.2 && e.2.holds a))

/-- Device address of a context's save-table entry (R348). -/
def State.saveEntry (s : State) (ctx a : Nat) : Nat := (s.ctx ctx).savebase + 16 * a

/-- IMGCAP of an entry of a context's save table; a range that leaves its stack counts as 0 (R348). -/
def State.imgCap (s : State) (ctx a : Nat) : Nat :=
  let e := s.saveEntry ctx a
  let addr := s.devRd e 8
  let cap := s.devRd (e + 8) 8
  if addr / 2 ^ 36 = (addr + cap - 1) / 2 ^ 36 ∧ addr ≠ 0 ∧ s.inExtent ctx addr cap = true then cap else 0

/-- Rings of every resident header of a context, and carve-outs its tasks hold on a die (R168). -/
def State.takenRanges (s : State) (ctx die : Nat) : List (Nat × Nat) :=
  (s.ram.sets.flatMap (fun l => if l.ctx == ctx then (match l.prog with | some p => p.hdr.rings.map (fun g => (g.base, g.bytes)) | none => []) else [])) ++
  (s.tasks.filterMap (fun e => if e.2.id.ctx == ctx && e.2.die == die && decide (0 < e.2.prog.hdr.stack)
    then some (e.2.id.stackBase, e.2.prog.hdr.stack) else none))

/-- A start `a` is possible for a candidate apart from who holds the arrays: its fixed head, the partitions of the dies,
the save area and the carve-out (R168, R298, R316, R348). -/
def State.startOk (s : State) (c : Cand) (a : Nat) : Bool :=
  decide (a + c.len ≤ 48) && (match c.fixed with | some h => h == a | none => true) &&
  (List.range c.len).all (fun i => decide ((s.partOf c.ctx ((a + i) / 2)).ssbase < (s.partOf c.ctx ((a + i) / 2)).sslim)) &&
  decide (c.img ≤ s.imgCap c.ctx a) &&
  (c.kind == 0 || c.stack == 0 || (s.carveOut c.ctx (a / 2) c.stack (s.takenRanges c.ctx (a / 2))).isSome)

/-- An array is reserved for another candidate. -/
def State.reservedFor (s : State) (c : Cand) (a : Nat) : Bool :=
  s.ram.resv.any (fun r => r.cand != (c.kind, c.key) && decide (r.first ≤ a ∧ a < r.first + r.len))

/-- FREEWIN (R298). -/
def State.freeWin (s : State) (c : Cand) : Option Nat :=
  (List.range 48).find? (fun a => s.startOk c a && decide (s.heldArrays c.ctx (fun _ => true) + c.len ≤ (s.ctx c.ctx).maxarr) &&
    !s.tasks.any (fun e => e.2.holdsIn a c.len) && (List.range c.len).all (fun i => !s.reservedFor c (a + i)))

/-- A task that TAKEWIN may pre-empt for a candidate (R300). -/
def State.yields (s : State) (t : Task) (c : Cand) : Bool :=
  t.ctl.running && !t.ctl.ending &&
    (decide (t.id.eprio < c.eprio) || (t.id.eprio == c.eprio && t.ctl.sliceDone) || s.yieldsNow t)

/-- TAKEWIN (R300); the arrays its context would hold besides stay within MAXARR (R316). -/
def State.takeWin (s : State) (c : Cand) : Option Nat :=
  (List.range 48).find? (fun a => s.startOk c a &&
    decide (s.heldArrays c.ctx (fun t => !t.holdsIn a c.len) + c.len ≤ (s.ctx c.ctx).maxarr) &&
    s.tasks.all (fun e => !e.2.holdsIn a c.len || s.yields e.2 c) && (List.range c.len).all (fun i => !s.reservedFor c (a + i)))

/-- Ask the tasks that hold a window to stop; each is pre-empted once its wavefront has drained (R300, R347). -/
def State.stopWindow (s : State) (a len : Nat) : State :=
  { s with tasks := s.tasks.map (fun e =>
      if e.2.holdsIn a len
      then (e.1, { e.2 with ctl := { e.2.ctl with stopReq := true } }) else e) }

/-- RESERVE (R301): the lowest window that overlaps no other reservation. -/
def State.reserve (s : State) (c : Cand) : State :=
  match (List.range 48).find? (fun a => decide (a + c.len ≤ 48) && (match c.fixed with | some h => h == a | none => true) &&
      !s.ram.resv.any (fun r => decide (r.first < a + c.len ∧ a < r.first + r.len))) with
  | none => s
  | some a => s.modRam (fun m => { m with resv := m.resv ++ [⟨(c.kind, c.key), a, c.len⟩] })

/-! ## Binding (R53, R63, R168, R299) -/

/-- A fresh task of a set on arrays from `a` on. -/
def State.newTask (s : State) (l : LaunchSet) (p : Program) (a : Nat) : Task :=
  let die := a / 2
  let h := p.hdr
  { id := { uid := s.ram.nextTask, ctx := l.ctx, set := l.id, idx := l.next, setsize := l.rec_.setsize,
            taskid := (s.ctx l.ctx).bound, head := a,
            dom := if field l.rec_.dom 16 16 = 0xFFFE
              then (l.rec_.dom &&& 0xFFFFFFFF0000FFFF) ||| BitVec.ofNat 64 (die * 2 ^ 16) else l.rec_.dom,
            barn := l.rec_.barn, eprio := s.eprio l.ctx l.queue, queue := l.queue,
            poolSet := (match l.src with | .host _ => false | .pool .. => true),
            stackBase := (s.carveOut l.ctx die h.stack (s.takenRanges l.ctx die)).getD 0 },
    prog := p,
    ctl := { (default : TaskCtl) with
      bound := true, running := true, age := l.age, sliceAt := s.ram.tick, now := s.cycle, img := s.devRd (s.saveEntry l.ctx a) 8,
      imgBound := s.devRd (s.saveEntry l.ctx a) 8 },
    r := { s := (List.range 16).foldl (fun m i => fset m 0 i (l.rec_.args.getD i 0)) [], q := [], lc := [], rm := [], cm := [],
           pm := [], ft := (List.range 16).foldl (fun m i => fset m 0 i (h.ft.getD i 0)) [] },
    sys := { (default : SysRegs) with depth := 4, feven := h.feven, il := h.latcls == 1 },
    rng := { key := h.key, n := 0, w := 0, queue := [] }, tok := [], evq := [],
    rings := h.rings.foldl (fun m g => finsert m g.num ⟨g.base, g.e, g.count, 0, 0, 0, 0⟩) [], pubs := [], dq := [],
    held := [], pstores := [], allocs := [], busy := [], ready := [], flights := [], cells := [], pos := [], errs := [] }

/-- Bind the task a candidate offers to the arrays from `a` on; its reservation ends (R298, R301). It reads the save-table entry then
(R348). `wait`: tasks of the window have to be saved first (R300). -/
def State.bind (s : State) (c : Cand) (a : Nat) (wait : Bool) : State :=
  let s := s.modRam (fun m => { m with rr := finsert m.rr c.eprio (c.ctx, c.queue), resv := m.resv.filter (fun r => r.cand != (c.kind, c.key)) })
  if c.kind = 0 then
    { s with tasks := s.tasks.map (fun e => if e.1 == c.key
        then (e.1, { e.2 with ctl := { e.2.ctl with bound := true, sliceDone := false, yieldable := false, imgBound := s.devRd (s.saveEntry c.ctx a) 8 } })
        else e) }
  else match s.set? c.key with
    | none => s
    | some l =>
      match l.prog with
      | none => s
      | some p =>
        let t := s.newTask l p a
        let s := s.putTask { t with ctl := { t.ctl with running := !wait, placed := wait } }
        let s := s.modCtx l.ctx (fun x => { x with bound := x.bound + 1 })
        let s := s.modSet l.id (fun x => { x with next := x.next + 1 })
        s.modRam (fun m => { m with nextTask := m.nextTask + 1,
                                    pool := if l.rec_.setsize ≤ l.next + 1 then m.pool.filter (fun p => p.set != l.id) else m.pool })

/-- An entry of the save table that a candidate's start would read, uncorrectable (R355). -/
def State.saveBad (s : State) (c : Cand) : Option Nat :=
  ((List.range 48).find? (fun a => (match c.fixed with | some h => h == a | none => true) &&
    decide (a + c.len ≤ 48) && s.devBad (s.saveEntry c.ctx a) 16)).map (s.saveEntry c.ctx)

/-- The record of an uncorrectable error in a context's save area (R346, R355): no task or bundle is concerned (its EPC: log entry 10). -/
def State.saveRec (s : State) (at_ : Nat) : FaultRec :=
  ⟨0x1BB, at_ / 2 ^ 38, 0xFF, 0xFF, 0xFF, 0xFF, 2 ^ 32 - 1, Config.freeEpc s.free % 2 ^ 32, at_, 0xFFFF, 0, 0⟩

/-- The tasks of a window have left it. -/
def State.windowClear (s : State) (t : Task) : Bool :=
  s.tasks.all (fun e => e.1 == t.id.uid || !e.2.ctl.running || !e.2.holdsIn t.id.head t.len)

/-- The tasks placed on windows whose saves are done start (R300). -/
def State.startPlaced (s : State) : State :=
  { s with tasks := s.tasks.map (fun e => if e.2.ctl.placed && s.windowClear e.2
      then (e.1, { e.2 with ctl := { e.2.ctl with running := true, placed := false, sliceAt := s.ram.tick, now := s.cycle } }) else e) }

/-- Place the tasks a candidate offers on free windows, or on windows it takes (R298, R300). -/
def State.place (s : State) (c : Cand) (fuel : Nat) : State :=
  match fuel with
  | 0 => s
  | n + 1 =>
    match s.freeWin c with
    | some a =>
      let s' := s.bind c a false
      if c.kind = 0 then s'
      else match s'.set? c.key with
        | none => s'
        | some l => match s'.candSet l with | some c' => s'.place c' n | none => s'
    | none =>
      match s.takeWin c with
      | some a =>
        let s' := (s.stopWindow a c.len).bind c a true
        if c.kind = 0 then s'
        else match s'.set? c.key with
          | none => s'
          | some l => match s'.candSet l with | some c' => s'.place c' n | none => s'
      | none =>
        if c.age + 1000 ≤ s.ram.tick ∧ !s.ram.resv.any (fun r => r.cand == (c.kind, c.key)) then s.reserve c else s

/-! ## Mapping queues (R312) -/

/-- Every queue of every live context: (context, number, queue). -/
def State.queues (s : State) : List (Nat × Nat × Queue) :=
  s.ctxs.flatMap (fun e => if e.2.live then e.2.queues.map (fun q => (e.1, q.1, q.2)) else [])

/-- An unmapped queue offers a task: a record that would be ready, a set it has begun, or a task pre-empted with it. -/
def State.unmappedOffers (s : State) (ctx q : Nat) (x : Queue) : Bool :=
  !x.mapped && ((match s.nextRecord ctx q x with | some k => s.recordReady ctx q x k | none => false) ||
    s.ram.sets.any (fun l => l.ctx == ctx && l.queue == q && (match l.src with | .host _ => true | .pool .. => false) &&
      l.prog.isSome && !l.allOut && decide (l.next < l.retired + 256)) ||
    s.tasks.any (fun e => e.2.id.ctx == ctx && e.2.id.queue == q && !e.2.id.poolSet && !e.2.ctl.bound && !e.2.ctl.halted))

/-- The oldest running task of a queue's host records waits long enough to yield. -/
def State.oldestYields (s : State) (ctx q : Nat) : Bool :=
  match s.tasks.find? (fun e => e.2.id.ctx == ctx && e.2.id.queue == q && !e.2.id.poolSet && e.2.ctl.running) with
  | some e => s.yieldsNow e.2
  | none => false

/-- Unmap a queue: every running task of its host records is pre-empted. -/
def State.unmap (s : State) (ctx q : Nat) : State :=
  { s.modQueue ctx q (fun x => { x with mapped := false }) with
    tasks := s.tasks.map (fun e => if e.2.id.ctx == ctx && e.2.id.queue == q && !e.2.id.poolSet && e.2.ctl.bound
      then (e.1, { e.2 with ctl := { e.2.ctl with stopReq := true } }) else e) }

/-- Mapped queues of a die. -/
def State.mappedOn (s : State) (die : Nat) : Nat := s.queues.countP (fun e => e.2.2.mapped && e.2.2.home == die)

/-- Unmap where R312 says so. -/
def State.unmapPass (s : State) : State :=
  s.queues.foldl (fun s e =>
    if e.2.2.mapped && s.oldestYields e.1 e.2.1 &&
        s.queues.any (fun d => d.2.2.home == e.2.2.home && s.unmappedOffers d.1 d.2.1 d.2.2)
    then s.unmap e.1 e.2.1 else s) s

/-- When what an unmapped queue offers became ready: the oldest of its sets that offer a task or have one to resume, or its record not yet
admitted (R297). -/
def State.offerAge (s : State) (ctx q : Nat) : Nat :=
  ((s.ram.sets.filter (fun l => l.ctx == ctx && l.queue == q && l.prog.isSome && (match l.src with | .host _ => true | .pool .. => false))).map (·.age)).foldl
    min (match (s.ctx ctx).queue? q with | some x => x.readyAt.getD s.ram.tick | none => s.ram.tick)

/-- Unmapped queues that offer a task, in the order of R298: priority, age, round robin. -/
def State.toMap (s : State) : List (Nat × Nat × Queue) :=
  let l := s.queues.filter (fun e => s.unmappedOffers e.1 e.2.1 e.2.2)
  let key (e : Nat × Nat × Queue) : List Nat :=
    let p := s.eprio e.1 e.2.1
    [3 - p, s.offerAge e.1 e.2.1, rrPos (fget? s.ram.rr p) e.1 e.2.1]
  l.foldr (insertBy key) []

/-- Map to free slots. -/
def State.mapPass (s : State) : State :=
  s.toMap.foldl (fun s e => if s.mappedOn e.2.2.home < 32 then s.modQueue e.1 e.2.1 (fun x => { x with mapped := true }) else s) s

/-! ## Ends of tasks and contexts (R303, R307, R320, R344) -/

/-- Retire finished tasks in index order (R303). -/
def LaunchSet.retire (l : LaunchSet) (fuel : Nat) : LaunchSet :=
  match fuel with
  | 0 => l
  | n + 1 => if l.finished.contains l.retired then LaunchSet.retire { l with retired := l.retired + 1 } n else l

/-- A task of a set has run `trig` (R306). -/
def State.taskTrig (s : State) (t : Task) : State :=
  s.modSet t.id.set (fun l => if l.trigd.contains t.id.idx then l else { l with trigd := l.trigd ++ [t.id.idx] })

/-- A task has run `done`: it counts as triggered, its set retires what it can, and completes with its last task (R303,
R307). -/
def State.taskDone (s : State) (t : Task) : State :=
  let s := (s.taskTrig t).modSet t.id.set (fun l =>
    { l with finished := l.finished ++ [t.id.idx] }.retire (l.finished.length + 1))
  match s.set? t.id.set with
  | none => s
  | some l => if l.rec_.setsize ≤ l.retired then s.completeSet l 0 else s

/-! ## One SCHEDULE -/

/-- Tasks whose `done` has committed and that have nothing outstanding leave their arrays (R307). -/
def State.sweep (s : State) : State :=
  (s.tasks.filter (fun e => e.2.ctl.ending && e.2.settled)).foldl
    (fun s e => ({ s with tasks := ferase s.tasks e.1 } : State).taskDone e.2) s

/-- SCHEDULE (R298): map and unmap queues, take in what has become ready, then place candidates in order. -/
def State.scheduleNow (s : State) : State :=
  let s := s.sweep.noteReady.unmapPass.mapPass
  let s := s.queues.foldl (fun s e => s.admitQueue e.1 e.2.1) s
  let s := s.ram.sets.foldl (fun s l => s.admitPool l) s
  s.startPlaced.ordered.foldl (fun s c => match s.saveBad c with
    | some at_ => (s.burstTouch (at_ / 64)).endByFault c.ctx (s.saveRec at_)
    | none => s.place c 48) s.startPlaced

/-- End a context (R320, R344): its tasks stop, its commands are abandoned, its candidates' reservations go, its sets report `code`, its queues, semaphores
and barrier groups are removed. Return-free additions already accepted stay; a host record not admitted gets no STATUS (log entry 38). -/
def State.endCtx (s : State) (ctx code : Nat) : State :=
  let own (r : Reservation) : Bool :=
    if r.cand.1 = 0 then (match fget? s.tasks r.cand.2 with | some t => t.id.ctx == ctx | none => true)
    else s.ram.sets.any (fun l => l.id == r.cand.2 && l.ctx == ctx)
  let s := s.modRam (fun m => { m with resv := m.resv.filter (fun r => !own r) })
  let s := (s.eng.cmds.filter (fun c => c.ctx == ctx)).foldl State.volAbandon s
  let s := (s.ram.sets.filter (fun l => l.ctx == ctx)).foldl (fun s l => s.completeSet l code) s
  let s := { s with tasks := s.tasks.filter (fun e => e.2.id.ctx != ctx) }
  let gone := (s.eng.cmds.filter (fun c => c.ctx == ctx)).map (·.id)
  let s := s.modEng (fun g => { g with
      cmds := g.cmds.filter (fun c => c.ctx != ctx),
      groups := g.groups.filter (fun h => (fget? s.tasks h.task).isSome || g.cmds.any (fun c => c.ctx != ctx && c.group == h.id)),
      adds := g.adds.filter (fun a => a.ctx != ctx || !a.held),
      colls := (g.colls.map (fun k => { k with members := k.members.filter (fun m => !gone.contains m.1) })).filter (fun k => !k.members.isEmpty) })
  let s := { s with out := s.out.filter (fun o => !gone.contains o.cmd || (o.answer.isNone && o.access.toModule != s.mod.modid)) }
  s.modCtx ctx (fun c => { c with
    live := false, queues := [], sems := [], groups := [], ffault := none, migs := [],
    migst := if c.migs.isEmpty then c.migst else 0 })

end Sys2Proof.Machine
end

