-- ==== Sys2Proof/Machine/Bundle.lean ====
section
/-! DEFINITION. Sys2Proof/Machine/Bundle.lean: issuing one bundle (R24, R33, R67 to R87, R161, R166, R174, R211): read its
slots, make every check, wait or commit, and close it. The meanings of its operations come from `ex`, which `step` gives
as `exec`. -/
namespace Sys2Proof.Machine

/-- Go on with the next state. -/
def resBind (r : Res) (f : State → Res) : Res :=
  match r with
  | .next s => f s
  | .fault e => .fault e
  | .refused e => .refused e

/-! ## Reading a bundle -/

/-- The slots in the order in which a bundle's operations are performed at issue: the header and cell control first, a ST
pop before the push of M (R127), SA before SB (R71); every operand is read as it stood at issue. -/
def issueOrder : List Slot := [.h, .cc, .sa, .ld, .st, .m, .v0, .v1, .x, .sb, .e]

/-- The slots in the order in which R385 prefers their bits: SA before H, X before CC. -/
def checkOrder : List Slot := [.sa, .h, .sb, .m, .v0, .v1, .x, .cc, .ld, .st, .e]

/-- The bits of a slot of a bundle with the operations they hold. -/
def slotOps (b : Bundle) (k : Slot) : Except DecErr (List Instr) :=
  match k with
  | .cc => decodeCc (slotBits b .cc)
  | k =>
    match decodeSlot k (slotBits b k) with
    | .ok i => .ok [i]
    | .error e => .error e

/-- `vxpool` names its operation in its pack, which is read at issue (R287). -/
def resolveOp (t : Task) (i : Instr) : Instr :=
  match i with
  | .vxpoolInit f =>
    match field (t.sReg f.pack) 12 2 with
    | 1 => .vxpoolAddt f
    | 2 => .vxpoolAddn f
    | _ => .vxpoolInit f
  | i => i

/-- The operations of a bundle with their slot's bits, in issue order. -/
def bundleOps (t : Task) (b : Bundle) (l : List Slot) : List (DWord × Instr) :=
  match l with
  | [] => []
  | k :: rest =>
    (match slotOps b k with
      | .ok is => is.map (fun i => (BitVec.ofNat 64 (slotBits b k), resolveOp t i))
      | .error _ => []) ++ bundleOps t b rest

/-- The failures of the decoder (R86 kinds 0 and 1). -/
def decodeFails (b : Bundle) : List Fail :=
  checkOrder.filterMap (fun k =>
    match slotOps b k with
    | .ok _ => none
    | .error e => some ⟨k.source, e.kind, BitVec.ofNat 64 (slotBits b k), false⟩)

/-- Width in bits of a V slot; a `nop` counts as 0 (R76), and a reserved width has none. -/
def vWidth (w : Nat) : Nat := if w / 2 ^ 54 = 0 ∨ bitsAt w 52 2 = 3 then 0 else 256 * 2 ^ bitsAt w 52 2

/-- Whether a slot writes `x` (R81): its bits say so, whether or not it fails decoding too (log entry 71). -/
def writesX (b : Bundle) (k : Slot) : Bool :=
  let w := slotBits b k
  match k with
  | .v0 | .v1 => decide (w / 2 ^ 54 ≠ 0) && bitsAt w 28 11 == 2040
  | .x => w / 2 ^ 42 == 4 || w / 2 ^ 42 == 5 ||
      ((w / 2 ^ 42 == 1 || w / 2 ^ 42 == 3 || w / 2 ^ 42 == 6 || w / 2 ^ 42 == 10) && bitsAt w 31 11 == 2040)
  | _ => false

/-- The checks on a bundle as a whole: V widths (R76), one writer of `x` (R81), and in trap mode no cell part, LD or ST
(R86, R340). -/
def bundleFails (b : Bundle) (tm : Bool) : List Fail :=
  let f (k : Slot) (kind : Nat) : Fail := ⟨k.source, kind, BitVec.ofNat 64 (slotBits b k), false⟩
  check (decide (vWidth (slotBits b .v0) + vWidth (slotBits b .v1) ≤ 1024)) (f .v1 1) ++
  check (!(writesX b .v0 && writesX b .v1)) (f .v1 1) ++
  check (!((writesX b .v0 || writesX b .v1) && writesX b .x)) (f .x 1) ++
  (if tm then [Slot.m, .v0, .v1, .x, .cc, .ld, .st].filterMap (fun k => if slotBits b k = 0 then none else some (f k 2)) else [])

/-- What the other checks of the bundle take from its header and cell control, whose own reserved bits may fail them: the masks (R29, R86)
and the stage shift (R61, R169). -/
def State.noteHeader (s : State) (b : Bundle) : State :=
  let h := slotBits b .h
  s.modIss (fun i => { i with
    fl := { i.fl with rm := s.t.rmReg (bitsAt h 0 4), cm := s.t.cmReg (bitsAt h 4 4), pm := s.t.pmReg (bitsAt h 8 4) }
    sshift := bitsAt (slotBits b .cc) 12 2 })

/-- Perform operations in order, in the phase the state says. -/
def runOps (ex : Instr → State → Res) (l : List (DWord × Instr)) (s : State) : Res :=
  match l with
  | [] => .next s
  | (w, i) :: rest => resBind (ex i (s.modIss (fun q => { q with slot := w }))) (runOps ex rest)

/-! ## Opening and closing an issue -/

/-- The part in flight of the bundle at issue (R30, R60 to R62): masks are filled in by the header. FEVEN is what it was before an `mts` of the
bundle itself, which applies from the next bundle on (R162; log entry 71). -/
def newFlight (t : Task) : Flight :=
  { n := t.ctl.bcnt, addr := t.ctl.pc, rm := 0, cm := 0, pm := 0, w := t.rng.w, rotsz := t.sys.rotsz,
    rotbase := t.sys.rotbase, sm := t.sys.sm, sv := t.sys.sv, lc := (List.range 4).map t.lcReg, entry := 0, ops := [],
    feven := t.sys.feven, pflag := false, any := false, all := true, fM := 0, fV0 := 0, fV1 := 0, fSeq := 0, ev := none,
    capSouth := false, capEast := false, cells := 0 }

/-- Start the issue of a task's next bundle: results due land (R174), and the task is kept as it stands. -/
def State.openIssue (s : State) (t : Task) : State :=
  { s with t := t.land, phase := .check,
           iss := { addr := t.ctl.pc, n := t.ctl.bcnt, t0 := t.land, slot := 0, fails := [], stall := false, sstA := none,
                    target := none, after := none, eret := false, ended := false, rotcc := false, rotTo := none, sshift := 0,
                    z := t.land.lcReg 0, fl := newFlight t.land } }

/-- One core cycle of the head (R25, R56 `$cyc`). The heads share one clock (R188), and the module stands at the latest cycle one of
them has come to (log entry 7). -/
def State.tick (s : State) : State :=
  { s.modCtl (fun c => { c with cyc := c.cyc + 1, now := c.now + 1 }) with cycle := max s.cycle (s.t.ctl.now + 1) }

/-- The head may take its next core cycle: no running head stands at an earlier one, since one clock runs them all (R25, R188). -/
def State.inStep (s : State) (t : Task) : Bool := s.tasks.all (fun e => !e.2.ctl.running || decide (t.ctl.now ≤ e.2.ctl.now))

/-- A core cycle in which the head issues nothing (R25). -/
def State.bubble (s : State) : State := s.tick

/-- Rotation after the bundle (R60, R172): CC `rot` first, then SB `rot`. -/
def SysRegs.rotate (y : SysRegs) (cc : Bool) (size : Option Nat) : SysRegs :=
  match size with
  | some n => { y with rotsz := n, rotbase := 0 }
  | none => if cc && y.rotsz != 0 then { y with rotbase := (y.rotbase + y.rotsz - 1) % y.rotsz } else y

/-- Close a bundle that commits: rotation and stage state, counts, the part in flight, the next address (R33, R166), then
the trap of `trap` and `brk` (R339) or the return of `eret` (R341). A handler bundle does not count and has no part in
flight (R340). -/
def State.closeIssue (s : State) : State :=
  let i := s.iss
  let tm := i.t0.sys.tm
  let s := s.modSys (fun y => { y.rotate i.rotcc i.rotTo with sv := shiftSv y.sv i.sshift i.z })
  let s := s.modT (fun t => if tm then t else
    { t with flights := t.flights ++ [i.fl], ready := t.ready.filter (fun r => decide (i.n < r.1)) })
  let s := s.modCtl (fun c =>
    { c with waiting := .none, yieldable := false, early := none, pc := i.target.getD (i.addr + 1), bcnt := if tm then c.bcnt else c.bcnt + 1,
             hcnt := if tm then c.hcnt + 1 else c.hcnt })
  let s := s.tick
  let s := match i.after with
    | some v => s.takeTrap 0x1F false v 2 (i.addr + 1)
    | none => s
  if i.eret then s.leaveTrap else s

/-- Take the trap of failed checks (R87): nothing of the bundle takes effect. -/
def State.trapBundle (s : State) (l : List Fail) : State :=
  match chooseTrap l with
  | none => s
  | some (f, mask) => (s.takeTrap (f.kind + 16 * f.source) f.repl f.tval mask s.iss.addr).tick

/-- Whether the head issues: a halted task and a context that a fault has ended issue nothing (R344, R353); a held
allocation failure is taken first, but not in trap mode (R288, R338); a stopped module issues nothing (R359), nor does a
task that is to be pre-empted (R347) or has run `done`. -/
def State.mayIssue (s : State) (t : Task) : Bool :=
  !t.ctl.halted && !t.ctl.stopReq && !t.ctl.ending && (s.ctx t.id.ctx).ffault.isNone && (t.allocs.isEmpty || t.sys.tm) && !s.part.stopped

/-- Whether a result of class 1 due by now is not ready (R35, R177). -/
def Task.notReady (t : Task) : Bool := !t.sys.tm && t.ready.any (fun r => decide (r.1 ≤ t.ctl.bcnt ∧ t.ctl.cyc < r.2))

/-- Whether an edge load due by now has not performed at some position (R35, R206). -/
def Task.edgeLate (t : Task) : Bool :=
  !t.sys.tm && t.pos.any (fun e => e.2.ld.any (fun w => decide (w.inst.n + edgeLat t.prog.hdr.latcls ≤ t.ctl.bcnt)))

/-- After a step the task goes back under its number. -/
def State.finishStep (s : State) : State :=
  { s.putTask s.t with t := default, iss := default, cr := default, phase := .check }

/-- The task whose `done` has committed ends once the LD, ST and E operations of that bundle have finished too (R307). -/
def State.endTask (s : State) : State :=
  if s.t.settled then
    { (({ s with tasks := ferase s.tasks s.t.id.uid } : State).taskDone s.t) with
      t := default, iss := default, cr := default, phase := .check }
  else (s.modCtl (fun c => { c with ending := true })).finishStep

/-- The trap the head raises at the address after the code's last bundle (R166). -/
def codeEndFail (t : Task) : List Fail := [⟨1, 4, BitVec.ofNat 64 t.prog.hdr.codesz, false⟩]

/-- Issue the bundle `b` of the open issue: checks, waits, commit (R86, R87, R211). One that reads an uncorrectable error of the
sequencer's state has no effect but the fault (R355). -/
def issueOpen (ex : Instr → State → Res) (b : Bundle) (s : State) : Res :=
  let ops := bundleOps s.t b issueOrder
  let seen := s.seeSeq (ops.map (·.2))
  if !seen.2 then .next seen.1.finishStep else
  let s := seen.1.noteHeader b
  resBind (runOps ex ops s) fun c =>
  let fails := bundleFails b s.t.sys.tm ++ decodeFails b ++ c.iss.fails
  if !fails.isEmpty then .next ((s.trapBundle fails).finishStep)
  else
    resBind (runOps ex ops { c with phase := .wait }) fun w =>
    if w.iss.stall || w.t.notReady || w.t.edgeLate then .next (w.noteEarly.bubble.finishStep)
    else if !w.iss.fails.isEmpty then .next ((w.trapBundle w.iss.fails).finishStep)
    else
      resBind (runOps ex ops { w with phase := .commit }) fun d =>
      .next (if d.iss.ended then d.closeIssue.endTask else d.closeIssue.finishStep)

/-- The head at an array issues its task's next bundle (R25), if one runs there; while power is throttled (R375) or
a load due now has not performed (R35), a bubble. -/
def issueBundle (ex : Instr → State → Res) (head : Nat) (s : State) : Res :=
  match s.taskAt head with
  | none => .next s
  | some t =>
    if !s.inStep t then .next s
    else if s.part.throttle || (s.mayIssue t && t.loadDue) then .next ({ s with t := t }.bubble.finishStep)
    else if s.mayIssue t then
      let seen := s.seeLand t
      if !seen.2 then .next seen.1 else
      let o := seen.1.openIssue (t.fixed [.pc])
      match t.prog.code[t.ctl.pc]? with
      | none => .next ((o.trapBundle (codeEndFail t)).finishStep)
      | some b => issueOpen ex b o
    else .next s

end Sys2Proof.Machine
end

