-- ==== Sys2Proof/Machine/Sync.lean ====
section
/-! DEFINITION. Sys2Proof/Machine/Sync.lean: synchronisation (R209 to R216), launching (R304 to R306), the end of a task
(R307) and barriers (R308, R309). All stand in SB. -/
namespace Sys2Proof.Machine

/-! ## Waiting for the task's own accesses (R208, R209, R213) -/

/-- Accesses of the classes of mask `m` that have not performed. -/
def Task.pendingIn (t : Task) (m : Nat) : Bool :=
  t.pstores.any (fun p => bitAt m p.oc) ||
  t.pos.any (fun e => e.2.ld.any (fun w => bitAt m w.inst.oc) || e.2.st.any (fun w => bitAt m w.inst.oc))

/-- Reads that have not performed: loads of the sequencer and the edges, and the reads of `estsa`. -/
def Task.pendingReads (t : Task) : Bool :=
  t.pstores.any (fun p => p.ld.isSome) || t.pos.any (fun e => !e.2.ld.isEmpty || e.2.st.any (fun w => match w.inst.op with | .estsa _ => true | _ => false))

/-- A release over the classes of `m` waits for the earlier accesses of those classes; an access in SA of the same bundle is
covered too, so everything before it is waited for (R211). -/
def State.waitRelease (s : State) (m : Nat) : State :=
  s.stallIf (s.t.pendingIn m || (s.iss.sstA.isSome && !s.t.allPerformed))

/-- All classes. -/
def allClasses : Nat := 2 ^ 16 - 1

/-- The release of an operation whose signal is the operation itself. -/
def State.waitAll (s : State) : State := s.waitRelease allClasses

/-- `fence` (R213). -/
def execFence (f : FmtSY) (s : State) : Res := seqOp s f.qp f.qn [] [] (s.waitRelease f.imm) s.performOwn

/-- `rel` (R213). -/
def execRel (f : FmtSY) (s : State) : Res := seqOp s f.qp f.qn [] [] (s.waitRelease f.imm) s.performOwn

/-- `acq` (R213): every earlier read of the task has performed, SA's load of the same bundle among them. -/
def execAcq (f : FmtSY) (s : State) : Res := seqOp s f.qp f.qn [] [] (s.stallIf (s.t.pendingReads || s.loadHeldBack)) s.performLoad

/-! ## Tokens and completion records (R54, R212, R216) -/

/-- Token slot `n`; the null slot is always COMPLETE with status OK. -/
def Task.tokAt (t : Task) (n : Nat) : TokSlot := if n = 63 then ⟨.complete, 0, 0, 0, 0⟩ else fget t.tok ⟨.free, 0, 0, 0, 0⟩ n

/-- Set a token slot; the null slot keeps its state. -/
def Task.setTok (t : Task) (n : Nat) (v : TokSlot) : Task :=
  if n = 63 then t else { t with tok := fset t.tok ⟨.free, 0, 0, 0, 0⟩ n v }

/-- Codes of `tstat`. -/
def TokState.code : TokState → Nat
  | .free => 0 | .busy => 1 | .complete => 2 | .error => 3

/-- The head waits at an operation of R311 while `c` holds. -/
def State.waitAt (s : State) (c : Bool) (w : Waiting) : State :=
  (s.stallIf c).modCtl (fun k =>
    if c then { k with waiting := w, waitFrom := if k.waiting = .none then s.ram.tick else k.waitFrom }
    else { k with waiting := .none, yieldable := false })

/-- `twait` (R212). -/
def execTwait (f : FmtSY) (s : State) : Res :=
  let n := f.func % 64
  let k := s.iss.t0.tokAt n
  let v : Nat := match k.st with | .free => 0xFF | _ => k.status
  let w := match k.st with
    | .busy => if s.openCollective k.group then s.waitAt true (.collective k.group) else s.waitAt true .none
    | _ => s
  let s' := s.hold 1 (.s f.d) (BitVec.ofNat 64 v)
  seqOp s f.qp f.qn [] [] w (s'.modT (fun t => t.setTok n ⟨.free, 0, 0, 0, 0⟩))

/-- `tstat` (R212). -/
def execTstat (f : FmtSY) (s : State) : Res :=
  let k := s.iss.t0.tokAt (f.func % 64)
  let v := k.st.code * 256 + (match k.st with | .complete | .error => k.status | _ => 0xFF)
  seqOp s f.qp f.qn [] [] s (s.hold 1 (.s f.d) (BitVec.ofNat 64 v))

/-- `evpop` (R216). -/
def execEvpop (f : FmtSY) (s : State) : Res :=
  let r : BitVec 128 := s.iss.t0.evq.headD 0
  let s' := ((s.hold 1 (.s f.d) (r.setWidth 64)).hold 1 (.s (f.d + 1)) ((r >>> 64).setWidth 64)).hold 1 (.q (f.func % 16))
    (bitD (!s.iss.t0.evq.isEmpty))
  seqOp s f.qp f.qn [] [] s (s'.modT (fun t => { t with evq := t.evq.tail }))

/-! ## Rings (R55, R214) -/

/-- Filled entries of a ring. -/
def Ring.filled (r : Ring) : Nat := (r.p - r.c).toNat
/-- Free entries of a ring. -/
def Ring.room (r : Ring) : Nat := r.count - r.filled

/-- Ring `n` of a task, if declared. -/
def Task.ring? (t : Task) (n : Nat) : Option Ring := fget? t.rings n

/-- Put ring `n` back. -/
def Task.setRing (t : Task) (n : Nat) (r : Ring) : Task := { t with rings := finsert t.rings n r }

/-- A ring that is not declared, or a count above its entries, is reserved (R210). -/
def ringFails (s : State) (n count : Nat) : List Fail :=
  check (match s.iss.t0.ring? n with | none => false | some r => decide (count ≤ r.count)) (failSlot s 1 1)

/-- Advance the producer side, count and cursor (R214). -/
def Ring.advP (r : Ring) (n : Nat) : Ring := { r with p := r.p + BitVec.ofNat 32 n, ip := r.ip + BitVec.ofNat 32 n }
/-- Advance the consumer side. -/
def Ring.advC (r : Ring) (n : Nat) : Ring := { r with c := r.c + BitVec.ofNat 32 n, ic := r.ic + BitVec.ofNat 32 n }

/-- `rwait` (R214). -/
def execRwait (f : FmtSY) (s : State) : Res :=
  let n := f.func % 32
  seqOp s f.qp f.qn (ringFails s n f.imm) []
    (s.stallIf (match s.iss.t0.ring? n with | none => false | some r => decide (r.filled < f.imm))) s

/-- `rfree` (R214). -/
def execRfree (f : FmtSY) (s : State) : Res :=
  let n := f.func % 32
  seqOp s f.qp f.qn (ringFails s n f.imm) []
    (s.stallIf (match s.iss.t0.ring? n with | none => false | some r => decide (r.room < f.imm))) s

/-- `radv` (R214): the release, then the bound, then the advance. It waits for the publications the ring still owes, which would else break
the bound of R55 when they come, with no fault for it (R337; log entry 73). -/
def execRadv (f : FmtSY) (s : State) : Res :=
  let n := f.func % 32
  let cons := bitAt f.func 5
  let bad := match s.iss.t0.ring? n with
    | none => false
    | some r => if cons then decide (r.filled < f.imm) else decide (r.count < r.filled + f.imm)
  let w := s.waitAll.stallIf (s.t.pubs.any (fun u => u.ring == n))
  seqOp s f.qp f.qn (ringFails s n f.imm) []
    (if w.iss.stall then w
     else w.addFails (check (!bad) ⟨1, if cons then 10 else 9, BitVec.ofNat 64 n, true⟩))
    (s.performOwn.modT (fun t =>
      match t.ring? n with
      | none => t
      | some r => t.setRing n (if cons then r.advC f.imm else r.advP f.imm)))

/-! ## Semaphores (R215) -/

/-- Change semaphore `n` of a context. -/
def State.modSem (s : State) (ctx n : Nat) (f : Sem → Sem) : State :=
  s.modCtx ctx (fun c => match fget? c.sems n with | some m => { c with sems := finsert c.sems n (f m) } | none => c)

/-- A task leaves every wait list (R215). -/
def State.leaveLists (s : State) (t : Task) : State :=
  s.modCtx t.id.ctx (fun c => { c with sems := c.sems.map (fun e => (e.1, { e.2 with waiters := e.2.waiters.filter (fun w => w.1 != t.id.uid) })) })

/-- The amount of `semw` and `semsig`. -/
def semAmount (s : State) (a : Nat) : Nat := (opA s a).toNat % 2 ^ 32

/-- The value of a semaphore. -/
def State.semVal (s : State) (ctx n : Nat) : Nat := match fget? (s.ctx ctx).sems n with | some m => m.val | none => 0

/-- A semaphore that does not exist (R215). -/
def semFails (s : State) (n : Nat) : List Fail :=
  check (fget? (s.ctx s.iss.t0.id.ctx).sems n).isSome (failRange 1 n)

/-- Join a wait list at its tail, once. -/
def Sem.join (m : Sem) (uid amount : Nat) : Sem :=
  if m.waiters.any (fun w => w.1 == uid) then m else { m with waiters := m.waiters ++ [(uid, amount)] }

/-- The head of the list is the task and the value reaches its amount. -/
def Sem.grants (m : Sem) (uid : Nat) : Bool :=
  match m.waiters with
  | [] => false
  | w :: _ => w.1 == uid && decide (w.2 ≤ m.val)

/-- `semw` (R215): joins the list when its bundle issues, and is granted at commit. -/
def execSemw (f : FmtSY) (s : State) : Res :=
  let c := s.t.id.ctx
  let n := f.imm % 2 ^ 12
  let uid := s.t.id.uid
  let j := s.modSem c n (fun m => m.join uid (semAmount s f.a))
  let granted := match fget? (j.ctx c).sems n with | some m => m.grants uid | none => false
  seqOp s f.qp f.qn [] (semFails s n) (j.waitAt (!granted) (.semw n))
    (s.modSem c n (fun m => { m with val := m.val - semAmount s f.a, waiters := m.waiters.tail }))

/-- `semsig` (R215). -/
def execSemsig (f : FmtSY) (s : State) : Res :=
  let c := s.t.id.ctx
  let n := f.imm % 2 ^ 12
  let w := s.waitAll
  seqOp s f.qp f.qn [] (semFails s n)
    (if w.iss.stall then w
     else w.addFails (check (decide (s.semVal c n + semAmount s f.a < 2 ^ 32)) ⟨1, 9, BitVec.ofNat 64 n, true⟩))
    (s.performOwn.modSem c n (fun m => { m with val := m.val + semAmount s f.a }))

/-! ## Launching (R296, R304 to R306) -/

/-- Shared entries of a die's pool in use. -/
def State.sharedUsed (s : State) (die : Nat) : Nat := s.ram.pool.countP (fun p => p.die == die && p.owner.isNone)
/-- The entry reserved for a task is in use. -/
def State.reservedUsed (s : State) (uid : Nat) : Bool := s.ram.pool.any (fun p => p.owner == some uid)

/-- Whether `launch` finds an entry: shared first, then the task's own. -/
def State.poolEntry (s : State) (die uid : Nat) : Option (Option Nat) :=
  if s.sharedUsed die < 256 then some none else if s.reservedUsed uid then none else some (some uid)

/-- Enter the record at offset `o` into the pool of the head's die (R304). -/
def State.enterPool (s : State) (o : Nat) (owner : Option Nat) : State :=
  let t := s.t
  let r := readRecord (fun a n => s.sramRd t.die (o + a) n)
  let l : LaunchSet := ⟨s.ram.nextSet, t.id.ctx, t.id.queue, .pool t.die o t.id.set t.id.idx, r, none, 0, [], 0, [], s.ram.tick, none⟩
  s.modRam (fun m => { m with sets := m.sets ++ [l], pool := m.pool ++ [⟨t.die, l.id, owner⟩], nextSet := m.nextSet + 1 })

/-- The launch record at offset `o` is read (R354, R355): one that cannot be ends the context and enters no pool. -/
def State.launchAt (s : State) (o d : Nat) (owner : Option Nat) : State :=
  let t := s.iss.t0
  let seen := s.sramSee t s.iss.n s.iss.addr t.sys.tm 1 0 o 256
  if errBad s.mem.sramErr (sramKey t.die o) 256 then seen else (seen.enterPool o owner).hold 1 (.q (d % 16)) 0

/-- `launch` (R304). -/
def execLaunch (f : FmtSY) (s : State) : Res :=
  let t := s.iss.t0
  let o := (opA s f.a).toNat
  let s' := s.performOwn
  seqOp s f.qp f.qn []
    (check (o % 256 == 0) (failAlign 1 o) ++ check (s.inSram t.id.ctx t.die o 256) (failRange 1 o))
    s.waitAll
    (match s.poolEntry t.die t.id.uid with
      | some owner => s'.launchAt o f.d owner
      | none => s'.hold 1 (.q (f.d % 16)) 1)

/-- `trig` (R306). -/
def execTrig (f : FmtSY) (s : State) : Res :=
  let s' := s.performOwn
  seqOp s f.qp f.qn [] [] s.waitAll ((s'.taskTrig s'.t).modCtl (fun c => { c with triggered := true }))

/-- The command sends return-free additions: `nmadd`, and `pkbwd` with GEN (R219). -/
def Cmd.sendsAdds (c : Cmd) : Bool :=
  match c.op with
  | .nmadd _ => true
  | .pkbwd _ => field (c.pack.getD 5 0) 12 1 == 1
  | _ => false

/-- Return-free additions of a task that have not performed, those of commands that have still to send them among them (R219, R307). -/
def State.addsOpen (s : State) (uid : Nat) : Bool :=
  s.eng.adds.any (fun a => a.task == uid) || s.eng.cmds.any (fun c => c.task == uid && c.st != .done && c.sendsAdds)

/-- `done` (R307): waits for LD and ST operations, tokens and the task's return-free atomics. -/
def execDone (f : FmtSY) (s : State) : Res :=
  let wait := !s.t.noBusy || s.addsOpen s.t.id.uid
  seqOp s f.qp f.qn [] [] (s.waitAll.stallIf wait) (s.performOwn.modIss (fun i => { i with ended := true }))

/-! ## Barriers (R308, R309) -/

/-- The group of the task at a level. -/
def Task.barGroup (t : Task) (lvl : Nat) : Nat := field t.id.dom (16 * lvl) 16
/-- The member count of a level. -/
def Task.barCount (t : Task) (lvl : Nat) : Nat := field t.id.barn (16 * lvl) 16

/-- Whether module `m` can be reached over Koerorn Link from here (R309, R370). -/
def State.reachable (s : State) (m : Nat) : Bool := m == s.mod.modid || fget s.route 0xFF m != 0xFF

/-- A system-level group needs REMOTE and a reachable home (R309). -/
def State.sysLevelOk (s : State) (ctx : Nat) : Bool := s.feat 1 && s.reachable (s.ctx ctx).shome

/-- Generations of one barrier group. -/
def State.barFind (s : State) (ctx lvl grp : Nat) : BarGroup :=
  match (s.ctx ctx).groups.find? (fun g => g.level == lvl && g.grp == grp) with
  | some g => g
  | none => ⟨lvl, grp, 0, 0, 0, 0⟩

/-- Put a barrier group back. -/
def State.barPut (s : State) (ctx : Nat) (g : BarGroup) : State :=
  s.modCtx ctx (fun c => { c with groups := g :: c.groups.filter (fun h => h.level != g.level || h.grp != g.grp) })

/-- Count one arrival: the first of a generation sets the count and the die; the last starts the next generation. -/
def BarGroup.arrive (g : BarGroup) (n die : Nat) : BarGroup :=
  let g := if g.arrived = 0 then { g with need := n, die := die } else g
  if g.need ≤ g.arrived + 1 then { g with arrived := 0, need := 0, gen := g.gen + 1 } else { g with arrived := g.arrived + 1 }

/-- An arrival that traps (R308). -/
def BarGroup.refuses (g : BarGroup) (lvl n die : Nat) : Bool :=
  (g.arrived != 0 && g.need != n) || (lvl == 0 && n != 1) || (lvl == 1 && g.arrived != 0 && g.die != die)

/-- The wait of `bar` at levels 0 to 2: arrive once, then wait for the generation to pass. -/
def barWait (s : State) (lvl : Nat) : State :=
  let t := s.t
  let n := t.barCount lvl
  let g := s.barFind t.id.ctx lvl (t.barGroup lvl)
  match t.ctl.arrived with
  | some (_, gen) => s.waitAt (g.gen == gen) .bar
  | none =>
    let w := s.waitAll
    if w.iss.stall then w
    else if g.refuses lvl n t.die then w.addFails [failRange 1 n]
    else
      let g' := g.arrive n t.die
      ((w.performArrival.barPut t.id.ctx g').modCtl (fun c => { c with arrived := some (lvl, g.gen) })).waitAt (g'.gen == g.gen) .bar

/-- The wait of `bar` at level 3 (R309). `arrived` is (3, 0) once the arrival is on its way, (3, 1) when completion has come
back, (3, 2) when the home refuses it, (3, 3) once the home on this module has counted it. -/
def barWaitSystem (s : State) : State :=
  match s.t.ctl.arrived with
  | some (_, 1) => s.waitAt false .none
  | some (_, 2) => (s.addFails [failRange 1 (s.t.barCount 3)]).modCtl (fun c => { c with arrived := none, own := none })
  | some _ => s.waitAt true .bar
  | none =>
    let w := s.waitAll
    if w.iss.stall then w else (w.performArrival.modCtl (fun c => { c with arrived := some (3, 0) })).waitAt true .bar

/-- `bar` (R308, R309). -/
def execBar (f : FmtSY) (s : State) : Res :=
  let lvl := f.func % 4
  let t := s.iss.t0
  let none_ := t.barGroup lvl == 0xFFFF || t.barCount lvl == 0
  seqOp s f.qp f.qn []
    (if lvl = 3 ∧ t.barGroup 3 ≠ 0xFFFF then check (s.sysLevelOk t.id.ctx) (failRange 1 (t.barCount 3)) else [])
    (if none_ then s.waitAll else if lvl = 3 then barWaitSystem s else barWait s lvl)
    (s.performOwn.modCtl (fun c => { c with arrived := none, own := none }))

/-- The member of this module a message about a system-level barrier concerns. -/
def State.sysTask (s : State) (m : SysMsg) : Option Task :=
  if m.coll then none
  else (s.tasks.find? (fun e => e.1 == m.member && (s.ctx e.2.id.ctx).sdom == m.sdom && e.2.barGroup 3 == m.group)).map (·.2)

/-- The home's group of a message: (SDOM, group), barriers and collectives apart. -/
def State.sysGroup (s : State) (m : SysMsg) : BarGroup :=
  match s.ram.sysGroups.find? (fun g => g.level == m.sdom && g.grp == m.group && g.die == b2n m.coll) with
  | some g => g
  | none => ⟨m.sdom, m.group, 0, 0, b2n m.coll, 0⟩

/-- The home counts an arrival. When the group's count is reached, every member is owed a completion. A member whose count
differs from the first one's is owed a refusal, a completion whose count is 0. -/
def State.homeArrive (s : State) (m : SysMsg) : State :=
  let g := s.sysGroup m
  let put (s : State) (g : BarGroup) : State := s.modRam (fun r => { r with
    sysGroups := g :: r.sysGroups.filter (fun h => h.level != g.level || h.grp != g.grp || h.die != g.die) })
  let same (x : SysMsg) : Bool := x.sdom == m.sdom && x.group == m.group && x.coll == m.coll
  if g.arrived ≠ 0 ∧ g.need ≠ m.count then s.modRam (fun r => { r with sysDone := r.sysDone ++ [{ m with count := 0 }] })
  else if m.count ≤ g.arrived + 1 then
    (put s { g with arrived := 0, need := 0, gen := g.gen + 1 }).modRam (fun r => { r with
      sysDone := r.sysDone ++ r.sysMembers.filter same ++ [m]
      sysMembers := r.sysMembers.filter (fun x => !same x) })
  else (put s { g with arrived := g.arrived + 1, need := m.count }).modRam (fun r => { r with sysMembers := r.sysMembers ++ [m] })

end Sys2Proof.Machine
end

