-- ==== Sys2Proof/Machine/EdgeMove.lean ====
section
/-! DEFINITION. Sys2Proof/Machine/EdgeMove.lean: what the edge loaders do on their own (R28, R40, R42, R181, R193 to R200, R205,
R206): segments act, stores perform, rings publish; and the completion of an aggregate (R44). -/
namespace Sys2Proof.Machine

/-- Work for the task that runs at an array, if `ok` holds of it. -/
def State.forTask (s : State) (head : Nat) (ok : Task → Bool) (f : State → State) : State :=
  match s.taskAt head with
  | none => s
  | some t => if ok t then { s.onTask t f with t := default } else s

/-! ## Order of a task's accesses (R200, R205, R206) -/

/-- Bytes an edge operation stores at a position: address and length of every piece. -/
def EdgeInst.allPieces (e : EdgeInst) (j : Nat) : List (Nat × Nat) :=
  (List.range 32).flatMap (fun i => (List.range e.pieces).map (e.piece j i))

/-- A store operation meets `n` bytes at `a`. -/
def EdgeInst.meets (e : EdgeInst) (j a n : Nat) : Bool := (e.allPieces j).any (fun p => overlaps p.1 p.2 a n)

/-- The other positions of the task on the die of position j. -/
def Task.peers (t : Task) (j : Nat) : List (Nat × Pos) := t.pos.filter (fun e => e.1 != j && t.dieAt e.1 == t.dieAt j)

/-- An earlier access of the same class that a read of 128 bytes at `a` by `e` at position j must follow: loads before it in
program order, and stores before it to the same bytes. -/
def Task.loadHeld (t : Task) (j : Nat) (e : EdgeInst) (a : Option Nat) : Bool :=
  let hit (b m : Nat) : Bool := match a with | none => false | some a => overlaps b m a 128
  (t.posAt j).st.any (fun w => decide (w.inst.n < e.n)) ||
  (!e.isWs && t.dieAt j == t.die && t.pstores.any (fun p => decide (p.n ≤ e.n) && p.oc == e.oc && (p.ld.isSome || hit p.addr p.size))) ||
  (t.peers j).any (fun q =>
    q.2.ld.any (fun w => decide (w.inst.n < e.n) && w.inst.oc == e.oc && w.inst.isWs == e.isWs) ||
    (!e.isWs && q.2.st.any (fun w => decide (w.inst.n < e.n) && w.inst.oc == e.oc &&
      (match a with | none => false | some a => w.inst.meets q.1 a 128))))

/-- An earlier access of the same class that a store of `e` at position j must follow. -/
def Task.storeHeld (t : Task) (j : Nat) (e : EdgeInst) : Bool :=
  (t.posAt j).ld.any (fun w => decide (w.inst.n ≤ e.n)) ||
  (t.dieAt j == t.die && t.pstores.any (fun p => decide (p.n ≤ e.n) && p.oc == e.oc)) ||
  (t.peers j).any (fun q =>
    q.2.ld.any (fun w => decide (w.inst.n ≤ e.n) && w.inst.oc == e.oc && !w.inst.isWs) ||
    q.2.st.any (fun w => decide (w.inst.n < e.n) && w.inst.oc == e.oc))

/-! ## Loads (R195, R199) -/

/-- The 128 bytes a segment reads; padding is zero. -/
def State.edgeRead (s : State) (j : Nat) (e : EdgeInst) (a : Option Nat) : VecReg :=
  match a with
  | none => 0
  | some a => if e.isWs then BitVec.ofNat 1024 (s.wsRd (s.t.dieAt j) a 128) else s.segRd (s.t.dieAt j) a

/-- A read of a segment meets the storage errors there are (R354, R355). -/
def State.edgeSee (s : State) (j : Nat) (e : EdgeInst) (a : Option Nat) : State :=
  match a with
  | none => s
  | some a => if e.isWs then s.wsSee s.t e.n e.addr 6 j a 128 else s.sramSee s.t e.n e.addr false 6 j a 128

/-- What `eldt` delivers to pseudo-cell `k` (R195). -/
def transposed (caps : FMap VecReg) (k : Nat) : VecReg := ofLanes (fun l => (lane (fget caps 0 l) k).toNat)

/-- Segments put into the edge loader's holding buffer, due at b + λ (R40). -/
def ingressOf (cls : Nat) (e : EdgeInst) (l : List (Nat × VecReg)) : List Ingress :=
  l.map (fun x => ⟨edgeNorth e.op, x.1, e.n + edgeLat cls, x.2⟩)

/-- What a load delivers when segment `seg` has been read as `v`. -/
def EdgeWork.deliver (w : EdgeWork) (seg : Nat) (v : VecReg) : List (Nat × VecReg) :=
  match w.inst.op with
  | .eldb _ => (List.range 32).map (fun k => (k, v))
  | .eldt _ =>
    if w.acted.length + 1 = 32 then (List.range 32).map (fun k => (k, transposed (fset w.caps 0 seg v) k)) else []
  | _ => [(seg, v)]

/-- The first unfinished load has acted on a segment: the segment is noted, and the load leaves when it was the last. -/
def loadActed (seg : Nat) (v : VecReg) (l : List EdgeWork) : List EdgeWork :=
  match l with
  | [] => []
  | w :: rest =>
    let w' := { w with acted := w.acted ++ [seg], caps := match w.inst.op with | .eldt _ => fset w.caps 0 seg v | _ => w.caps }
    if edgeSegs w.inst.op ≤ w'.acted.length then rest else w' :: rest

/-- A segment of the first unfinished load of position j. -/
def State.loadSegment (s : State) (j seg : Nat) : State :=
  match (s.t.posAt j).ld with
  | [] => s
  | w :: _ =>
    let a := w.inst.seg j seg
    let v := s.edgeRead j w.inst a
    let add := ingressOf s.t.prog.hdr.latcls w.inst (w.deliver seg v)
    (s.edgeSee j w.inst a).modT (fun t =>
      (t.modPos j (fun p => { p with ld := loadActed seg v p.ld, ingress := p.ingress ++ add })).retireAll)

/-- The loader may act on segment `seg` of the first unfinished load. -/
def Task.loadReady (t : Task) (j seg : Nat) : Bool :=
  match (t.posAt j).ld with
  | [] => false
  | w :: _ => decide (seg < edgeSegs w.inst.op) && !w.acted.contains seg && !t.loadHeld j w.inst (w.inst.seg j seg)

/-! ## Stores (R42, R127, R196) -/

/-- The data of a segment of a store have left the array: the edge cell has applied the bundle (R42), or the drain slot has
passed row 31 (R126). -/
def Task.captured (t : Task) (j seg : Nat) (w : EdgeWork) : Bool :=
  if edgePop w.inst.op then decide (w.inst.row < (t.cellAt j 31 seg).n)
  else if edgeEast w.inst.op then decide (w.inst.n < (t.cellAt j seg 31).n)
  else decide (w.inst.n < (t.cellAt j 31 seg).n)

/-- Note segment `seg` in the first store that has not acted on it. -/
def storeActed (seg : Nat) (l : List EdgeWork) : List EdgeWork :=
  match l with
  | [] => []
  | w :: rest => if w.acted.contains seg then w :: storeActed seg rest else { w with acted := w.acted ++ [seg] } :: rest

/-- The loader may act on segment `seg` of a store. -/
def Task.storeSegReady (t : Task) (j seg : Nat) : Bool :=
  decide (seg < 32) && (match (t.posAt j).st.find? (fun w => !w.acted.contains seg) with | none => false | some w => t.captured j seg w)

/-- An edge loader acts on one segment (R28). -/
def execEdgeSegmentAct (head pos : Nat) (store : Bool) (seg : Nat) (s : State) : Res :=
  .next (if store then
      s.forTask head (fun t => t.storeSegReady pos seg) (fun s => s.modT (fun t => t.modPos pos (fun p => { p with st := storeActed seg p.st })))
    else s.forTask head (fun t => t.loadReady pos seg) (fun s => s.loadSegment pos seg))

/-! ## Conversions of drain rows (R197) -/

/-- A tile element as `epop` reads it: an integer where ACC is 2 or 3 (R197), though R103 has LD and ST ignore ACC (log entry 48). -/
def popValue (e : Word) (v : Nat) : Rv := if 2 ≤ ftAcc e then .fin (sext v 32 : Rat) false else decFtz .fp32 (ftFtz e) v

/-- One element converted to a format that is no block format. -/
def popElem (e : Word) (v lrb : Nat) : ElemResult :=
  let t := ftA e
  let m := rndOf (ftRnd e) lrb
  if typeInt t then
    if 2 ≤ ftAcc e then (wrapI (if ftSat e then satI (sext v 32) (typeMin t) (typeMax t) else sext v 32) (typeWidth t), 0)
    else
      let r := toInt (popValue e v) (typeMin t) (typeMax t) m
      (wrapI r.1 (typeWidth t), r.2)
  else round (popValue e v) (typeFmt t) m (ftSat e) (ftFtz e)

/-- The elements of a tile in the order e = 16i + j. -/
def tileList (t : TileReg) : List Nat := (List.range 256).map (fun n => tileElem t (n / 16) (n % 16))

/-- Eight blocks of 32 elements. -/
def popBlocks (e : Word) (t : TileReg) : List (Nat × List Nat × Nat) :=
  (List.range 8).map (fun m => packmx (((tileList t).drop (32 * m)).take 32 |>.map (popValue e)) (ftA e) (ftNeg128 e))

/-- The random bits of element `n` of slot `c` under SR: the edge loaders' own of R109, which names the slots of `epop` and `epopr` and gives
no edge loader the bits of a cell; a row 32, which R197 writes, no cell has (log entry 48). -/
def popBits (w : DWord) (j c n : Nat) : Nat := lrbe w j 0 c (n % 32)

/-- The data of a slot in its target format, the scale bytes of its blocks, and its flags. -/
def popSlot (e : EdgeInst) (j c : Nat) (t : TileReg) : Nat × Nat × Nat :=
  let w := typeWidth (ftA e.entry)
  if isBlock (ftA e.entry) then
    let b := popBlocks e.entry t
    (packBits w (b.flatMap (·.2.1)), packBits 8 (b.map (·.1)), b.foldl (fun a x => flOr a x.2.2) 0)
  else
    let l := (tileList t).zipIdx.map (fun x => popElem e.entry x.1 (popBits e.w j c x.2))
    (packBits w (l.map (·.1)), 0, l.foldl (fun a x => flOr a x.2) 0)

/-! ## Atomic additions (R198) -/

/-- One word of `estsa`: the new value and the flags. -/
def addWord (e : Word) (old v : Nat) : Nat × Nat :=
  let m := rndNoSr (ftRnd e)
  roundNv (addRv (decFtz .fp32 (ftFtz e) old) (decFtz .fp32 (ftFtz e) v) m.isDn) .fp32 m (ftSat e) (ftFtz e)

/-! ## A store performs (R181, R196 to R198) -/

/-- Segment and piece a store performs next. -/
def EdgeWork.at_ (w : EdgeWork) : Nat × Nat := (w.performed / w.inst.pieces, w.performed % w.inst.pieces)

/-- The first store of position j may perform its next piece. -/
def Task.pieceReady (t : Task) (j : Nat) : Bool :=
  match (t.posAt j).st with
  | [] => false
  | w :: _ => w.acted.contains w.at_.1 && !t.storeHeld j w.inst

/-- Write the next piece of the store `w`, and note its flags. -/
def State.writePiece (s : State) (j : Nat) (w : EdgeWork) : State :=
  let e := w.inst
  let d := s.t.dieAt j
  let c := w.at_.1
  let p := e.piece j c w.at_.2
  let note (s : State) (fl : Nat) : State := s.modT (fun t => t.noteFlags e.n .seq j 0 c true fl)
  match e.op with
  | .epop _ | .epopr _ =>
    match ((s.t.posAt j).rows e.dq).find? (fun r => r.n == e.row) with
    | none => s
    | some r =>
      let v := popSlot e j c (fget r.slots 0 c)
      let scale := isBlock (ftA e.entry) && w.at_.2 == popBytes e.entry / 128
      note (s.sramWr d p.1 p.2 (if scale then v.2.1 else bitsAt v.1 (1024 * w.at_.2) 1024)) v.2.2
  | .estsa _ =>
    let r := addWord e.entry (s.sramRd d p.1 4) (lane (fget w.caps 0 c) w.at_.2).toNat
    note ((s.sramSee s.t e.n e.addr false 7 j p.1 4).sramWr d p.1 4 r.1) r.2
  | _ => s.segWr d p.1 (fget w.caps 0 c)

/-- A piece has performed: the store leaves with its last one, and a popped row with it. -/
def Pos.pieceDone (p : Pos) : Pos :=
  match p.st with
  | [] => p
  | w :: rest =>
    if 32 * w.inst.pieces ≤ w.performed + 1 then
      { p with st := rest,
               dq := if edgePop w.inst.op then fmod p.dq [] w.inst.dq (fun l => l.filter (fun r => r.n != w.inst.row)) else p.dq }
    else { p with st := { w with performed := w.performed + 1 } :: rest }

/-- The next piece of an edge store performs. -/
def execEdgeStorePerform (head pos : Nat) (s : State) : Res :=
  .next (s.forTask head (fun t => t.pieceReady pos) (fun s =>
    match (s.t.posAt pos).st with
    | [] => s
    | w :: _ => (s.writePiece pos w).modT (fun t => (t.modPos pos Pos.pieceDone).retireAll)))

/-! ## Publications of rings (R193, R209, R214) -/

/-- Every access the publication of bundle `n` releases has performed: those before it, and its own side's (R209). -/
def Task.pubReady (t : Task) (u : RingPub) : Bool :=
  !t.pstores.any (fun p => decide (p.n ≤ u.n)) &&
  !t.pos.any (fun e => e.2.ld.any (fun w => decide (w.inst.n ≤ u.n)) ||
    e.2.st.any (fun w => decide (w.inst.n < u.n) || (u.producer && w.inst.n == u.n)))

/-- The oldest publication a side of a ring owes. -/
def Task.owed (t : Task) (ring : Nat) (producer : Bool) : Option RingPub :=
  t.pubs.find? (fun u => u.ring == ring && u.producer == producer)

/-- A ring publishes one entry. -/
def publish (head ring : Nat) (producer : Bool) (s : State) : Res :=
  .next (s.forTask head (fun t => match t.owed ring producer with | none => false | some u => t.pubReady u) (fun s =>
    s.modT (fun t =>
      match t.owed ring producer, t.ring? ring with
      | some u, some r =>
        { t.setRing ring (if producer then { r with p := r.p + 1 } else { r with c := r.c + 1 }) with pubs := t.pubs.erase u }
      | _, _ => t)))

/-- P := P + 1 (R193). -/
def execRingProducerPublish (head ring : Nat) (s : State) : Res := publish head ring true s
/-- C := C + 1 (R193). -/
def execRingConsumerPublish (head ring : Nat) (s : State) : Res := publish head ring false s

/-! ## Aggregates (R44, R45) -/

/-- Every cell of the chain has executed the bundle whose aggregate is pending. -/
def Task.aggReady (t : Task) : Option Flight :=
  match t.ctl.aggPend with
  | none => none
  | some n => t.flights.find? (fun fl => fl.n == n && fl.cells == 1024 * t.len)

/-- The pair reaches the head (R44). -/
def execAggregateComplete (head : Nat) (s : State) : Res :=
  .next (s.forTask head (fun t => t.aggReady.isSome) (fun s => s.modT (fun t =>
    match t.aggReady with
    | none => t
    | some fl => ({ t with ctl := { t.ctl with aggAny := fl.any, aggAll := fl.all, aggPend := none } } : Task).wrote .agg |>.retireAll)))

end Sys2Proof.Machine
end

