-- ==== Sys2Proof/Machine/System.lean ====
section
/-! DEFINITION. Sys2Proof/Machine/System.lean: system registers (R56 to R58), the operations of R170, R172, R339, R341, cell
control (R29, R60 to R62, R108) and the head's own events (R25, R62). -/
namespace Sys2Proof.Machine

/-! ## System registers -/

/-- `$status` (R57). -/
def SysRegs.status (y : SysRegs) : DWord :=
  BitVec.ofNat 64 (b2n y.tm + 2 * b2n y.il + 4 * b2n y.sm + 8 * b2n y.feven + 16 * b2n y.stovf + 32 * b2n y.evovf +
    y.sv * 2 ^ 8 + y.rotbase * 2 ^ 22 + y.rotsz * 2 ^ 33)

/-- `$ctx` (R58). -/
def State.ctxReg (s : State) (c : Nat) : DWord := BitVec.ofNat 64 (c + (s.ctx c).fn * 2 ^ 8 + (s.ctx c).pcap * 2 ^ 16)

/-- `$refcal` (R188). -/
def refcal (ph : Nat) : DWord := BitVec.ofNat 64 (ph + ph / 256 * 2 ^ 18 + 32 * 2 ^ 24)

/-- System register `n` of the task `t` (R56). -/
def State.sysReg (s : State) (t : Task) (n : Nat) : DWord :=
  let k (v : Nat) : DWord := BitVec.ofNat 64 v
  if 0x40 ≤ n then k (s.part.seamlat.getD (n - 0x40) 0)
  else match n with
    | 0x00 => k t.id.taskid
    | 0x01 => k t.id.idx
    | 0x02 => k t.id.setsize
    | 0x03 => k t.id.head
    | 0x04 => k t.die
    | 0x05 => 0
    | 0x06 => k t.len
    | 0x07 => t.id.dom
    | 0x08 => k (t.prog.hdr.latcls + 256 * b2n t.sys.il)
    | 0x09 => k t.ctl.cyc
    | 0x0A => k t.ctl.bcnt
    | 0x0B => t.sys.fpf
    | 0x0C => t.sys.fpev
    | 0x10 => t.sys.cause
    | 0x11 => t.sys.epc
    | 0x12 => t.sys.tval
    | 0x13 => t.sys.fmask
    | 0x14 => t.sys.status
    | 0x18 => s.ctxReg t.id.ctx
    | 0x19 => s.mod.featneg.setWidth 64
    | 0x1A => (s.mod.featneg >>> 64).setWidth 64
    | 0x1C => refcal (t.ctl.now % 16384)
    | _ => 0

/-- Registers a program may write in trap mode only (R56). -/
def trapOnly (n : Nat) : Bool := decide (0x10 ≤ n ∧ n ≤ 0x13)
/-- Registers a program may always write (R56). -/
def alwaysWritable (n : Nat) : Bool := n == 0x0B || n == 0x0C || n == 0x14

/-- `mts` to register `n` (R56 to R58): reserved bits and read-only fields ignore the value. -/
def SysRegs.write (y : SysRegs) (n : Nat) (v : DWord) : SysRegs :=
  match n with
  | 0x0B => { y with fpf := v &&& fpfMask }
  | 0x0C => { y with fpev := v &&& fpevMask }
  | 0x10 => { y with cause := v &&& 0x3FF }
  | 0x11 => { y with epc := v }
  | 0x12 => { y with tval := v }
  | 0x13 => { y with fmask := v &&& 0x1FF }
  | 0x14 => { y with feven := v.getLsbD 3, evovf := y.evovf && v.getLsbD 5 }
  | _ => y

/-- Reads and writes of the flag registers wait for the flags of every earlier bundle (R111). -/
def State.waitFlags (s : State) (c : Bool) : State := s.stallIf (c && !s.t.flagsMerged)

/-- `mfs` (R56). -/
def execMfs (f : FmtSY) (s : State) : Res :=
  let s' := s.waitFlags (f.imm == 0x0B || f.imm == 0x0C)
  seqOp s f.qp f.qn [] [] s' (s.hold 1 (.s f.d) (s.sysReg s.iss.t0 f.imm))

/-- `mts` (R56): the privilege checks, then the write. -/
def execMts (f : FmtSY) (s : State) : Res :=
  let ok := alwaysWritable f.imm || (trapOnly f.imm && s.iss.t0.sys.tm)
  seqOp s f.qp f.qn (check ok (failSlot s 1 2)) [] (s.waitFlags (f.imm == 0x0B || f.imm == 0x0C))
    (s.modSys (fun y => y.write f.imm (opA s f.a)))

/-- `fpclr` (R72, R111). -/
def execFpclr (f : FmtSY) (s : State) : Res :=
  seqOp s f.qp f.qn [] [] (s.waitFlags true) (s.modSys (fun y => y.clearFlags f.imm))

/-- `ftset` (R172): a reserved encoding traps (R86). -/
def execFtset (f : FmtSY) (s : State) : Res :=
  let v : Word := (opA s f.a).setWidth 32
  seqOp s f.qp f.qn [] (check (!ftReserved v) (failSlot s 1 1)) s
    (s.modT (fun t => { t with r := { t.r with ft := fset t.r.ft 0 f.d v } }.wrote (.ft f.d)))

/-- `mskset` (R172). -/
def execMskset (f : FmtSY) (s : State) : Res :=
  let v := opA s f.a
  seqOp s f.qp f.qn [] [] s
    (s.modT (fun t =>
      match f.func with
      | 0 => { t with r := { t.r with rm := fset t.r.rm onesW f.d (v.setWidth 32) } }.wrote (.rm f.d)
      | 1 => { t with r := { t.r with cm := fset t.r.cm onesW f.d (v.setWidth 32) } }.wrote (.cm f.d)
      | _ => { t with r := { t.r with pm := fset t.r.pm onesD f.d v } }.wrote (.pm f.d)))

/-- `rot` (R60, R172): the size must not exceed the vector footprint. A guard of 0 leaves only the checks of kinds 0 to 2 (R161), so not this
one, which R161 does not name either way (log entry 43). -/
def execRot (f : FmtSY) (s : State) : Res :=
  seqOp s f.qp f.qn [] (check (decide (f.imm ≤ s.iss.t0.prog.hdr.vregs)) (failRange 1 f.imm)) s
    (s.modIss (fun i => { i with rotTo := some f.imm }))

/-- `stage` (R170); the bundle's stage shift acts on the SV it writes. -/
def execStage (f : FmtSY) (s : State) : Res :=
  seqOp s f.qp f.qn [] [] s
    (s.modSys (fun y => { y with sm := bitAt f.func 0, sv := f.imm % 16, depth := if bitsAt f.func 1 2 = 0 then 4 else bitsAt f.func 1 2 }))

/-- `dset` (R108, R172): a new key, count 0, an empty queue. -/
def execDset (f : FmtSY) (s : State) : Res :=
  seqOp s f.qp f.qn [] [] s
    (s.modT (fun t => { t with rng := { t.rng with key := opA s f.a, n := 0, queue := [] } }))

/-! ## Traps (R339, R341) -/

/-- `trap` (R339): commits, then traps. -/
def execTrap (f : FmtSY) (s : State) : Res :=
  seqOp s f.qp f.qn [] [] s (s.modIss (fun i => { i with after := some (BitVec.ofNat 64 (f.imm % 2 ^ 16)) }))

/-- `brk` (R339, R353): with a debugger attached the task halts and is pre-empted. -/
def execBrk (f : FmtSY) (s : State) : Res :=
  seqOp s f.qp f.qn [] [] s
    (if (s.ctx s.t.id.ctx).attach then
      (s.modSys (fun y => { y with cause := 0x1F })).modCtl (fun c => { c with halted := true, stopReq := true })
     else s.modIss (fun i => { i with after := some (BitVec.ofNat 64 (f.imm % 2 ^ 16 + 2 ^ 16)) }))

/-- `eret` (R341): outside trap mode, a privilege trap; it waits until every handler result is ready, that of SA's load of its own bundle
among them (R175). -/
def execEret (f : FmtSY) (s : State) : Res :=
  seqOp s f.qp f.qn (check s.iss.t0.sys.tm (failSlot s 1 2)) [] (s.stallIf (!s.t.handlerReady || s.loadHeldBack))
    (s.performLoad.modIss (fun i => { i with eret := true }))

/-! ## The header and cell control (R29, R60 to R62, R81) -/

/-- The masks a header names (R29, R30), read at issue. They are noted before the other slots, whose checks and waits concern
the positions the mask selects. -/
def execSelection (p c r : Nat) (s : State) : Res :=
  let t := s.iss.t0
  match s.phase with
  | .check => .next (s.modIss (fun i => { i with fl := { i.fl with rm := t.rmReg r, cm := t.cmReg c, pm := t.pmReg p } }))
  | .wait | .commit | .cell => .next s

/-- CC `rbpop` (R62): waits for a queued word, pops it and makes it the current word. -/
def execRbpop (s : State) : Res :=
  let t := s.iss.t0
  let w := t.rng.queue.headD 0
  atIssue s [] (s.stallIf t.rng.queue.isEmpty)
    ((s.modT (fun t => { t with rng := { t.rng with w := w, n := t.rng.n + 1, queue := t.rng.queue.tail } })).modIss
      (fun i => { i with fl := { i.fl with w := w } }))

/-- CC `rot` (R60). -/
def execRotCc (s : State) : Res := atIssue s [] s (s.modIss (fun i => { i with rotcc := true }))

/-- CC stage shift (R61). It is noted before the other slots, since `loop` reads the shifted stages (R169). -/
def execSshift (n : Nat) (s : State) : Res :=
  match s.phase with
  | .check => .next (s.modIss (fun i => { i with sshift := n }))
  | .wait | .commit | .cell => .next s

/-! ## The head's events -/

/-- A core cycle in which the head of a running task issues nothing (R25). -/
def execBubble (head : Nat) (s : State) : Res :=
  match s.taskAt head with
  | none => .next s
  | some t => event s (s.inStep t) { s.onTask t State.bubble with t := default }

/-- Dandelion appends the next word to the random-bit queue, which holds 64 (R53, R62, R108). -/
def execRandomWordRefill (head : Nat) (s : State) : Res :=
  match s.taskAt head with
  | none => .next s
  | some t =>
    event s (decide (t.rng.queue.length < 64))
      (s.putTask { t with rng := { t.rng with queue := t.rng.queue ++ [dandelion t.rng.key (t.rng.n + t.rng.queue.length)] } })

/-- The core cycle after the module's at which the next refresh window opens (R188). -/
def State.nextWindow (s : State) : Nat := (s.cycle / 256 + 1) * 256

/-- A head injects bubbles up to a core cycle (R25). -/
def Task.idleTo (t : Task) (cycle : Nat) : Task :=
  if t.ctl.running && decide (t.ctl.now < cycle) then { t with ctl := { t.ctl with cyc := t.ctl.cyc + (cycle - t.ctl.now), now := cycle } } else t

/-- A bank enters its refresh window (R188): the core cycles up to it pass for the whole module, PH reaching 256 × bank. -/
def execWeightStoreRefresh (bank : Nat) (s : State) : Res :=
  event s (decide (bank < 64) && bank == s.nextWindow / 256 % 64)
    { s with cycle := s.nextWindow, tasks := s.tasks.map (fun e => (e.1, e.2.idleTo s.nextWindow)) }

end Sys2Proof.Machine
end

