-- ==== Sys2Proof/Machine/SaveArea.lean ====
section
/-! DEFINITION. Sys2Proof/Machine/SaveArea.lean: the image of a pre-empted task (R348 to R351): what is written into it and what
resumption reads back. -/
namespace Sys2Proof.Machine

/-- Bytes of an image: offset, size, value. -/
structure Blob where
  off : Nat
  size : Nat
  val : Nat
  deriving DecidableEq, Repr, Inhabited

/-- Fields of `w` bits as one number, the first lowest. -/
def joinBits (w : Nat) (l : List Nat) : Nat := l.foldr (fun v a => v % 2 ^ w + 2 ^ w * a) 0

/-- CB of R349. -/
def Header.cellBytes (h : Header) : Nat := 128 * h.vregs + 512 + 1024 * h.atiles + 4096 + 128 * (h.crows + h.spill)

/-- Offset of the edge block of position `j`. -/
def Header.edgeAt (h : Header) (j : Nat) : Nat := 0x8000 + j * (0x110000 + 1024 * h.cellBytes)

/-- Offset of the cell block of a cell. -/
def Header.cellAt (h : Header) (j r c : Nat) : Nat := h.edgeAt j + 0x110000 + (32 * r + c) * h.cellBytes

/-- A token slot as R350 stores it. -/
def TokSlot.bits (k : TokSlot) : Nat := k.st.code + k.status % 256 * 2 ^ 8 + k.opcode % 256 * 2 ^ 16 + k.buf % 4096 * 2 ^ 24

/-- A ring as R350 stores it. -/
def Ring.bits (r : Ring) : Nat := joinBits 32 [r.p.toNat, r.c.toNat, r.ip.toNat, r.ic.toNat]

/-- A drain queue's attachment as R350 stores it. -/
def DqAtt.bits (d : DqAtt) : Nat := (if d.attached then (if d.pending then 2 else 1) else 0) + d.eng * 2 ^ 8

/-- The held allocation failure whose trap is taken next: the lowest position's first (R338). -/
def firstAlloc (l : List AllocTrap) : Option AllocTrap := l.find? (fun a => l.all (fun b => decide (a.pos ≤ b.pos)))

/-- PEND of R350. -/
def Task.pend (t : Task) : Nat := match firstAlloc t.allocs with | some a => 2 ^ 63 + a.tval.toNat % 2 ^ 37 | none => 0

/-- The fields of the sequencer block, event queue and EVOVF apart, that engines go on changing while the task is pre-empted (R347): token
slots, counts of rings, attachments, PEND. -/
def Task.engineBlobs (t : Task) : List Blob :=
  (List.range 64).map (fun k => ⟨0x400 + 8 * k, 8, (t.tokAt k).bits⟩) ++
  (List.range 32).flatMap (fun n =>
    let r := match t.ring? n with | some r => [r.p, r.c, r.ip, r.ic] | none => [0, 0, 0, 0]
    r.zipIdx.map (fun x => ⟨0xD00 + 16 * n + 4 * x.2, 4, x.1.toNat⟩)) ++
  (List.range 4).map (fun q => ⟨0xF00 + 8 * q, 8, (t.dqAtt q).bits⟩) ++ [⟨0xA98, 8, t.pend⟩]

/-- The sequencer block (R350), its private regions apart. -/
def Task.seqBlobs (t : Task) : List Blob :=
  t.engineBlobs ++
  [⟨0x600, 1024, joinBits 128 (t.evq.map (·.toNat))⟩,
   ⟨0xA18, 8, t.sys.status.toNat⟩,
   ⟨0xA88, 8, t.evq.length⟩,
   ⟨0, 512, joinBits 64 ((List.range 64).map (fun i => (t.sReg i).toNat))⟩,
   ⟨0x200, 8, joinBits 1 ((List.range 16).map (fun i => b2n (t.qReg i)))⟩,
   ⟨0x208, 16, joinBits 32 ((List.range 4).map (fun i => (t.lcReg i).toNat))⟩,
   ⟨0x220, 64, joinBits 32 ((List.range 16).map (fun i => (t.rmReg i).toNat))⟩,
   ⟨0x260, 64, joinBits 32 ((List.range 16).map (fun i => (t.cmReg i).toNat))⟩,
   ⟨0x2A0, 128, joinBits 64 ((List.range 16).map (fun i => (t.pmReg i).toNat))⟩,
   ⟨0x320, 64, joinBits 32 ((List.range 16).map (fun i => (t.ftReg i).toNat))⟩,
   ⟨0xA00, 24, joinBits 64 [t.ctl.pc, t.ctl.bcnt, t.ctl.cyc]⟩,
   ⟨0xA20, 104, joinBits 64 [t.sys.fpf.toNat, t.sys.fpev.toNat, t.sys.cause.toNat, t.sys.epc.toNat, t.sys.tval.toNat,
      t.sys.fmask.toNat, t.ctl.sp, t.ctl.ovp, t.rng.key.toNat, t.rng.n, t.rng.w.toNat, t.sys.depth % 4,
      b2n t.ctl.aggAny + 2 * b2n t.ctl.aggAll + 4 * b2n t.ctl.aggPend.isSome]⟩,
   ⟨0xA90, 8, (match t.ctl.arrived with | some (l, _) => 1 + 2 * l | none => 0)⟩,
   ⟨0xB00, 512, joinBits 64 (t.rng.queue.map (·.toNat))⟩]

/-- The rows of a queue at a position that have not been popped. -/
def Task.liveRows (t : Task) (j q : Nat) : List DrainRow := ((t.posAt j).rows q).filter (fun r => !r.popped)

/-- The edge block of position `j` (R351), its private region apart. -/
def Task.edgeBlobs (t : Task) (j : Nat) : List Blob :=
  let b := t.prog.hdr.edgeAt j
  let p := t.posAt j
  p.north.map (fun e => ⟨b + 128 * e.1, 128, e.2.toNat⟩) ++ p.west.map (fun e => ⟨b + 0x1000 + 128 * e.1, 128, e.2.toNat⟩) ++
  [⟨b + 0x6000, 32, joinBits 64 ((List.range 4).map (fun q => (t.liveRows j q).length))⟩] ++
  (List.range 4).flatMap (fun q => (t.liveRows j q).zipIdx.flatMap (fun r =>
    r.1.slots.map (fun e => ⟨b + 0x10000 + q * 0x40000 + r.2 * 0x8000 + 1024 * e.1, 1024, e.2.toNat⟩)))

/-- Where a cell-SRAM row lies among the data rows of the block. -/
def Header.rowSlot (h : Header) (row : Nat) : Nat := if row < h.crows then row else h.crows + (row - (2048 - h.spill))

/-- The cell block of a cell (R351), its private region apart. -/
def Task.cellBlobs (t : Task) (key : Nat) (z : Cell) : List Blob :=
  let h := t.prog.hdr
  let b := h.cellAt (key / 1024) (key % 1024 / 32) (key % 32)
  let v := b + 128 * h.vregs
  let d := v + 512 + 1024 * h.atiles + 4096
  (z.v.filter (fun e => decide (e.1 < h.vregs))).map (fun e => ⟨b + 128 * e.1, 128, e.2.toNat⟩) ++
  z.p.map (fun e => ⟨v + 4 * e.1, 4, e.2.toNat⟩) ++
  [⟨v + 96, 4, b2n z.flag⟩, ⟨v + 128, 128, z.x.toNat⟩, ⟨v + 256, 128, z.h1.toNat⟩, ⟨v + 384, 128, z.h2.toNat⟩] ++
  (z.tiles.filter (fun e => decide (e.1 < h.atiles))).map (fun e => ⟨v + 512 + 1024 * e.1, 1024, e.2.toNat⟩) ++
  z.sram.map (fun e => ⟨d + 128 * h.rowSlot e.1, 128, e.2.toNat⟩)

/-- The device-private regions of an image: offset, size. -/
def Header.privateRegions (h : Header) : List (Nat × Nat) :=
  [(0x1000, 4096), (0x2000, 24576)] ++
  (List.range h.chain).flatMap (fun j => (h.edgeAt j + 0x2000, 16384) ::
    (List.range 1024).map (fun k => (h.cellAt j (k / 32) (k % 32) + 128 * h.vregs + 512 + 1024 * h.atiles, 4096)))

/-- What a private region holds after a save (log entry 14). -/
def privateVal (save : Nat) (r : Nat × Nat) : Nat := Config.freePrivate save r.1 % 2 ^ (8 * r.2)

/-- Write bytes of an image. -/
def State.putBlob (s : State) (a : Nat) (b : Blob) : State :=
  s.modMem (fun m =>
    let h := wrZero m.hbm (a + b.off) (a + b.off + b.size)
    { m with hbm := if b.val = 0 then h else wrNat h (a + b.off) b.size b.val })

/-- Save the image of a task (R347 step 3). -/
def State.saveImage (s : State) (t : Task) : State :=
  let h := t.prog.hdr
  let a := t.ctl.img
  let s := s.clearDev a h.imageSize
  let blobs := t.seqBlobs ++ (List.range h.chain).flatMap t.edgeBlobs ++ t.cells.flatMap (fun e => t.cellBlobs e.1 e.2) ++
    h.privateRegions.map (fun r => ⟨r.1, r.2, privateVal s.free r⟩)
  (blobs.filter (fun b => b.val != 0)).foldl (fun s b => s.putBlob a b) s

/-- A completion record enters the event queue of an image, which holds 64 (R229, R347); a full one sets EVOVF. -/
def State.imageEvent (s : State) (a : Nat) (r : BitVec 128) : State :=
  let n := s.devRd (a + 0xA88) 8 % 128
  if n < 64 then (s.putBlob a ⟨0x600 + 16 * n, 16, r.toNat⟩).putBlob a ⟨0xA88, 8, n + 1⟩
  else s.putBlob a ⟨0xA18, 1, s.devRd (a + 0xA18) 1 ||| 2 ^ 5⟩

/-- Put back a task that an engine has changed: where it is pre-empted, what has changed follows in its image, whose other bytes stay as a
debugger may have written them (R347 step 4, R353). -/
def State.putEng (s : State) (t : Task) : State :=
  let old := (fget? s.tasks t.id.uid).getD t
  let s := s.putTask t
  if t.ctl.running || t.ctl.placed then s
  else
    let s := ((t.engineBlobs.zip old.engineBlobs).filter (fun x => x.1 != x.2)).foldl (fun s x => s.putBlob t.ctl.img x.1) s
    let s := (t.evq.drop old.evq.length).foldl (fun s r => s.imageEvent t.ctl.img r) s
    if t.sys.evovf && !old.sys.evovf then s.putBlob t.ctl.img ⟨0xA18, 1, s.devRd (t.ctl.img + 0xA18) 1 ||| 2 ^ 5⟩ else s

/-! ## Reading back -/

/-- The part of a memory between two addresses. -/
def window (m : Mem) (a n : Nat) : Mem := m.filter (fun c => decide (a ≤ c.1 ∧ c.1 < a + n))

/-- A table of `n` values of `size` bytes from address `a` on: those that are not zero. -/
def readTable {α : Type} (m : Mem) (a n size : Nat) (mk : Nat → α) : FMap α :=
  let w := window m a (n * size)
  if w.isEmpty then []
  else (List.range n).filterMap (fun i =>
    let v := rdNat w (a + i * size) size
    if v = 0 then none else some (i, mk v))

/-- A table whose unlisted value is not zero. -/
def readFull {α : Type} [DecidableEq α] (m : Mem) (a n size : Nat) (d : α) (mk : Nat → α) : FMap α :=
  (List.range n).foldl (fun f i => fset f d i (mk (rdNat m (a + i * size) size))) []

/-- A token slot read back; the group it waits for is not in the image. -/
def TokSlot.reread (k : TokSlot) (v : Nat) : TokSlot :=
  { k with st := (match v % 4 with | 0 => .free | 1 => .busy | 2 => .complete | _ => .error), status := bitsAt v 8 8,
           opcode := bitsAt v 16 8, buf := bitsAt v 24 12 }

/-- A ring read back. -/
def Ring.reread (r : Ring) (v : Nat) : Ring :=
  { r with p := BitVec.ofNat 32 v, c := BitVec.ofNat 32 (v / 2 ^ 32), ip := BitVec.ofNat 32 (v / 2 ^ 64), ic := BitVec.ofNat 32 (v / 2 ^ 96) }

/-- An attachment read back. -/
def DqAtt.reread (d : DqAtt) (v : Nat) : DqAtt :=
  { d with attached := decide (v % 4 ≠ 0), pending := v % 4 == 2, eng := bitsAt v 8 2 }

/-- `$status`, STG and the doublewords of R350 read back; `w i` is doubleword i of the block at 0x0A00. -/
def SysRegs.reread (y : SysRegs) (w : Nat → Nat) : SysRegs :=
  let st := w 3
  { y with tm := bitAt st 0, il := bitAt st 1, sm := bitAt st 2, feven := bitAt st 3, stovf := bitAt st 4, evovf := bitAt st 5,
           sv := bitsAt st 8 4, rotbase := bitsAt st 22 11, rotsz := bitsAt st 33 11, fpf := BitVec.ofNat 64 (w 4),
           fpev := BitVec.ofNat 64 (w 5), cause := BitVec.ofNat 64 (w 6), epc := BitVec.ofNat 64 (w 7), tval := BitVec.ofNat 64 (w 8),
           fmask := BitVec.ofNat 64 (w 9), depth := if bitsAt (w 15) 0 2 = 0 then 4 else bitsAt (w 15) 0 2 }

/-- The sequencer block read back (R347, R353). -/
def Task.rereadSeq (t : Task) (m : Mem) (a : Nat) : Task :=
  let w (i : Nat) : Nat := rdNat m (a + 0xA00 + 8 * i) 8
  { t with
    r := { s := readTable m a 64 8 (BitVec.ofNat 64)
           q := (List.range 15).foldl (fun f i => fset f false i (bitAt (rdNat m (a + 0x200) 2) i)) []
           lc := readTable m (a + 0x208) 4 4 (BitVec.ofNat 32)
           rm := readFull m (a + 0x220) 16 4 onesW (BitVec.ofNat 32)
           cm := readFull m (a + 0x260) 16 4 onesW (BitVec.ofNat 32)
           pm := readFull m (a + 0x2A0) 16 8 onesD (BitVec.ofNat 64)
           ft := readTable m (a + 0x320) 16 4 (BitVec.ofNat 32) }
    tok := (List.range 63).foldl (fun f k => fset f ⟨.free, 0, 0, 0, 0⟩ k ((t.tokAt k).reread (rdNat m (a + 0x400 + 8 * k) 8))) []
    evq := (List.range (min 64 (w 17 % 128))).map (fun k => BitVec.ofNat 128 (rdNat m (a + 0x600 + 16 * k) 16))
    ctl := { t.ctl with pc := w 0, bcnt := w 1, cyc := w 2, sp := w 10, ovp := w 11, aggAny := bitAt (w 16) 0, aggAll := bitAt (w 16) 1,
                           aggPend := if bitAt (w 16) 2 then t.ctl.aggPend.or (some (w 1)) else none }
    sys := t.sys.reread w
    rng := { key := BitVec.ofNat 64 (w 12), n := w 13, w := BitVec.ofNat 64 (w 14),
             queue := (List.range t.rng.queue.length).map (fun k => BitVec.ofNat 64 (rdNat m (a + 0xB00 + 8 * k) 8)) }
    rings := t.rings.map (fun e => (e.1, e.2.reread (rdNat m (a + 0xD00 + 16 * e.1) 16)))
    dq := (List.range 4).foldl (fun f q => fset f default q ((t.dqAtt q).reread (rdNat m (a + 0xF00 + 8 * q) 8))) []
    allocs :=
      let tval : DWord := BitVec.ofNat 64 (w 19 % 2 ^ 37)
      match firstAlloc t.allocs with
      | some x => if bitAt (w 19) 63 then t.allocs.map (fun y => if y == x then { x with tval := tval } else y) else t.allocs.erase x
      | none => if bitAt (w 19) 63 then [⟨none, bitsAt tval.toNat 30 6, tval, 0xFFFF⟩] else [] }

/-- The edge block of position `j` read back. -/
def Task.rereadEdge (t : Task) (m : Mem) (a j : Nat) : Task :=
  let b := a + t.prog.hdr.edgeAt j
  let p := t.posAt j
  let rows (q : Nat) : List DrainRow :=
    (List.range (min 8 (rdNat m (b + 0x6000 + 8 * q) 8 % 16))).map (fun k =>
      let old := (t.liveRows j q).getD k { n := t.ctl.bcnt, slots := [], have_ := (List.range 32).map (fun i => (i, 1)), popped := false }
      { old with slots := readTable m (b + 0x10000 + q * 0x40000 + k * 0x8000) 32 1024 (BitVec.ofNat 8192) })
  { t with pos := fset t.pos default j { p with
      north := readTable m b 32 128 (BitVec.ofNat 1024), west := readTable m (b + 0x1000) 32 128 (BitVec.ofNat 1024),
      dq := (List.range 4).foldl (fun f q => fset f [] q (rows q)) [] } }

/-- The cell block of a cell read back. -/
def Task.rereadCell (t : Task) (m : Mem) (a key : Nat) : Task :=
  let h := t.prog.hdr
  let b := a + h.cellAt (key / 1024) (key % 1024 / 32) (key % 32)
  let m := window m b h.cellBytes
  let v := b + 128 * h.vregs
  let d := v + 512 + 1024 * h.atiles + 4096
  let z := fget t.cells default key
  { t with cells := fset t.cells default key { z with
      v := readTable m b h.vregs 128 (BitVec.ofNat 1024), p := readTable m v 24 4 (BitVec.ofNat 32),
      flag := bitAt (rdNat m (v + 96) 1) 0, x := BitVec.ofNat 1024 (rdNat m (v + 128) 128),
      h1 := BitVec.ofNat 1024 (rdNat m (v + 256) 128), h2 := BitVec.ofNat 1024 (rdNat m (v + 384) 128),
      tiles := readTable m (v + 512) h.atiles 1024 (BitVec.ofNat 8192),
      sram := (readTable m d (h.crows + h.spill) 128 (BitVec.ofNat 1024)).map (fun e =>
        (if e.1 < h.crows then e.1 else 2048 - h.spill + (e.1 - h.crows), e.2)) } }

/-- The arrival at a barrier the image records (BAR of R350). -/
def State.rereadBar (s : State) (t : Task) : Option (Nat × Nat) :=
  let v := s.devRd (t.ctl.img + 0xA90) 8
  let lvl := bitsAt v 1 2
  if !bitAt v 0 then none
  else match t.ctl.arrived with
    | some (l, g) => if l = lvl then some (l, g) else some (lvl, if lvl = 3 then 3 else (s.barFind t.id.ctx lvl (t.barGroup lvl)).gen)
    | none => some (lvl, if lvl = 3 then 3 else (s.barFind t.id.ctx lvl (t.barGroup lvl)).gen)

/-- The task as its image says (R347). -/
def State.readImage (s : State) (t : Task) : Task :=
  let h := t.prog.hdr
  let a := t.ctl.img
  let m := window s.mem.hbm a h.imageSize
  let t := t.rereadSeq m a
  let bar := s.rereadBar t
  let t := { t with ctl := { t.ctl with arrived := bar, own := if bar.isSome then t.ctl.own else none } }
  let t := (List.range h.chain).foldl (fun t j => t.rereadEdge m a j) t
  (List.range (1024 * h.chain)).foldl (fun t k => t.rereadCell m a k) t

/-- The first private region of the image that no longer holds what the save wrote (R351), by its offset. -/
def State.imageBroken? (s : State) (t : Task) : Option Nat :=
  let a := t.ctl.img
  let m := window s.mem.hbm a t.prog.hdr.imageSize
  (t.prog.hdr.privateRegions.find? (fun r => rdNat m (a + r.1) r.2 != privateVal t.ctl.imgKey r)).map (·.1)

/-- Every error among bytes of HBM4E that are read is corrected, or poisoned and counted (R354 to R356). -/
def State.rangeTouch (s : State) (a n : Nat) : State :=
  (s.mem.err.filter (fun e => decide (64 * e.1 < a + n ∧ a < 64 * e.1 + 64))).foldl (fun s e => s.burstTouch e.1) s

/-- The record of a fault in device state of a context, which no bundle raises (R344, R346; the spec gives its EPC no value, log
entry 10). -/
def State.stateFault (s : State) (t : Task) (kind tval : Nat) : FaultRec :=
  t.faultRec (0xB0 + kind + 2 ^ 8) tval (Config.freeEpc s.free % 2 ^ 32) 0

/-- A record that concerns the array at chain position `j` (R346). -/
def Task.recAt (t : Task) (r : FaultRec) (j : Nat) : FaultRec := { r with die := t.dieAt j, arr := t.id.head + j, pos := j }

/-- The record of an uncorrectable error that a save of a task reads (R346, R352, R355): of the sequencer, then of the cells, then of the
edge loaders; the order is open (log entry 25). -/
def State.saveFault (s : State) (t : Task) : Option FaultRec :=
  let r := s.stateFault t 11 (Config.freeTval s.free % 2 ^ 64)
  if t.errs.any (·.hard) then some r
  else
    match t.cells.findSome? (fun x => (x.2.errs.find? (·.hard)).map (fun e => (x.1, e))) with
    | some (k, e) => some { t.recAt r (k / 1024) with tval := s.errTval e, row := k % 1024 / 32, col := k % 32 }
    | none => (t.pos.find? (fun x => x.2.errs.any (·.hard))).map (fun x => t.recAt r x.1)

/-- A save reads all the storage of a task: every error in it is corrected and counted (R354). -/
def Task.cleaned (t : Task) : Task :=
  { t with errs := [], cells := t.cells.map (fun e => (e.1, { e.2 with errs := [] })), pos := t.pos.map (fun e => (e.1, { e.2 with errs := [] })) }

/-- The dies whose history counts the errors that corrects, one for each. -/
def Task.errDies (t : Task) : List Nat :=
  t.errs.map (fun _ => t.die) ++ t.cells.flatMap (fun e => e.2.errs.map (fun _ => t.dieAt (e.1 / 1024))) ++
  t.pos.flatMap (fun e => e.2.errs.map (fun _ => t.dieAt e.1))

/-- The device address of the first uncorrectable burst among bytes of HBM4E (R346, R352, R355). -/
def State.badBurst? (s : State) (a n : Nat) : Option Nat :=
  let hit (k : Nat) : Bool := decide (64 * k < a + n ∧ a < 64 * k + 64)
  let bad := (s.mem.poison.filter (fun e => hit e.1 && e.2 != 0)).map (·.1) ++ (s.mem.err.filter (fun e => hit e.1 && decide (3 ≤ e.2))).map (·.1)
  (bad.min?).map (64 * ·)

/-- What is wrong with the image of a task (R352): its first uncorrectable burst, else its first private region that fails its check. -/
def State.imageBad? (s : State) (t : Task) : Option Nat :=
  (s.badBurst? t.ctl.img t.prog.hdr.imageSize).or ((s.imageBroken? t).map (t.ctl.img + ·))

end Sys2Proof.Machine
end

