-- ==== Sys2Proof/Machine/Engine.lean ====
section
/-! DEFINITION. Sys2Proof/Machine/Engine.lean: what every engine command shares: issue and queues (R225), tokens (R217), acceptance
(R226, R227), completion (R228 to R230), faults (R191, R342), endpoints (R234), accesses over the link (R323), and drain-queue
attachment (R233). -/
namespace Sys2Proof.Machine

/-! ## Fields of a command -/

/-- Bits of pack register `i`. -/
def Cmd.fld (c : Cmd) (i lo len : Nat) : Nat := field (c.pack.getD i 0) lo len
/-- Pack register `i` whole. -/
def Cmd.reg (c : Cmd) (i : Nat) : Nat := (c.pack.getD i 0).toNat
/-- Engine class. -/
def Cmd.cls (c : Cmd) : Nat := c.opcode / 16
/-- The source its faults are charged to (R191). -/
def Cmd.src (c : Cmd) : Nat := if c.cls ≤ 3 then 9 else 10

/-- Bits outside `mask` in a pack register. -/
def extra (p : List DWord) (i mask : Nat) : Bool := (p.getD i 0).toNat &&& mask != (p.getD i 0).toNat

/-- `len` ones from bit `lo` on. -/
def ones (lo len : Nat) : Nat := (2 ^ len - 1) * 2 ^ lo

/-- Change command `id`. -/
def State.setCmd (s : State) (c : Cmd) : State := s.modEng (fun g => { g with cmds := g.cmds.map (fun d => if d.id == c.id then c else d) })

/-- Command `id`. -/
def State.cmd? (s : State) (id : Nat) : Option Cmd := s.eng.cmds.find? (fun c => c.id == id)

/-- The task of a command, while it lives. -/
def State.taskOf (s : State) (uid : Nat) : Option Task := fget? s.tasks uid

/-! ## Issue (R217, R225) -/

/-- Slots a command consumes. -/
def consumed (f : FmtE) : List Nat := [f.c0, f.c1, f.c2].filter (fun n => n != 63)

/-- A consumed slot that is FREE traps (R217). -/
def tokFails (s : State) (f : FmtE) : List Fail :=
  (consumed f).flatMap (fun n => check ((s.iss.t0.tokAt n).st != .free) (failRange 8 n))

/-- The checks of an E command of `n` pack registers: `res` tells reserved bits in its pack, `more` are its own. Of a pack that runs past
s63 no field is checked (log entry 71). -/
def engineFails (s : State) (f : FmtE) (n : Nat) (res : List DWord → Bool) (more : List Fail) : List Fail :=
  if 64 < f.pack + n then failRange 8 f.pack :: tokFails s f
  else tokFails s f ++ check (!res (s.iss.t0.packRegs f.pack n)) (failSlot s 8 1) ++ more

/-- The positions that get an instance (R49). -/
def instances (t : Task) (f : FmtE) : List Nat := if f.ap = 1 then List.range t.len else [0]

/-- The commands of a task in its queue of a class on a die (R225). -/
def State.inQueue (s : State) (uid cls die : Nat) : List Cmd :=
  s.eng.cmds.filter (fun c => c.task == uid && c.cls == cls && c.die == die && c.st == .queued)

/-- A queue has no room for the instances it would receive. -/
def State.queueFull (s : State) (t : Task) (f : FmtE) (cls : Nat) : Bool :=
  (instances t f).any (fun j =>
    decide (16 < (s.inQueue t.id.uid cls (t.dieAt j)).length + (instances t f).countP (fun k => t.dieAt k == t.dieAt j)))

/-- The waits of an E command: a BUSY produce slot, a full queue. -/
def engineWait (s : State) (f : FmtE) (cls : Nat) : State :=
  s.stallIf (((s.iss.t0.tokAt f.produce).st == .busy) || (cls != 0 && s.queueFull s.iss.t0 f cls))

/-- What a command is bound to for a consumed slot (R217). -/
def bindOf (t : Task) (n : Nat) : Option Binding :=
  match (t.tokAt n).st with
  | .busy => some (.group (t.tokAt n).group)
  | .error => some .error
  | _ => none

/-- The buffer the head records for a producer (R286). -/
def bufOf (cls : Nat) (p : List DWord) : Nat := if cls = 6 then field (p.getD 0 0) 0 12 else 0

/-- The producer of slot c0 is a `vxinv` of the buffer (R286). -/
def vxinvProducer (t : Task) (f : FmtE) (buf : Nat) : Bool :=
  f.c0 != 63 && (t.tokAt f.c0).opcode == 0x63 && (t.tokAt f.c0).buf == buf

/-- Instance number `k`, at position `j`, of the command at issue. -/
def newCmd (s : State) (i : Instr) (f : FmtE) (opcode n k j : Nat) : Cmd :=
  let t := s.iss.t0
  let p := t.packRegs f.pack n
  { (default : Cmd) with
    id := s.eng.nextCmd + k, op := i, opcode := opcode, oc := f.oc, pf := f.pf == 1, scope := f.scope, slot := f.produce,
    group := s.eng.nextGroup, task := t.id.uid, taskid := t.id.taskid, ctx := t.id.ctx, head := t.id.head, die := t.dieAt j,
    dies := ((instances t f).map t.dieAt).eraseDups,
    pos := j, n := s.iss.n, addr := s.iss.addr, handler := t.sys.tm, pack := p, cons := (consumed f).filterMap (bindOf t),
    vxinvOk := vxinvProducer t f (field (p.getD 0 0) 0 12), st := .queued }

/-- The group of the command at issue. -/
def newGroup (s : State) (f : FmtE) (opcode : Nat) : Group :=
  ⟨s.eng.nextGroup, s.iss.t0.id.uid, f.produce, opcode, s.iss.addr, f.ev == 1, f.scope, (instances s.iss.t0 f).length, [], none⟩

/-- The produce slot enters BUSY. -/
def Task.produce (t : Task) (f : FmtE) (group opcode buf : Nat) : Task :=
  if f.produce = 63 then t else t.setTok f.produce ⟨.busy, 0, group, opcode, buf⟩

/-- Enter the command at issue into its queues (R225). -/
def State.enqueue (s : State) (i : Instr) (f : FmtE) (opcode n : Nat) : State :=
  let l := instances s.iss.t0 f
  let g := newGroup s f opcode
  let cs := l.zipIdx.map (fun x => newCmd s i f opcode n x.2 x.1)
  (s.modEng (fun e => { e with groups := e.groups ++ [g], cmds := e.cmds ++ cs, nextGroup := e.nextGroup + 1,
                               nextCmd := e.nextCmd + l.length })).modT
    (fun t => t.produce f g.id opcode (bufOf (opcode / 16) (s.iss.t0.packRegs f.pack n)))

/-- An E command of classes 1 to 6. -/
def engineOp (s : State) (i : Instr) (f : FmtE) (opcode n : Nat) (res : List DWord → Bool) (more : List Fail) : Res :=
  atIssue s (engineFails s f n res more) (engineWait s f (opcode / 16)) (s.enqueue i f opcode n)

/-- `nop` of E (R85). -/
def execNopE (s : State) : Res := atIssue s [] s s

/-! ## Completion (R228 to R230) -/

/-- What a command reports: position, status, COUNT, ELEM, AUX. -/
structure Report where
  pos : Nat
  status : Nat
  count : Nat
  elem : Nat
  aux : Nat
  deriving DecidableEq, Repr, Inhabited

/-- The sum of two AUX fields: two counts that saturate at 4,095 in classes 4 and 5 (R246, R254). -/
def auxSum (cls a b : Nat) : Nat :=
  if cls = 4 ∨ cls = 5 then min 4095 (a / 2 ^ 12 + b / 2 ^ 12) * 2 ^ 12 + min 4095 (a % 2 ^ 12 + b % 2 ^ 12) else a + b

/-- The report of a group from its instances' reports, lowest position first (R230). -/
def joinReports (cls : Nat) (l : List Report) : Report :=
  let count := l.foldl (fun a r => a + r.count) 0
  let aux := l.foldl (fun a r => auxSum cls a r.aux) 0
  match l.find? (fun r => decide (2 ≤ r.status)) with
  | some r => ⟨r.pos, r.status, count, r.elem, aux⟩
  | none =>
    match l.find? (fun r => r.status == 1) with
    | some r => ⟨r.pos, 1, count, count, aux⟩
    | none => ⟨0, 0, count, count, aux⟩

/-- 2^24 - 1 at most. -/
def sat24 (n : Nat) : Nat := min n (2 ^ 24 - 1)

/-- The completion record of R229. -/
def Report.bits (r : Report) (opcode slot addr : Nat) : BitVec 128 :=
  BitVec.ofNat 128 (sat24 r.aux * 2 ^ 104 + sat24 r.elem * 2 ^ 80 + sat24 r.count * 2 ^ 56 + r.status % 256 * 2 ^ 48 +
    opcode * 2 ^ 40 + slot * 2 ^ 34 + r.pos * 2 ^ 28 + addr % 2 ^ 28)

/-- A group's command completes in its task: the status enters the slot, and the record the event queue (R229). -/
def Task.complete (t : Task) (g : Group) (r : Report) : Task :=
  let k := t.tokAt g.slot
  let t := if g.slot = 63 then t
    else t.setTok g.slot { k with st := if r.status < 2 then .complete else .error, status := r.status }
  if g.ev then
    if t.evq.length < 64 then { t with evq := t.evq ++ [r.bits g.opcode g.slot g.addr] }
    else { t with sys := { t.sys with evovf := true } }
  else t

/-- The AUX of a command (R229, R246, R254). -/
def Cmd.aux (c : Cmd) : Nat :=
  match c.cls with
  | 1 => c.dropped
  | 2 => c.bad
  | 3 => c.bad
  | 4 | 5 => min 4095 c.dropped * 2 ^ 12 + min 4095 c.bad
  | _ => 0

/-- The report of a finished instance. -/
def Cmd.report (c : Cmd) : Report := ⟨c.pos, c.status, c.elem, c.elem, c.aux⟩

/-- Insert a report by position. -/
def addReport (l : List (Nat × Nat × Nat × Nat × Nat)) (r : Report) : List (Nat × Nat × Nat × Nat × Nat) :=
  match l with
  | [] => [(r.pos, r.status, r.count, r.elem, r.aux)]
  | x :: t => if r.pos < x.1 then (r.pos, r.status, r.count, r.elem, r.aux) :: x :: t else x :: addReport t r

/-- Groups that nothing needs any more leave. -/
def Engines.tidy (e : Engines) : Engines :=
  { e with groups := e.groups.filter (fun g => g.result.isNone || e.cmds.any (fun c => c.cons.contains (.group g.id))) }

/-- A finished instance leaves, and its group completes with the last one. -/
def State.finishCmd (s : State) (c : Cmd) : State :=
  match s.eng.groups.find? (fun g => g.id == c.group) with
  | none => s.modEng (fun e => { e with cmds := e.cmds.filter (fun d => d.id != c.id) })
  | some g =>
    let g1 := { g with got := addReport g.got c.report }
    let put (s : State) (g : Group) : State := s.modEng (fun e =>
      ({ e with cmds := e.cmds.filter (fun d => d.id != c.id), groups := e.groups.map (fun h => if h.id == g.id then g else h) } : Engines).tidy)
    if g1.got.length < g.want then put s g1
    else
      let r := joinReports c.cls (g1.got.map (fun x => ⟨x.1, x.2.1, x.2.2.1, x.2.2.2.1, x.2.2.2.2⟩))
      let s := match s.taskOf g.task with
        | some t => s.putEng (t.complete g r)
        | none => s
      put s { g1 with result := some r.status }

/-! ## Starting (R207, R226, R227) -/

/-- Results of the acceptance checks, each true where it passes, and how many elements there are. -/
structure Accept where
  param : Bool
  range : Bool
  align : Bool
  overlap : Bool
  state : Bool
  total : Nat
  deriving DecidableEq, Repr, Inhabited

/-- The status the first failing check gives, 0 where none fails (R227). -/
def Accept.status (a : Accept) : Nat :=
  if !a.param then 5 else if !a.range then 6 else if !a.align then 4 else if !a.overlap then 3 else if !a.state then 7 else 0

/-- The producers a command is bound to have completed. -/
def State.producersDone (s : State) (c : Cmd) : Bool :=
  c.cons.all (fun b => match b with
    | .error => true
    | .group g => s.eng.groups.all (fun h => h.id != g || h.result.isSome))

/-- A consumed slot was in ERROR, or its producer has left it so. -/
def State.cancelled (s : State) (c : Cmd) : Bool :=
  c.cons.any (fun b => match b with
    | .error => true
    | .group g => s.eng.groups.any (fun h => h.id == g && (match h.result with | some r => decide (2 ≤ r) | none => false)))

/-- The earlier accesses of the command's class have performed (R207): the sequencer's, and those of the edges at every position whose die the
command touches, its own bundle's among them (R205). A command of a handler stands before the bundle with its count. -/
def State.orderedNow (s : State) (c : Cmd) : Bool :=
  match s.taskOf c.task with
  | none => true
  | some t =>
    let earlier (w : EdgeWork) : Bool := w.inst.oc == c.oc && (decide (w.inst.n < c.n) || (w.inst.n == c.n && !c.handler))
    !t.pstores.any (fun p => p.oc == c.oc && decide (p.n ≤ c.n)) &&
    !t.pos.any (fun e => c.dies.contains (t.dieAt e.1) && (e.2.ld.any earlier || e.2.st.any earlier))

/-- A guarded `nmopt` that has not read a guard yet, which holds its queue (R252). -/
def Cmd.guardWait (c : Cmd) : Bool :=
  match c.op with
  | .nmopt _ => c.st == .running && c.fld 0 24 1 == 1 && c.vals.length == 9
  | _ => false

/-- `vxpool`. -/
def Cmd.isPool (c : Cmd) : Bool := c.opcode == 0x65

/-- The command of a queue that would start now: the first, unless a started one holds the queue (R226, R252, R288, R342); a
`vxpool` issued in trap mode goes ahead of a suspended volume command (R289). -/
def State.nextStart (s : State) (uid cls die : Nat) : Option Cmd :=
  let q := s.inQueue uid cls die
  let mine := s.eng.cmds.filter (fun c => c.task == uid && c.cls == cls && c.die == die)
  if cls = 0 then q.find? s.producersDone
  else if mine.any (fun c => c.st == .allocWait) then q.find? (fun c => c.isPool && c.handler)
  else if mine.any (fun c => c.st == .faulted || c.guardWait) then none
  else q.head?

/-! ## Faults (R191, R342, R344, R346) -/

/-- The record of a fault of a command. -/
def Cmd.faultRec (c : Cmd) (cause off buf : Nat) : FaultRec :=
  ⟨cause, c.die, c.head + c.pos, c.pos, 0xFF, 0xFF, c.taskid % 2 ^ 32, c.addr, off, buf, 0, c.elem⟩

/-- A port check failed: the element stops and the driver is told, or the context ends. Accesses that failed at another module
are sent again when the command resumes. -/
def State.cmdFault (s : State) (c : Cmd) (e : PortErr) (buf : Nat) : State :=
  if e.replayable then
    ({ (s.holdEntry c.die c.ctx buf).setCmd { c with st := .faulted } with
       out := s.out.filter (fun o => o.cmd != c.id || (match o.answer with | some a => a.fail == 0 | none => true)) } : State).report
      c.ctx (c.faultRec (e.code c.src + 2 ^ 9) e.off buf)
  else (s.errSeen e).endByFault c.ctx (c.faultRec (e.code c.src + 2 ^ 8) e.off buf)

/-- A command needs its sent accesses no more; one to another module that has not performed still holds its route (R370). -/
def State.dropOut (s : State) (gone : Nat → Bool) : State :=
  { s with out := s.out.filter (fun o => !gone o.cmd || (o.answer.isNone && o.access.toModule != s.mod.modid)) }

/-- The next element has performed. -/
def State.elemDone (s : State) (c : Cmd) : State :=
  (s.setCmd { c with elem := c.elem + 1, st := if c.total ≤ c.elem + 1 then .done else .running }).dropOut (· == c.id)

/-- The command ends with a status of its own. -/
def State.endCmd (s : State) (c : Cmd) (status : Nat) : State :=
  (s.setCmd { c with st := .done, status := status }).dropOut (· == c.id)

/-! ## Shared SRAM as the engines use it -/

/-- Ranges of shared SRAM a logical range lies in, segment by segment under a swizzle (R184, R234). -/
def sramSegs (swz off len : Nat) : List (Nat × Nat) :=
  if swz = 0 then [(off, len)]
  else (List.range ((off % 128 + len + 127) / 128)).map (fun i =>
    let seg := off / 128 + i
    let lo := max off (128 * seg)
    (swizzle swz (128 * seg) + lo % 128, min (off + len) (128 * seg + 128) - lo))

/-- `n` bytes at a logical offset. -/
def State.swzRd (s : State) (die swz off len : Nat) : Nat :=
  (sramSegs swz off len).foldr (fun x a => s.sramRd die x.1 x.2 + 2 ^ (8 * x.2) * a) 0

/-- Write the pieces `l` of a range, low bytes first. -/
def State.sramPut (s : State) (die v : Nat) (l : List (Nat × Nat)) : State :=
  match l with
  | [] => s
  | x :: rest => (s.sramWr die x.1 x.2 (v % 2 ^ (8 * x.2))).sramPut die (v / 2 ^ (8 * x.2)) rest

/-- An access of an engine meets an uncorrectable word: any word it reads, a word it writes in part (R355). -/
def State.sramErrAt (s : State) (die off len : Nat) (write : Bool) : Option PortErr :=
  let k := sramKey die off
  (s.mem.sramErr.find? (fun x => x.2 == 2 && meetsWord k len x.1 && !(write && decide (k ≤ 8 * x.1 ∧ 8 * x.1 + 8 ≤ k + len)))).map
    (fun x => ⟨11, 8 * x.1 - sramKey die 0, false, none⟩)

/-- A 32-bit word of a die's shared SRAM. -/
def State.word (s : State) (die off : Nat) : Nat := s.sramRd die off 4

/-- A range lies in the partition of every die that carries an instance (R227); an empty range does. -/
def State.cmdSram (s : State) (c : Cmd) (off len : Nat) : Bool := len == 0 || c.dies.all (fun d => s.inSram c.ctx d off len)

/-- Two ranges of bytes meet. -/
def meetRanges (a b : Nat × Nat) : Bool := a.2 != 0 && b.2 != 0 && overlaps a.1 a.2 b.1 b.2

/-- No two ranges of `w` meet, and none of `w` meets one of `r` (R256). -/
def areasApart (w r : List (Nat × Nat)) : Bool :=
  decide (w.Pairwise (fun a b => meetRanges a b = false)) && w.all (fun a => r.all (fun b => !meetRanges a b))

/-! ## Accesses over the link (R323) -/

/-- The entry is a remote one. -/
def State.isRemote (s : State) (ctx k : Nat) : Bool := (s.bufEntry ctx k).remote

/-- An access to send to the module a remote entry names. -/
def State.remoteReq (s : State) (ctx k off len : Nat) (write : Bool) (amo data : Nat) : LinkAccess :=
  let e := s.bufEntry ctx k
  ⟨0, s.mod.modid, ctx, (s.ctx ctx).sdom, e.ptroot % 2 ^ 19, e.ptroot / 2 ^ 24 % 64, e.srcidx, off, len, write, amo, data, 0, 0, [], none⟩

/-- The checks made before an access is sent: bounds and rights of the entry, a route to the module (R191, R370). -/
def State.remoteErr (s : State) (ctx k off len : Nat) (write : Bool) : Option PortErr :=
  let e := s.bufEntry ctx k
  if e.size < off + len then some ⟨12, off, false, none⟩
  else if !(if write then e.wr else e.rd) then some ⟨6, off, false, none⟩
  else if !s.reachable (e.ptroot % 2 ^ 19) then some ⟨14, off, true, none⟩
  else none

/-- The same for a command: an access it has sent performs on the route it went by, whatever changes here meanwhile (R370). -/
def State.farErr (s : State) (c : Cmd) (k off len : Nat) (write : Bool) : Option PortErr :=
  if s.out.any (fun o => o.cmd == c.id && o.buf == k && o.access.write == write &&
      (!o.access.parts.isEmpty || decide (off ≤ o.access.off ∧ o.access.off < off + len)))
  then none else s.remoteErr c.ctx k off len write

/-- What comes of an exchange with memory: data, each with the stack it lies in; a wait; a failed check of a buffer. -/
inductive Got where
  | vals (l : List (Nat × Nat))
  | wait (s : State)
  | err (e : PortErr) (buf : Nat)

end Sys2Proof.Machine
namespace Sys2Proof
open Sys2Proof.Machine

/-- What tells the accesses of one element apart: everything but the number and the data. -/
def LinkAccess.shape (a : LinkAccess) : LinkAccess :=
  { a with id := 0, data := 0, parts := a.parts.map (fun p => { p with data := 0 }) }

/-- The same access of an element: one that has been sent is not sent again, whatever its source holds by now (R221). -/
def LinkAccess.same (a b : LinkAccess) : Bool := a.shape == b.shape

end Sys2Proof
namespace Sys2Proof.Machine

/-- Hand a flit to the port of a module's route; the last 1,024 are kept for replay (R357, R370). -/
def State.sendFlit (s : State) (module : Nat) (answer : Bool) (a : LinkAccess) : State :=
  let p := fget s.route 0xFF module
  if module = s.mod.modid ∨ 18 ≤ p then s
  else
    let q := fget s.ports default p
    let f : Flit := ⟨q.txSeq, true, answer, a⟩
    let kept := q.kept ++ [f]
    { s with ports := finsert s.ports p
               { q with txSeq := (q.txSeq + 1) % 4096, kept := kept.drop (kept.length - 1024), wire := q.wire ++ [.flit f] },
             mod := { s.mod with flitAt := s.ram.tick } }

/-- Accesses to a module are held while one sent on an older route has not performed (R370). -/
def State.routeHeld (s : State) (module : Nat) : Bool :=
  s.out.any (fun o => o.access.toModule == module && o.answer.isNone && o.old)

/-- Send accesses to a buffer for a command. -/
def State.send (s : State) (c : Cmd) (buf : Nat) (l : List LinkAccess) : State :=
  l.foldl (fun s a =>
    if s.routeHeld a.toModule then s
    else
      let a := { a with id := s.eng.nextAccess }
      let o : Outstanding := ⟨a, c.id, buf, none, s.ram.tick, false⟩
      ({ s with out := s.out ++ [o] }.modEng (fun e => { e with nextAccess := e.nextAccess + 1 })).sendFlit a.toModule false a) s

/-- The accesses `l` of a command over the link: sent if they have not been, then waited for (R221). -/
def State.exchange (s : State) (c : Cmd) (l : List LinkAccess) (buf : Nat) : Got :=
  let sent (a : LinkAccess) : Option Outstanding := s.out.find? (fun o => o.cmd == c.id && o.access.same a)
  let missing := l.filter (fun a => (sent a).isNone)
  if !missing.isEmpty then .wait (s.send c buf missing)
  else
    let ans := l.filterMap (fun a => (sent a).bind (·.answer))
    if ans.length < l.length then .wait s
    else match ans.find? (fun a => a.fail != 0) with
      | some a => .err ⟨a.fail % 16, a.off, decide (16 ≤ a.fail), none⟩ buf
      | none => .vals (ans.map (fun a => (a.data, a.stack)))

/-- The stack a byte of a buffer lies in (R190), whatever its page holds. -/
def State.stackOf (s : State) (die ctx k off : Nat) : Nat :=
  let e := s.usedEntry die ctx k
  e.stk.getD (off / e.granule % e.stk.length) 0

/-- Read ranges (buffer, offset, length) for a command: each through the port of its die, or over the link. -/
def State.fetch (s : State) (c : Cmd) (l : List (Nat × Nat × Nat)) : Got :=
  let bad := l.findSome? (fun x =>
    (if s.isRemote c.ctx x.1 then s.farErr c x.1 x.2.1 x.2.2 false
     else s.portErr c.die c.ctx x.1 x.2.1 x.2.2 false).map (fun e => (e, x.1)))
  match bad with
  | some (e, k) => .err e k
  | none =>
    let far := l.filter (fun x => s.isRemote c.ctx x.1)
    let one (ans : List (Nat × Nat × Nat) × List (Nat × Nat)) (x : Nat × Nat × Nat) : Nat × Nat :=
      if s.isRemote c.ctx x.1 then ((ans.1.zip ans.2).find? (fun y => y.1 == x)).elim (0, 0) (·.2)
      else (s.bufRd c.die c.ctx x.1 x.2.1 x.2.2, s.stackOf c.die c.ctx x.1 x.2.1)
    if far.isEmpty then .vals (l.map (one ([], [])))
    else match s.exchange c (far.map (fun x => s.remoteReq c.ctx x.1 x.2.1 x.2.2 false 0 0)) (far.headD (0, 0, 0)).1 with
      | .vals a => .vals (l.map (one (far, a)))
      | g => g

/-- The dies' translations and corrected bursts after a fetch. -/
def State.fetched (s : State) (c : Cmd) (l : List (Nat × Nat × Nat)) : State :=
  l.foldl (fun s x => if s.isRemote c.ctx x.1 then s else s.portTouch c.die c.ctx x.1 x.2.1 x.2.2) s

/-! ## Endpoints (R234) -/

/-- An endpoint descriptor. -/
structure EndPt where
  space : Nat
  swz : Nat
  buf : Nat
  deriving DecidableEq, Repr, Inhabited

/-- The 16 bits of an endpoint. -/
def endPt (v : Nat) : EndPt := ⟨bitsAt v 14 2, bitsAt v 12 2, bitsAt v 0 12⟩

/-- An endpoint whose reserved fields are not zero (R234); `ws` allows the weight store. -/
def EndPt.reserved (e : EndPt) (ws : Bool) : Bool :=
  e.space == 3 || (e.space == 2 && !ws) || (e.space != 0 && e.swz != 0) || (e.space != 1 && e.buf != 0)

/-- SWZ of an endpoint in shared SRAM keeps its limit 0 to 2; 3 is no reserved field but a pack value outside its limits (R227 step 2,
R234). -/
def EndPt.swzOk (e : EndPt) : Bool := e.space != 0 || e.swz != 3

/-- Read at an endpoint that is not remote. -/
def State.endRd (s : State) (c : Cmd) (e : EndPt) (off len : Nat) : Nat :=
  match e.space with
  | 0 => s.swzRd c.die e.swz off len
  | 1 => s.bufRd c.die c.ctx e.buf off len
  | _ => s.wsRd c.die off len

/-- The failing check of an access at an endpoint, before any access over the link. -/
def State.endErr (s : State) (c : Cmd) (e : EndPt) (off len : Nat) (write : Bool) : Option (PortErr × Nat) :=
  match e.space with
  | 0 => ((sramSegs e.swz off len).findSome? (fun x => s.sramErrAt c.die x.1 x.2 write)).map (fun p => (p, 0xFFFF))
  | 1 => (if s.isRemote c.ctx e.buf then s.farErr c e.buf off len write else s.portErr c.die c.ctx e.buf off len write).map
      (fun p => (p, e.buf))
  | _ => none

/-- Write at an endpoint that is not remote. -/
def State.endWr (s : State) (c : Cmd) (e : EndPt) (off len v : Nat) (plain : Bool) : State :=
  match e.space with
  | 0 => s.sramPut c.die v (sramSegs e.swz off len)
  | 1 => s.bufPut c.die c.ctx e.buf off len v plain
  | _ => s.wsWr c.die off len v

/-- The command's access at an endpoint goes over the link. -/
def State.endRemote (s : State) (c : Cmd) (e : EndPt) : Bool := e.space == 1 && s.isRemote c.ctx e.buf

/-- The destination is a volume buffer, which only class-6 commands write (R275). -/
def State.isVolume (s : State) (ctx : Nat) (e : EndPt) : Bool := e.space == 1 && (s.useEntry ctx e.buf).vol

/-! ## Drain-queue attachment (R233) -/

/-- Reserved bits of the pack register. -/
def dqReserved (p : List DWord) : Bool := extra p 0 0x303

/-- ENG is 2 or 3, which the table reserves. -/
def Cmd.badEng (c : Cmd) : Bool := decide (2 ≤ c.fld 0 8 2)

/-- `dqatt` is performed: the status it completes with, and the task. -/
def Task.attach (t : Task) (c : Cmd) : Task × Nat :=
  let q := c.fld 0 0 2
  let a := t.dqAtt q
  if c.badEng then (t, 5)
  else if a.attached then (t, 7)
  else ({ t with dq := fset t.dq default q ⟨true, c.fld 0 8 2, false, 0, 0⟩ }, 0)

/-- `dqdet` is performed: a status, or none while the detach is pending. -/
def Task.detach (t : Task) (c : Cmd) : Task × Option Nat :=
  let q := c.fld 0 0 2
  let a := t.dqAtt q
  if c.badEng then (t, some 5)
  else if a.attached && !a.pending && a.eng == c.fld 0 8 2 then
    ({ t with dq := fset t.dq default q { a with pending := true, mark := c.n, group := c.group } }, none)
  else (t, some 7)

/-- The group of a class-0 command completes with a status. -/
def State.classZeroDone (s : State) (c : Cmd) (status : Nat) (put : (Task → Task) → State → State) : State :=
  match s.eng.groups.find? (fun g => g.id == c.group) with
  | none => s
  | some g =>
    let s := put (fun t => t.complete g ⟨0, status, 0, 0, 0⟩) s
    s.modEng (fun e => ({ e with cmds := e.cmds.filter (fun d => d.id != c.id),
                                 groups := e.groups.map (fun h => if h.id == g.id then { h with result := some status } else h) } : Engines).tidy)

/-- The sequencer performs a class-0 command whose consumed slots let it; `put` changes the task. -/
def State.classZero (s : State) (c : Cmd) (t : Task) (put : (Task → Task) → State → State) : State :=
  if s.cancelled c then s.classZeroDone c 2 put
  else match c.op with
    | .dqatt _ => let x := t.attach c; (put (fun _ => x.1) s).classZeroDone c x.2 put
    | .dqdet _ =>
      let x := t.detach c
      match x.2 with
      | some st => s.classZeroDone c st put
      | none => (put (fun _ => x.1) s).modEng (fun e => { e with cmds := e.cmds.filter (fun d => d.id != c.id) })
    | _ => s

/-- A class-0 command at issue is performed at once: its slot is BUSY, and then what the command makes of it; a pending detach keeps
its group. -/
def State.classZeroNow (s : State) (i : Instr) (f : FmtE) (opcode : Nat) : State :=
  let c := newCmd s i f opcode 1 0 0
  let g := newGroup s f opcode
  let t := s.t.produce f g.id opcode 0
  let done (t : Task) (status : Nat) : State :=
    (s.modEng (fun e => { e with nextGroup := e.nextGroup + 1, nextCmd := e.nextCmd + 1 })).modT
      (fun _ => t.complete g ⟨0, status, 0, 0, 0⟩)
  if s.cancelled c then done t 2
  else match i with
    | .dqdet _ =>
      let x := t.detach c
      match x.2 with
      | some st => done x.1 st
      | none => (s.modEng (fun e => { e with groups := e.groups ++ [g], nextGroup := e.nextGroup + 1, nextCmd := e.nextCmd + 1 })).modT
          (fun _ => x.1)
    | _ => let x := t.attach c; done x.1 x.2

/-- A class-0 command at issue: performed at once, unless a producer it consumes is still running (R217). -/
def classZeroOp (s : State) (i : Instr) (f : FmtE) (opcode : Nat) : Res :=
  atIssue s (engineFails s f 1 dqReserved []) (engineWait s f 0)
    (if s.producersDone (newCmd s i f opcode 1 0 0) then s.classZeroNow i f opcode else s.enqueue i f opcode 1)

/-- `dqatt` (R233). -/
def execDqatt (f : FmtE) (s : State) : Res := classZeroOp s (.dqatt f) f 0x01
/-- `dqdet` (R233). -/
def execDqdet (f : FmtE) (s : State) : Res := classZeroOp s (.dqdet f) f 0x02

/-- Rows a pending detach still waits for, at some position. -/
def Task.detachWaits (t : Task) (q : Nat) : Bool :=
  t.pos.any (fun e => (e.2.rows q).any (fun r => !r.popped && decide (r.n < (t.dqAtt q).mark)))

/-- A pending detach completes (R233). -/
def execDqDetachComplete (head dq : Nat) (s : State) : Res :=
  match s.taskAt head with
  | none => .next s
  | some t =>
    let a := t.dqAtt dq
    if a.attached && a.pending && !t.detachWaits dq then
      let t' := { t with dq := fset t.dq default dq default }
      match s.eng.groups.find? (fun g => g.id == a.group) with
      | none => .next (s.putTask t')
      | some g =>
        .next ((s.putTask (t'.complete g ⟨0, 0, 0, 0, 0⟩)).modEng (fun e =>
          ({ e with groups := e.groups.map (fun h => if h.id == g.id then { g with result := some 0 } else h) } : Engines).tidy))
    else .next s

/-- The rows of a queue the engine of a command may pop at its position: the first not popped, with all its cells done (R126). -/
def Task.popReady (t : Task) (j q : Nat) : Option DrainRow :=
  match firstRow ((t.posAt j).rows q) with
  | none => none
  | some r => if (List.range 32).all (fun c => decide (r.n < (t.cellAt j 31 c).n)) then some r else none

end Sys2Proof.Machine
end

