-- ==== Sys2Proof/Machine/Copy.lean ====
section
/-! DEFINITION. Sys2Proof/Machine/Copy.lean: the copy family (R234 to R239): issue, acceptance, and the pieces each element
moves. -/
namespace Sys2Proof.Machine

/-! ## Packs (R234 to R236) -/

/-- DS. -/
def Cmd.ds (c : Cmd) : Nat := match c.op with | .cpy _ | .wsld _ => c.reg 3 | _ => c.reg 2
/-- Source endpoint. -/
def Cmd.srcEnd (c : Cmd) : EndPt := endPt (bitsAt c.ds 0 16)
/-- Destination endpoint. -/
def Cmd.dstEnd (c : Cmd) : EndPt := endPt (bitsAt c.ds 16 16)
/-- PSTR. -/
def Cmd.pstr (c : Cmd) : Nat := bitsAt c.ds 32 32
/-- What an instance adds to every offset of a buffer (R230). -/
def Cmd.shift (c : Cmd) (e : EndPt) : Nat := if e.space = 1 then c.pos * c.pstr else 0
/-- Source offset. -/
def Cmd.srcOff (c : Cmd) : Nat := c.reg 0 + c.shift c.srcEnd
/-- Destination offset. -/
def Cmd.dstOff (c : Cmd) : Nat := (match c.op with | .fill _ => c.reg 0 | _ => c.reg 1) + c.shift c.dstEnd

/-- MX, in the packs that have it. -/
def Cmd.mx (c : Cmd) : Nat :=
  match c.op with
  | .cpy _ | .wsld _ => c.reg 4
  | .cpy2 _ => c.reg 3
  | _ => 0
/-- MXFMT. -/
def Cmd.mxfmt (c : Cmd) : Nat := bitsAt c.mx 0 5
/-- SBASE. -/
def Cmd.sbase (c : Cmd) : Nat := bitsAt c.mx 32 32
/-- Data bytes of a block. -/
def Cmd.bb (c : Cmd) : Nat := blockBytes c.mxfmt

/-- A byte pattern repeated over `len` bytes. -/
def repBytes (pat len : Nat) : Nat :=
  pat % 2 ^ 64 * ((2 ^ (64 * ((len + 7) / 8)) - 1) / (2 ^ 64 - 1)) % 2 ^ (8 * len)

/-- Reserved fields of DS in register `i` of a pack: `ws` allows the weight store as destination. -/
def dsReserved (p : List DWord) (i : Nat) (ws : Bool) : Bool :=
  (endPt (field (p.getD i 0) 0 16)).reserved false || (endPt (field (p.getD i 0) 16 16)).reserved ws

/-- Dimension of the source that becomes dimension `k` of the destination of `cpyp`. -/
def Cmd.perm (c : Cmd) (k : Nat) : Nat := c.fld 4 (2 * k) 2
/-- Extent of source dimension `d` of `cpyp`. -/
def Cmd.extent (c : Cmd) (d : Nat) : Nat := c.fld 3 (16 * d) 16
/-- Element size of `cpyt` and `cpyp`. -/
def Cmd.esize (c : Cmd) : Nat := match c.op with | .cpyp _ => 2 ^ c.fld 4 8 2 | _ => 2 ^ c.fld 5 0 2
/-- Elements of the array of `cpyp`. -/
def Cmd.volume4 (c : Cmd) : Nat := c.extent 0 * c.extent 1 * c.extent 2 * c.extent 3
/-- Distance in the source between neighbours along dimension `d`. -/
def Cmd.stride4 (c : Cmd) (d : Nat) : Nat := (List.range d).foldl (fun a k => a * c.extent k) c.esize

/-- Bytes of one patch of `gth2` and `sct2`. -/
def Cmd.patchBytes (c : Cmd) : Nat := c.fld 4 16 16 * c.fld 4 0 16 * c.fld 6 0 8

/-! ## Acceptance (R227, R235 to R239) -/

/-- Bytes from the lowest to the highest of `n` rows of `len` bytes a pitch apart. -/
def rowsSpan (n pitch len : Nat) : Nat := if n = 0 ∨ len = 0 then 0 else (n - 1) * pitch + len

/-- Lengths of the source span and the destination span (R239). -/
def Cmd.spans (c : Cmd) : Nat × Nat :=
  match c.op with
  | .cpy _ | .wsld _ => (c.reg 2, c.reg 2)
  | .fill _ => (0, c.reg 1)
  | .cpy2 _ => (rowsSpan (c.fld 4 32 32) (c.fld 5 0 32) (c.fld 4 0 32), rowsSpan (c.fld 4 32 32) (c.fld 5 32 32) (c.fld 4 0 32))
  | .cpyt _ =>
    let nr := c.fld 3 32 32
    let nc := c.fld 3 0 32
    if nr = 0 ∨ nc = 0 then (0, 0)
    else (rowsSpan nr (c.fld 4 0 32) (nc * c.esize), rowsSpan nc (c.fld 4 32 32) (nr * c.esize))
  | .cpyp _ => (c.volume4 * c.esize, c.volume4 * c.esize)
  | .gth2 _ | .sct2 _ =>
    let image := rowsSpan (c.fld 3 32 32) (c.fld 4 32 32) (c.fld 3 0 32 * c.fld 6 0 8)
    let dense := c.fld 5 0 32 * c.patchBytes
    match c.op with | .gth2 _ => (image, dense) | _ => (dense, image)
  | _ =>
    let table := c.fld 3 0 32 * c.fld 3 32 32
    let dense := c.fld 4 0 32 * c.fld 3 32 32
    match c.op with | .gthr _ => (table, dense) | _ => (dense, table)

/-- The list: offset and bytes. -/
def Cmd.listArea (c : Cmd) : Nat × Nat :=
  match c.op with
  | .gth2 _ | .sct2 _ => (c.fld 5 32 32, 4 * c.fld 5 0 32)
  | .gthr _ | .sctr _ => (c.fld 4 32 32, 4 * c.fld 4 0 32)
  | _ => (0, 0)

/-- Limits of pack values (R236). `fill` has none on LEN (log entry 16). -/
def Cmd.copyLimits (c : Cmd) : Bool :=
  match c.op with
  | .cpy _ | .wsld _ => decide (c.reg 2 < 2 ^ 31)
  | .cpyt _ => decide (c.fld 3 32 32 * c.fld 3 0 32 < 2 ^ 24)
  | .cpyp _ => (List.range 4).all (fun d => decide (1 ≤ c.extent d) && (List.range 4).any (fun k => c.perm k == d)) &&
      decide (c.volume4 < 2 ^ 24)
  | .gth2 _ | .sct2 _ =>
    decide (1 ≤ c.fld 4 16 16 ∧ c.fld 4 16 16 ≤ 256 ∧ 1 ≤ c.fld 4 0 16 ∧ c.fld 4 0 16 ≤ 256 ∧ 1 ≤ c.fld 6 0 8 ∧ c.fld 6 0 8 ≤ 128 ∧
      c.fld 5 0 32 < 2 ^ 24)
  | .gthr _ | .sctr _ => decide (c.fld 4 0 32 < 2 ^ 24)
  | _ => true

/-- The endpoint is a sideband buffer. -/
def State.sideband (s : State) (c : Cmd) (e : EndPt) : Bool := e.space == 1 && (s.useEntry c.ctx e.buf).mxsb

/-- The pairs that move scales (R235). -/
def State.mxPair (s : State) (c : Cmd) : Bool :=
  c.mxfmt == 0 || (isBlock c.mxfmt &&
    ((s.sideband c c.srcEnd && (c.dstEnd.space == 0 || s.sideband c c.dstEnd)) || (c.srcEnd.space == 0 && s.sideband c c.dstEnd)))

/-- An MX transfer begins and ends on block boundaries (R102, R235). -/
def Cmd.mxAligned (c : Cmd) : Bool :=
  let b := c.bb
  c.mxfmt == 0 ||
  (decide (c.srcOff % b = 0 ∧ c.dstOff % b = 0 ∧ c.sbase % 128 = 0) &&
   (match c.op with
    | .cpy2 _ => decide (c.fld 4 0 32 % b = 0) &&
        (decide (c.fld 4 32 32 ≤ 1) || decide (c.fld 5 0 32 % b = 0 ∧ c.fld 5 32 32 % b = 0))
    | _ => decide (c.reg 2 % b = 0)))

/-- The part of the scale plane that goes with a span of shared SRAM. -/
def Cmd.planeArea (c : Cmd) : Nat × Nat :=
  let part (off len : Nat) : Nat × Nat := if len = 0 then (0, 0) else (c.sbase + off / c.bb, (off % c.bb + len + c.bb - 1) / c.bb)
  if c.mxfmt = 0 then (0, 0)
  else if c.srcEnd.space = 0 then part c.srcOff c.spans.1
  else if c.dstEnd.space = 0 then part c.dstOff c.spans.2
  else (0, 0)

/-- A span as R239 compares it: under a swizzle it is widened to whole blocks of 128 KiB. -/
def EndPt.widen (e : EndPt) (off len : Nat) : Nat × Nat :=
  if e.space = 0 ∧ e.swz ≠ 0 ∧ len ≠ 0 then (off / 2 ^ 17 * 2 ^ 17, (off % 2 ^ 17 + len + 2 ^ 17 - 1) / 2 ^ 17 * 2 ^ 17) else (off, len)

/-- The commands that forbid overlap (R239). -/
def Cmd.noOverlap (c : Cmd) : Bool :=
  match c.op with
  | .cpyt _ | .cpyp _ | .gth2 _ | .sct2 _ | .gthr _ | .sctr _ => true
  | _ => false

/-- The spans lie in one space, buffer or die, and meet. -/
def Cmd.spansMeet (c : Cmd) : Bool :=
  let a := c.srcEnd
  let b := c.dstEnd
  a.space == b.space && a.buf == b.buf && meetRanges (a.widen c.srcOff c.spans.1) (b.widen c.dstOff c.spans.2)

/-- How many elements (R225). -/
def Cmd.copyTotal (c : Cmd) : Nat :=
  match c.op with
  | .cpy _ | .wsld _ => (c.reg 2 + 127) / 128
  | .fill _ => (c.reg 1 + 127) / 128
  | .cpy2 _ => c.fld 4 32 32
  | .cpyt _ => c.fld 3 0 32
  | .cpyp _ => c.extent (c.perm 1) * c.extent (c.perm 2) * c.extent (c.perm 3)
  | .gth2 _ | .sct2 _ => c.fld 5 0 32
  | _ => c.fld 4 0 32

/-- `wsld` writes the weight store, and no other command does (R237). A `wsld` to another space gives PARAM (log entry 16). -/
def Cmd.wsRight (c : Cmd) : Bool :=
  match c.op with
  | .wsld _ => c.dstEnd.space == 2
  | _ => true

/-- The acceptance checks of the copy family. -/
def State.copyAccept (s : State) (c : Cmd) : Accept where
  param := decide (c.pstr % 128 = 0) && c.srcEnd.swzOk && c.dstEnd.swzOk && !s.isVolume c.ctx c.dstEnd && c.wsRight && c.copyLimits && s.mxPair c
  range := (c.srcEnd.space != 0 || s.cmdSram c c.srcOff c.spans.1) && (c.dstEnd.space != 0 || s.cmdSram c c.dstOff c.spans.2) &&
    s.cmdSram c c.listArea.1 c.listArea.2 && s.cmdSram c c.planeArea.1 c.planeArea.2
  align := c.mxAligned
  overlap := !(c.noOverlap && c.spansMeet)
  state := true
  total := c.copyTotal

/-! ## The pieces of an element (R237, R238) -/

/-- A run of bytes an element moves: `src` none takes FILL. Offsets are within the spaces of the endpoints. -/
structure Piece where
  src : Option Nat
  dst : Nat
  len : Nat
  deriving DecidableEq, Repr, Inhabited

/-- The 128-byte unit number `k` of `len` bytes. -/
def unitPiece (len k : Nat) : Nat × Nat := (128 * k, min 128 (len - 128 * k))

/-- Pixels of a patch at row y0 and column x0: row and column of the patch, and the image offset of those inside the extent. -/
def Cmd.pixels (c : Cmd) (entry : Nat) : List (Nat × Nat × Option Nat) :=
  let y0 := sext (bitsAt entry 0 16) 16
  let x0 := sext (bitsAt entry 16 16) 16
  let ph := c.fld 4 16 16
  let pw := c.fld 4 0 16
  (List.range ph).flatMap (fun (u : Nat) => (List.range pw).map (fun (v : Nat) =>
    let y := y0 + (u : Int)
    let x := x0 + (v : Int)
    (u, v, if 0 ≤ y ∧ y < (c.fld 3 32 32 : Nat) ∧ 0 ≤ x ∧ x < (c.fld 3 0 32 : Nat)
           then some (y.toNat * c.fld 4 32 32 + x.toNat * c.fld 6 0 8) else none)))

/-- The pieces of element `k`, where `entry` is its list entry. -/
def Cmd.pieces (c : Cmd) (k entry : Nat) : List Piece :=
  let so := c.srcOff
  let d := c.dstOff
  match c.op with
  | .cpy _ | .wsld _ => let u := unitPiece (c.reg 2) k; [⟨some (so + u.1), d + u.1, u.2⟩]
  | .fill _ => let u := unitPiece (c.reg 1) k; [⟨none, d + u.1, u.2⟩]
  | .cpy2 _ => [⟨some (so + k * c.fld 5 0 32), d + k * c.fld 5 32 32, c.fld 4 0 32⟩]
  | .cpyt _ => (List.range (c.fld 3 32 32)).map (fun y =>
      ⟨some (so + y * c.fld 4 0 32 + k * c.esize), d + k * c.fld 4 32 32 + y * c.esize, c.esize⟩)
  | .cpyp _ =>
    let n0 := c.extent (c.perm 0)
    let n1 := c.extent (c.perm 1)
    let n2 := c.extent (c.perm 2)
    let base := so + k % n1 * c.stride4 (c.perm 1) + k / n1 % n2 * c.stride4 (c.perm 2) + k / n1 / n2 * c.stride4 (c.perm 3)
    (List.range n0).map (fun i => ⟨some (base + i * c.stride4 (c.perm 0)), d + (k * n0 + i) * c.esize, c.esize⟩)
  | .gth2 _ =>
    let px := c.fld 6 0 8
    (c.pixels entry).map (fun p => ⟨p.2.2.map (so + ·), d + k * c.patchBytes + (p.1 * c.fld 4 0 16 + p.2.1) * px, px⟩)
  | .sct2 _ =>
    let px := c.fld 6 0 8
    (c.pixels entry).filterMap (fun p => p.2.2.map (fun o => ⟨some (so + k * c.patchBytes + (p.1 * c.fld 4 0 16 + p.2.1) * px), d + o, px⟩))
  | .gthr _ =>
    let rb := c.fld 3 32 32
    [⟨if entry < c.fld 3 0 32 then some (so + entry * rb) else none, d + k * rb, rb⟩]
  | _ =>
    let rb := c.fld 3 32 32
    if entry < c.fld 3 0 32 then [⟨some (so + k * rb), d + entry * rb, rb⟩] else []

/-- FILL or PATTERN. -/
def Cmd.fillPat (c : Cmd) : Nat :=
  match c.op with
  | .fill _ => c.reg 3
  | .gth2 _ => c.reg 7
  | _ => c.reg 5

/-! ## Moving (R231, R235, R237) -/

/-- What comes of an element. -/
inductive ElemOut where
  | done (s : State)
  | wait (s : State)
  | err (e : PortErr) (buf : Nat)

/-- The number of the byte an endpoint's offset names, whatever names it. -/
def State.byteKey (s : State) (c : Cmd) (e : EndPt) (off : Nat) : Nat :=
  match e.space with
  | 0 => 4 * (swizzle e.swz (off / 128 * 128) + off % 128)
  | 1 => match s.byteLoc c.die c.ctx e.buf off with | .dev a => 4 * a + 1 | .bus fn a => 4 * hostKey fn a + 2 | .zeros => 3
  | _ => 3

/-- Read as before the command wrote (R237: the whole source before writing). -/
def State.oldRd (s : State) (c : Cmd) (e : EndPt) (off len : Nat) : Nat :=
  if c.saved.isEmpty then s.endRd c e off len
  else (List.range len).foldr (fun i a => (fget? c.saved (s.byteKey c e (off + i))).getD (s.endRd c e (off + i) 1) + 256 * a) 0

/-- Keep a number under a key, unless one is kept. -/
def keepFirst (m : FMap Nat) (k v : Nat) : FMap Nat := if (fget? m k).isSome then m else finsert m k v

/-- Keep the bytes a write of a copy replaces, unless an earlier write has. -/
def State.keepOld (s : State) (c : Cmd) (e : EndPt) (off len : Nat) : Cmd :=
  { c with saved := (List.range len).foldl (fun m i =>
      let k := s.byteKey c e (off + i)
      keepFirst m k (s.endRd c e (off + i) 1)) c.saved }

/-- The command is a memmove in one space. -/
def Cmd.isMove (c : Cmd) : Bool :=
  match c.op with
  | .cpy _ | .cpy2 _ => c.srcEnd.space == c.dstEnd.space
  | _ => false

/-- A memmove within one buffer of another module, whose spans meet (R237, R323). -/
def State.farMove (s : State) (c : Cmd) : Bool :=
  let a := s.bufEntry c.ctx c.srcEnd.buf
  let b := s.bufEntry c.ctx c.dstEnd.buf
  c.isMove && s.endRemote c c.srcEnd && s.endRemote c c.dstEnd && a.ptroot == b.ptroot && a.srcidx == b.srcidx &&
  meetRanges (c.srcOff, c.spans.1) (c.dstOff, c.spans.2)

/-- The number of a byte, and of a scale byte, of the buffer of such a memmove. -/
def farKey (off : Nat) : Nat := 4 * off
/-- The same for the scale byte of a block. -/
def farScaleKey (c : Cmd) (off : Nat) : Nat := 4 * (off / c.bb) + 3

/-- Bytes read over the link at `off` as they were before the command wrote. -/
def Cmd.farOld (c : Cmd) (off len v : Nat) : Nat :=
  if c.saved.isEmpty then v
  else (List.range len).foldr (fun i a => (fget? c.saved (farKey (off + i))).getD (bitsAt v (8 * i) 8) + 256 * a) 0

/-- A scale read over the link as it was before the command wrote. -/
def Cmd.farOldScale (c : Cmd) (off v : Nat) : Nat := (fget? c.saved (farScaleKey c off)).getD v

/-- The translations and corrections a read leaves. -/
def State.endSee (s : State) (c : Cmd) (e : EndPt) (off len : Nat) : State :=
  match e.space with
  | 0 => (sramSegs e.swz off len).foldl (fun s x => s.sramFix c.die x.1 x.2) s
  | 1 => if s.isRemote c.ctx e.buf then s else s.portTouch c.die c.ctx e.buf off len
  | _ => s

/-- Blocks of the pieces: source and destination offsets. -/
def Cmd.blocks (c : Cmd) (ps : List Piece) : List (Nat × Nat) :=
  ps.flatMap (fun p => (List.range (p.len / c.bb)).map (fun i => (p.src.getD 0 + i * c.bb, p.dst + i * c.bb)))

/-- The place of the scale byte of the block at offset `off` of a sideband buffer: its burst, its byte. -/
def State.scaleAt (s : State) (c : Cmd) (e : EndPt) (off : Nat) : Loc × Nat :=
  (s.byteLoc c.die c.ctx e.buf (off / 64 * 64), off % 64 / c.bb)

/-- The number of a scale byte. -/
def scaleKey (x : Loc × Nat) : Nat := match x.1 with | .dev a => 4 * (a / 64 * 4 + x.2) + 3 | _ => 3

/-- The scale of a block at a local endpoint. -/
def State.scaleRd (s : State) (c : Cmd) (e : EndPt) (off : Nat) : Nat :=
  if e.space = 0 then s.sramRd c.die (c.sbase + off / c.bb) 1
  else
    let x := s.scaleAt c e off
    (fget? c.saved (scaleKey x)).getD (bitsAt (s.sbRd x.1).toNat (8 * x.2) 8)

/-- Write the scale of a block at a local endpoint; the layout of 32-byte blocks writes the upper half of the word as zero. -/
def State.scaleWr (s : State) (c : Cmd) (e : EndPt) (off v : Nat) : State :=
  if e.space = 0 then s.sramWr c.die (c.sbase + off / c.bb) 1 v
  else
    let x := s.scaleAt c e off
    let s := s.sbWrByte x.1 x.2 v
    if c.bb = 32 then (s.sbWrByte x.1 2 0).sbWrByte x.1 3 0 else s

/-- Keep the scale a write replaces. -/
def State.keepScale (s : State) (c : Cmd) (e : EndPt) (off : Nat) : Cmd :=
  if e.space = 0 then c
  else
    let k := scaleKey (s.scaleAt c e off)
    { c with saved := keepFirst c.saved k (s.scaleRd c e off) }

/-- Accesses over the link that read the pieces and their scales (a scale is an access of kind 10). -/
def State.farReads (s : State) (c : Cmd) (ps : List Piece) : List LinkAccess :=
  let k := c.srcEnd.buf
  ps.filterMap (fun p => p.src.map (fun o => s.remoteReq c.ctx k o p.len false 0 0)) ++
  (if c.mxfmt = 0 then [] else (c.blocks ps).map (fun b => s.remoteReq c.ctx k b.1 c.bb false 10 0))

/-- The accesses over the link that read what the pieces and their scales replace. -/
def State.farOlds (s : State) (c : Cmd) (ps : List Piece) : List LinkAccess :=
  let k := c.dstEnd.buf
  ps.map (fun p => s.remoteReq c.ctx k p.dst p.len false 0 0) ++
  (if c.mxfmt = 0 then [] else (c.blocks ps).map (fun b => s.remoteReq c.ctx k b.2 c.bb false 10 0))

/-- Keep those. -/
def Cmd.farKeep (c : Cmd) (ps : List Piece) (l : List Nat) : Cmd :=
  let m := (ps.zip l).foldl (fun m x => (List.range x.1.len).foldl (fun m i => keepFirst m (farKey (x.1.dst + i)) (bitsAt x.2 (8 * i) 8)) m) c.saved
  { c with saved := if c.mxfmt = 0 then m
      else ((c.blocks ps).zip (l.drop ps.length)).foldl (fun m x => keepFirst m (farScaleKey c x.1.2) (x.2 % 256)) m }

/-- The access over the link that writes them. An element of one piece is a plain access; one of several, or with scales, is sent as a
whole, so that none of it performs where a part fails (R231). -/
def State.farWrites (s : State) (c : Cmd) (ps : List Piece) (vals scales : List Nat) : List LinkAccess :=
  let k := c.dstEnd.buf
  let parts := (ps.zip vals).map (fun x => ⟨if c.mxfmt = 0 then 0 else 1, x.1.dst, x.1.len, x.2⟩) ++
    (if c.mxfmt = 0 then [] else ((c.blocks ps).zip scales).map (fun x => (⟨2, x.1.2, c.bb, x.2⟩ : LinkPart)))
  match parts with
  | [] => []
  | [p] => [s.remoteReq c.ctx k p.off p.len true 0 p.data]
  | p :: _ => [{ s.remoteReq c.ctx k p.off p.len true 0 0 with parts := parts }]

/-- The failing check of the element's local accesses and of those about to be sent. -/
def State.piecesErr (s : State) (c : Cmd) (ps : List Piece) : Option (PortErr × Nat) :=
  let a := ps.findSome? (fun p => p.src.bind (fun o => s.endErr c c.srcEnd o p.len false))
  let b := ps.findSome? (fun p => s.endErr c c.dstEnd p.dst p.len true)
  let plane (o : Nat) (w : Bool) : Option (PortErr × Nat) := (s.sramErrAt c.die (c.sbase + o / c.bb) 1 w).map (fun e => (e, 0xFFFF))
  let d := if c.mxfmt = 0 then none
    else (c.blocks ps).findSome? (fun x => if c.srcEnd.space = 0 then plane x.1 false else if c.dstEnd.space = 0 then plane x.2 true else none)
  ((a.or b).or d)

/-- What the pieces read: data, scales; or a wait, or an error. -/
inductive Moved where
  | vals (data scales : List Nat)
  | wait (s : State)
  | err (e : PortErr) (buf : Nat)

/-- Read the pieces. -/
def State.readPieces (s : State) (c : Cmd) (ps : List Piece) : Moved :=
  if s.endRemote c c.srcEnd then
    match s.exchange c (s.farReads c ps) c.srcEnd.buf with
    | .wait s => .wait s
    | .err e k => .err e k
    | .vals l =>
      let got := ps.foldl (fun (a : List Nat × List (Nat × Nat)) p => match p.src with
        | none => (a.1 ++ [repBytes c.fillPat p.len], a.2)
        | some o => (a.1 ++ [c.farOld o p.len (a.2.headD (0, 0)).1], a.2.drop 1)) ([], l)
      .vals got.1 (((c.blocks ps).zip got.2).map (fun x => c.farOldScale x.1.1 x.2.1))
  else
    .vals (ps.map (fun p => match p.src with
        | none => repBytes c.fillPat p.len
        | some o => s.oldRd c c.srcEnd o p.len))
      (if c.mxfmt = 0 then [] else (c.blocks ps).map (fun b => s.scaleRd c c.srcEnd b.1))

/-- Write the bytes a `wsld` holds back. -/
def State.wsFlush (s : State) (c : Cmd) : State × Cmd :=
  match c.op, c.vals with
  | .wsld _, [a, n, v] => (s.wsWr c.die a n v, { c with vals := [] })
  | _, _ => (s, c)

/-- A `wsld` writes each aligned 128 bytes of the weight store at once (R189): of `len` bytes at `off` those of a segment that a later element
completes are held back, in `vals` as place, length and bytes. -/
def State.wsPut (s : State) (c : Cmd) (off len v : Nat) : State × Cmd :=
  let h := match c.vals with | [a, n, w] => (a, n, w) | _ => (off, 0, 0)
  let n := h.2.1 + len
  let w := h.2.2 + 2 ^ (8 * h.2.1) * v
  let now := if c.total ≤ c.elem + 1 then n else min n ((h.1 + n) / 128 * 128 - h.1)
  (if now = 0 then s else s.wsWr c.die h.1 now (w % 2 ^ (8 * now)),
   { c with vals := if now = n then [] else [h.1 + now, n - now, w / 2 ^ (8 * now)] })

/-- Write the pieces at a local destination. -/
def State.writePieces (s : State) (c : Cmd) (ps : List Piece) (vals scales : List Nat) : State :=
  let c1 := if c.isMove then ps.foldl (fun c p => s.keepOld c c.dstEnd p.dst p.len) c else c
  let c1 := if c.isMove && c.mxfmt != 0 then (c.blocks ps).foldl (fun c b => s.keepScale c c.dstEnd b.2) c1 else c1
  let s := ps.foldl (fun s p => match p.src with | some o => s.endSee c c.srcEnd o p.len | none => s) s
  if c.dstEnd.space = 2 then
    let r := (ps.zip vals).foldl (fun (a : State × Cmd) x => a.1.wsPut a.2 x.1.dst x.1.len x.2) (s, c1)
    r.1.setCmd r.2
  else
    let s := (ps.zip vals).foldl (fun s x => s.endWr c c.dstEnd x.1.dst x.1.len x.2 (c.mxfmt == 0)) s
    let s := ((c.blocks ps).zip scales).foldl (fun s x => s.scaleWr c c.dstEnd x.1.2 x.2) s
    s.setCmd c1

/-- Move the pieces. -/
def State.movePieces (s : State) (c : Cmd) (ps : List Piece) : ElemOut :=
  match s.piecesErr c ps with
  | some (e, k) => .err e k
  | none =>
    match s.readPieces c ps with
    | .wait s => .wait s
    | .err e k => .err e k
    | .vals data scales =>
      if s.endRemote c c.dstEnd then
        match (if s.farMove c then s.exchange c (s.farOlds c ps) c.dstEnd.buf else .vals []) with
        | .wait s => .wait s
        | .err e k => .err e k
        | .vals old =>
          match s.exchange c (s.farWrites c ps data scales) c.dstEnd.buf with
          | .wait s => .wait s
          | .err e k => .err e k
          | .vals _ => .done (if s.farMove c then s.setCmd (c.farKeep ps (old.map (·.1))) else s)
      else .done (s.writePieces c ps data scales)

/-- The next element of a copy-family command. -/
def State.copyElem (s : State) (c : Cmd) : ElemOut :=
  if c.listArea.2 = 0 then s.movePieces c (c.pieces c.elem 0)
  else
    let at_ := c.listArea.1 + 4 * c.elem
    match s.sramErrAt c.die at_ 4 false with
    | some e => .err e 0xFFFF
    | none => (s.sramFix c.die at_ 4).movePieces c (c.pieces c.elem (s.word c.die at_))

/-! ## Issue -/

/-- Reserved bits of MX. -/
def mxReserved (p : List DWord) (i : Nat) : Bool := extra p i (ones 0 5 + ones 32 32)

/-- `cpy` (R237). -/
def execCpy (f : FmtE) (s : State) : Res := engineOp s (.cpy f) f 0x10 5 (fun p => dsReserved p 3 false || mxReserved p 4) []
/-- `cpy2` (R237). -/
def execCpy2 (f : FmtE) (s : State) : Res := engineOp s (.cpy2 f) f 0x11 6 (fun p => dsReserved p 2 false || mxReserved p 3) []
/-- `cpyt` (R237). -/
def execCpyt (f : FmtE) (s : State) : Res := engineOp s (.cpyt f) f 0x12 6 (fun p => dsReserved p 2 false || extra p 5 3) []
/-- `cpyp` (R237). -/
def execCpyp (f : FmtE) (s : State) : Res := engineOp s (.cpyp f) f 0x13 5 (fun p => dsReserved p 2 false || extra p 4 0x3FF) []
/-- `fill` (R237): SRC is zero. -/
def execFill (f : FmtE) (s : State) : Res :=
  engineOp s (.fill f) f 0x14 4 (fun p => dsReserved p 2 false || field (p.getD 2 0) 0 16 != 0) []
/-- `gth2` (R238). -/
def execGth2 (f : FmtE) (s : State) : Res := engineOp s (.gth2 f) f 0x16 8 (fun p => dsReserved p 2 false || extra p 6 0xFF) []
/-- `sct2` (R238): FILL is zero. -/
def execSct2 (f : FmtE) (s : State) : Res :=
  engineOp s (.sct2 f) f 0x17 8 (fun p => dsReserved p 2 false || extra p 6 0xFF || extra p 7 0) []
/-- `gthr` (R238). -/
def execGthr (f : FmtE) (s : State) : Res := engineOp s (.gthr f) f 0x18 6 (fun p => dsReserved p 2 false) []
/-- `sctr` (R238): FILL is zero. -/
def execSctr (f : FmtE) (s : State) : Res := engineOp s (.sctr f) f 0x19 6 (fun p => dsReserved p 2 false || extra p 5 0) []

/-- The weight-store range of `wsld` lies in the partition of every die that gets an instance (R179, R234); `$tval` holds DST. -/
def wsldFails (s : State) (f : FmtE) : List Fail :=
  let p := s.iss.t0.packRegs f.pack 5
  let dst := field (p.getD 1 0) 0 64
  let len := field (p.getD 2 0) 0 64
  let t := s.iss.t0
  check (len == 0 || field (p.getD 3 0) 30 2 != 2 || (instances t f).all (fun j => s.inWs t.id.ctx (t.dieAt j) dst len)) (failRange 8 dst)

/-- `wsld` (R237). -/
def execWsld (f : FmtE) (s : State) : Res :=
  engineOp s (.wsld f) f 0x15 5 (fun p => dsReserved p 3 true || mxReserved p 4) (wsldFails s f)

end Sys2Proof.Machine
end

