-- ==== Sys2Proof/Machine/Fax.lean ====
section
/-! DEFINITION. Sys2Proof/Machine/Fax.lean: the two-dimensional coding of ITU-T T.6 (R240 to R242). The spec names the coding and does not
give it: it is PRESUMED from the Recommendation (log entry 12). -/
namespace Sys2Proof.Machine

/-! ## Codes -/

/-- The bits of bytes, most significant first. -/
def msbBits (l : List Nat) : List Bool := l.flatMap (fun b => (List.range 8).map (fun i => bitAt b (7 - i)))

/-- Read a code of at most `n` bits: `find` knows it by its bits behind a leading 1, `acc` holds those read. -/
def readCode {α : Type} (find : Nat → Option α) (n acc : Nat) (bits : List Bool) : Option (α × List Bool) :=
  match n, bits with
  | k + 1, b :: rest =>
    match find (2 * acc + b2n b) with
    | some x => some (x, rest)
    | none => readCode find k (2 * acc + b2n b) rest
  | _, _ => none

/-- Codes of white runs of 0 to 63 pixels, each behind a leading 1. -/
def whiteTerm : List Nat :=
  [0b100110101, 0b1000111, 0b10111, 0b11000, 0b11011, 0b11100, 0b11110, 0b11111, 0b110011, 0b110100, 0b100111, 0b101000, 0b1001000, 0b1000011, 0b1110100, 0b1110101] ++
  [0b1101010, 0b1101011, 0b10100111, 0b10001100, 0b10001000, 0b10010111, 0b10000011, 0b10000100, 0b10101000, 0b10101011, 0b10010011, 0b10100100, 0b10011000, 0b100000010, 0b100000011, 0b100011010] ++
  [0b100011011, 0b100010010, 0b100010011, 0b100010100, 0b100010101, 0b100010110, 0b100010111, 0b100101000, 0b100101001, 0b100101010, 0b100101011, 0b100101100, 0b100101101, 0b100000100, 0b100000101, 0b100001010] ++
  [0b100001011, 0b101010010, 0b101010011, 0b101010100, 0b101010101, 0b100100100, 0b100100101, 0b101011000, 0b101011001, 0b101011010, 0b101011011, 0b101001010, 0b101001011, 0b100110010, 0b100110011, 0b100110100]

/-- Codes of white runs of 64, 128, … 1,728 pixels. -/
def whiteMakeup : List Nat :=
  [0b111011, 0b110010, 0b1010111, 0b10110111, 0b100110110, 0b100110111, 0b101100100, 0b101100101, 0b101101000, 0b101100111, 0b1011001100, 0b1011001101, 0b1011010010, 0b1011010011, 0b1011010100, 0b1011010101] ++
  [0b1011010110, 0b1011010111, 0b1011011000, 0b1011011001, 0b1011011010, 0b1011011011, 0b1010011000, 0b1010011001, 0b1010011010, 0b1011000, 0b1010011011]

/-- Codes of black runs of 0 to 63 pixels. -/
def blackTerm : List Nat :=
  [0b10000110111, 0b1010, 0b111, 0b110, 0b1011, 0b10011, 0b10010, 0b100011, 0b1000101, 0b1000100, 0b10000100, 0b10000101, 0b10000111, 0b100000100, 0b100000111, 0b1000011000] ++
  [0b10000010111, 0b10000011000, 0b10000001000, 0b100001100111, 0b100001101000, 0b100001101100, 0b100000110111, 0b100000101000, 0b100000010111, 0b100000011000, 0b1000011001010, 0b1000011001011, 0b1000011001100, 0b1000011001101, 0b1000001101000, 0b1000001101001] ++
  [0b1000001101010, 0b1000001101011, 0b1000011010010, 0b1000011010011, 0b1000011010100, 0b1000011010101, 0b1000011010110, 0b1000011010111, 0b1000001101100, 0b1000001101101, 0b1000011011010, 0b1000011011011, 0b1000001010100, 0b1000001010101, 0b1000001010110, 0b1000001010111] ++
  [0b1000001100100, 0b1000001100101, 0b1000001010010, 0b1000001010011, 0b1000000100100, 0b1000000110111, 0b1000000111000, 0b1000000100111, 0b1000000101000, 0b1000001011000, 0b1000001011001, 0b1000000101011, 0b1000000101100, 0b1000001011010, 0b1000001100110, 0b1000001100111]

/-- Codes of black runs of 64, 128, … 1,728 pixels. -/
def blackMakeup : List Nat :=
  [0b10000001111, 0b1000011001000, 0b1000011001001, 0b1000001011011, 0b1000000110011, 0b1000000110100, 0b1000000110101, 0b10000001101100, 0b10000001101101, 0b10000001001010, 0b10000001001011, 0b10000001001100, 0b10000001001101, 0b10000001110010, 0b10000001110011, 0b10000001110100] ++
  [0b10000001110101, 0b10000001110110, 0b10000001110111, 0b10000001010010, 0b10000001010011, 0b10000001010100, 0b10000001010101, 0b10000001011010, 0b10000001011011, 0b10000001100100, 0b10000001100101]

/-- Codes of runs of 1,792, 1,856, … 2,560 pixels of either colour. -/
def longMakeup : List Nat :=
  [0b100000001000, 0b100000001100, 0b100000001101, 0b1000000010010, 0b1000000010011, 0b1000000010100, 0b1000000010101, 0b1000000010110, 0b1000000010111, 0b1000000011100, 0b1000000011101, 0b1000000011110, 0b1000000011111]

/-- The run a code stands for. -/
def runOf (black : Bool) (code : Nat) : Option Nat :=
  (((if black then blackTerm else whiteTerm).findIdx? (· == code)).or
    (((if black then blackMakeup else whiteMakeup).findIdx? (· == code)).map (fun i => 64 * (i + 1)))).or
    ((longMakeup.findIdx? (· == code)).map (fun i => 1792 + 64 * i))

/-- A run: make-up codes, then a terminating code. -/
def readRun (black : Bool) (fuel total : Nat) (bits : List Bool) : Option (Nat × List Bool) :=
  match fuel with
  | 0 => none
  | k + 1 =>
    match readCode (runOf black) 13 1 bits with
    | none => none
    | some (r, rest) => if r < 64 then some (total + r, rest) else readRun black k (total + r) rest

/-- The coding modes of a line. -/
inductive FaxMode where
  | pass
  | horizontal
  | vertical (d : Int)
  deriving DecidableEq, Repr, Inhabited

/-- The mode a code stands for. -/
def modeOf (code : Nat) : Option FaxMode :=
  match code with
  | 0b10001 => some .pass
  | 0b1001 => some .horizontal
  | 0b11 => some (.vertical 0)
  | 0b1011 => some (.vertical 1)
  | 0b1000011 => some (.vertical 2)
  | 0b10000011 => some (.vertical 3)
  | 0b1010 => some (.vertical (-1))
  | 0b1000010 => some (.vertical (-2))
  | 0b10000010 => some (.vertical (-3))
  | _ => none

/-! ## Lines -/

/-- The first pixel from `lo` on at which the line above goes from colour `black` to the other; beyond it, its width. -/
def changeFrom (ref : List Bool) (gw lo : Nat) (black : Bool) : Nat :=
  ((List.range gw).find? (fun i => decide (lo ≤ i) && ref.getD i false != black && (if i = 0 then false else ref.getD (i - 1) false) == black)).getD gw

/-- The rest of a line below `ref`, whose pixels so far are `line` and whose colour is `black`; `start`: nothing of it has been coded. A line
whose runs do not sum to GW breaks the stream (R242). -/
def faxLine (ref : List Bool) (gw fuel : Nat) (line : List Bool) (black start : Bool) (bits : List Bool) : Option (List Bool × List Bool) :=
  let a0 := line.length
  let b1 := changeFrom ref gw (if start then 0 else a0 + 1) black
  let upto (a : Nat) : List Bool := line ++ List.replicate (a - a0) black
  match fuel with
  | 0 => none
  | k + 1 =>
    if gw ≤ a0 then some (line, bits)
    else match readCode modeOf 7 1 bits with
      | none => none
      | some (.pass, r) => faxLine ref gw k (upto (changeFrom ref gw (b1 + 1) !black)) black false r
      | some (.vertical d, r) =>
        let a1 := (b1 : Int) + d
        if a1 < (a0 : Int) ∨ (gw : Int) < a1 then none else faxLine ref gw k (upto a1.toNat) (!black) false r
      | some (.horizontal, r) =>
        match readRun black r.length 0 r with
        | none => none
        | some (m, r) =>
          match readRun (!black) r.length 0 r with
          | none => none
          | some (n, r) =>
            if gw < a0 + m + n then none else faxLine ref gw k (upto (a0 + m) ++ List.replicate n !black) black false r

/-- The lines of an image of `n` lines below `ref`, black as true, up to the first that does not decode. -/
def faxLines (gw n : Nat) (ref bits : List Bool) : List (List Bool) :=
  match n with
  | 0 => []
  | k + 1 =>
    match faxLine ref gw (bits.length + 1) [] false true bits with
    | none => []
    | some (l, r) => l :: faxLines gw k l r

/-- The lines of a T.6 stream of an image of GW × GH pixels. -/
def faxDecode (bytes : List Nat) (gw gh : Nat) : List (List Bool) := faxLines gw gh (List.replicate gw false) (msbBits bytes)

end Sys2Proof.Machine
end

