-- ==== Sys2Proof/Machine/Jpeg.lean ====
section
/-! DEFINITION. Sys2Proof/Machine/Jpeg.lean: baseline and progressive Huffman coding of ITU-T T.81 with 8-bit precision (R240 to R242). The
spec says what a sample is (R241) and which modes are decoded (R240); the coding of the coefficients it names and does not give: that is
PRESUMED from the Recommendation (log entry 12). -/
namespace Sys2Proof.Machine

/-! ## What a stream has told -/

/-- A component: its number, sampling factors, quantisation table (first its number, at its first scan its 64 values in zigzag order), blocks a
row, and its coefficients by block, 64 in zigzag order. -/
structure JpegComp where
  id : Nat
  h : Nat
  v : Nat
  tq : Nat
  quant : List Nat
  across : Nat
  blocks : FMap (List Int)
  deriving DecidableEq, Repr, Inhabited

/-- A frame: coding, size, components; the components of its last scan, and how many MCUs of that have been decoded. -/
structure JpegFrame where
  progressive : Bool
  w : Nat
  h : Nat
  comps : List JpegComp
  last : List Nat
  done : Nat
  deriving DecidableEq, Repr, Inhabited

/-- Tables and frame so far: quantisation tables by number; Huffman tables by 16·class + number, as codes behind a leading 1 with their
values; restart interval. -/
structure Jpeg where
  quant : FMap (List Nat)
  huff : FMap (List (Nat × Nat))
  restart : Nat
  frame : Option JpegFrame
  deriving DecidableEq, Repr, Inhabited

/-- What decoding a stream comes to: a feature that is not supported, a stream that breaks before its size is known, or a frame, whole or not. -/
inductive Coded where
  | unsupported
  | malformed
  | picture (f : JpegFrame) (whole : Bool)
  deriving DecidableEq, Repr, Inhabited

/-- Largest sampling factors. -/
def JpegFrame.hmax (f : JpegFrame) : Nat := f.comps.foldl (fun a c => max a c.h) 1
/-- The same downwards. -/
def JpegFrame.vmax (f : JpegFrame) : Nat := f.comps.foldl (fun a c => max a c.v) 1
/-- MCUs of an interleaved scan, across. -/
def JpegFrame.mcusAcross (f : JpegFrame) : Nat := (f.w + 8 * f.hmax - 1) / (8 * f.hmax)
/-- The same downwards. -/
def JpegFrame.mcusDown (f : JpegFrame) : Nat := (f.h + 8 * f.vmax - 1) / (8 * f.vmax)

/-- The sampling of R240: 0 greyscale, 1 for 4:4:4, 2 for 4:2:2, 3 for 4:2:0; none for another. -/
def samplingOf (l : List JpegComp) : Option Nat :=
  match l with
  | [_] => some 0
  | [y, b, r] =>
    if b.h ≠ r.h ∨ b.v ≠ r.v then none
    else if y.h = b.h ∧ y.v = b.v then some 1
    else if y.h = 2 * b.h ∧ y.v = b.v then some 2
    else if y.h = 2 * b.h ∧ y.v = 2 * b.v then some 3
    else none
  | _ => none

/-! ## Marker segments -/

/-- A big-endian number of two bytes at place `i`. -/
def be16 (l : List Nat) (i : Nat) : Nat := 256 * l.getD i 0 + l.getD (i + 1) 0

/-- The next marker, fill bytes before it passed over. -/
def nextMarker (l : List Nat) : Option (Nat × List Nat) :=
  match l with
  | 0xFF :: rest =>
    match rest.dropWhile (· == 0xFF) with
    | m :: r => if m = 0 then none else some (m, r)
    | [] => none
  | _ => none

/-- The segment after a marker, without its length. -/
def markerSegment (l : List Nat) : Option (List Nat × List Nat) :=
  let n := be16 l 0
  if l.length < 2 ∨ n < 2 ∨ l.length < n then none else some ((l.take n).drop 2, l.drop n)

/-- Quantisation tables (DQT). -/
def readQuant (fuel : Nat) (q : FMap (List Nat)) (l : List Nat) : Option (FMap (List Nat)) :=
  match fuel, l with
  | _, [] => some q
  | 0, _ => none
  | k + 1, b :: r =>
    let wide := b / 16
    let n := 64 * (wide + 1)
    if 1 < wide ∨ 3 < b % 16 ∨ r.length < n then none
    else readQuant k (finsert q (b % 16) ((List.range 64).map (fun i => if wide = 0 then r.getD i 0 else be16 r (2 * i)))) (r.drop n)

/-- The codes of a Huffman table, length by length from `len`, the next being `code`: none where a length has too many. -/
def huffCodes (len code : Nat) (counts syms : List Nat) : Option (List (Nat × Nat)) :=
  match counts with
  | [] => some []
  | n :: rest =>
    if 2 ^ len < code + n then none
    else (huffCodes (len + 1) (2 * (code + n)) rest (syms.drop n)).map
      (fun t => (syms.take n).zipIdx.map (fun x => (2 ^ len + code + x.2, x.1)) ++ t)

/-- Huffman tables (DHT). -/
def readHuff (fuel : Nat) (t : FMap (List (Nat × Nat))) (l : List Nat) : Option (FMap (List (Nat × Nat))) :=
  match fuel, l with
  | _, [] => some t
  | 0, _ => none
  | k + 1, b :: r =>
    let counts := r.take 16
    let n := counts.foldl (· + ·) 0
    if 1 < b / 16 ∨ 3 < b % 16 ∨ r.length < 16 + n then none
    else match huffCodes 1 0 counts ((r.drop 16).take n) with
      | none => none
      | some c => readHuff k (finsert t b c) (r.drop (16 + n))

/-- A frame header (SOF0, SOF2): precision, lines, samples a line, components. -/
def readFrame (progressive : Bool) (l : List Nat) : Option JpegFrame :=
  let n := l.getD 5 0
  let comp (i : Nat) : JpegComp :=
    ⟨l.getD (6 + 3 * i) 0, l.getD (7 + 3 * i) 0 / 16, l.getD (7 + 3 * i) 0 % 16, l.getD (8 + 3 * i) 0, [], 0, []⟩
  let f : JpegFrame := ⟨progressive, be16 l 3, be16 l 1, (List.range n).map comp, [], 0⟩
  if l.length ≠ 6 + 3 * n ∨ f.w = 0 ∨ f.comps.any (fun c => c.h == 0 || decide (4 < c.h) || c.v == 0 || decide (4 < c.v) || decide (3 < c.tq))
  then none
  else some { f with comps := f.comps.map (fun c => { c with across := f.mcusAcross * c.h }) }

/-! ## Entropy-coded data -/

/-- The bytes of a scan, cut at its restart markers, and what follows; false where a restart marker is out of turn. `cur` are the bytes of the
present piece in reverse, `n` the pieces before it. -/
def scanBytes (l cur : List Nat) (n : Nat) : List (List Nat) × List Nat × Bool :=
  match l with
  | [] => ([cur.reverse], [], true)
  | [b] => ([(if b = 0xFF then cur else b :: cur).reverse], [], true)
  | b :: m :: r =>
    if b ≠ 0xFF then scanBytes (m :: r) (b :: cur) n
    else if m = 0 then scanBytes r (0xFF :: cur) n
    else if m = 0xFF then scanBytes (m :: r) cur n
    else if m / 8 = 0x1A then
      (if m % 8 = n % 8 then
        (let x := scanBytes r [] (n + 1)
         (cur.reverse :: x.1, x.2))
       else ([cur.reverse], b :: m :: r, false))
    else ([cur.reverse], b :: m :: r, true)

/-- `n` bits as a number. -/
def readBits (n : Nat) (l : List Bool) : Option (Nat × List Bool) :=
  if l.length < n then none else some ((l.take n).foldl (fun a b => 2 * a + b2n b) 0, l.drop n)

/-- The value of `n` further bits `v`: the smaller half are the negative ones. -/
def extendBits (n v : Nat) : Int := if n = 0 then 0 else if v < 2 ^ (n - 1) then (v : Int) - (2 ^ n : Nat) + 1 else v

/-- The next value of a Huffman table. -/
def readHuffVal (t : List (Nat × Nat)) (l : List Bool) : Option (Nat × List Bool) :=
  readCode (fun a => (t.find? (fun x => x.1 == a)).map (·.2)) 16 1 l

/-- A signed number of `n` bits. -/
def readSigned (n : Nat) (l : List Bool) : Option (Int × List Bool) := (readBits n l).map (fun x => (extendBits n x.1, x.2))

/-- AC coefficients `k` to `se` of a block, as first coded: `scale` is 2^Al; the run of blocks that end here is returned, this one included
(sequential coding knows only runs of one). -/
def acFirst (t : List (Nat × Nat)) (runs : Bool) (scale : Int) (se fuel k : Nat) (blk : List Int) (l : List Bool) :
    Option (List Int × Nat × List Bool) :=
  match fuel with
  | 0 => none
  | m + 1 =>
    if se < k then (if k = se + 1 then some (blk, 0, l) else none)
    else match readHuffVal t l with
      | none => none
      | some (rs, l) =>
        let r := rs / 16
        let n := rs % 16
        if n = 0 then
          if r = 15 then acFirst t runs scale se m (k + 16) blk l
          else if !runs && r != 0 then none
          else (readBits r l).map (fun x => (blk, 2 ^ r + x.1, x.2))
        else if se < k + r then none
        else match readSigned n l with
          | none => none
          | some (v, l) => acFirst t runs scale se m (k + r + 1) (blk.set (k + r) (v * scale)) l

/-- Correction bits from coefficient `k` on, until `zeros` coefficients that are still zero have been passed; where it stops. -/
def acCorrect (scale : Int) (se fuel k zeros : Nat) (blk : List Int) (l : List Bool) : Option (Nat × List Int × List Bool) :=
  match fuel with
  | 0 => none
  | m + 1 =>
    if se < k then some (k, blk, l)
    else
      let c := blk.getD k 0
      if c ≠ 0 then
        match l with
        | [] => none
        | b :: rest => acCorrect scale se m (k + 1) zeros (if b then blk.set k (if c < 0 then c - scale else c + scale) else blk) rest
      else if zeros = 0 then some (k, blk, l)
      else acCorrect scale se m (k + 1) (zeros - 1) blk l

/-- AC coefficients of a block refined by one bit. -/
def acRefine (t : List (Nat × Nat)) (scale : Int) (se fuel k : Nat) (blk : List Int) (l : List Bool) : Option (List Int × Nat × List Bool) :=
  match fuel with
  | 0 => none
  | m + 1 =>
    if se < k then some (blk, 0, l)
    else match readHuffVal t l with
      | none => none
      | some (rs, l) =>
        let r := rs / 16
        let n := rs % 16
        if n = 0 ∧ r < 15 then
          match readBits r l with
          | none => none
          | some (e, l) => (acCorrect scale se 65 k 64 blk l).map (fun x => (x.2.1, 2 ^ r + e, x.2.2))
        else if 1 < n then none
        else match readBits n l with
          | none => none
          | some (sign, l) =>
            match acCorrect scale se 65 k r blk l with
            | none => none
            | some (k, blk, l) =>
              if n = 0 then acRefine t scale se m (k + 1) blk l
              else if se < k then none
              else acRefine t scale se m (k + 1) (blk.set k (if sign = 1 then scale else -scale)) l

/-! ## Scans -/

/-- A scan header: components by place with their tables, spectral selection, successive approximation. -/
structure JpegScan where
  comps : List (Nat × Nat × Nat)
  ss : Nat
  se : Nat
  ah : Nat
  al : Nat
  deriving DecidableEq, Repr, Inhabited

/-- A scan header (SOS) of a frame. -/
def readScan (f : JpegFrame) (l : List Nat) : Option JpegScan :=
  let n := l.getD 0 0
  let comps : List (Nat × Nat × Nat) := (List.range n).filterMap (fun i => (f.comps.findIdx? (fun c => c.id == l.getD (1 + 2 * i) 0)).map
    (fun k => (k, l.getD (2 + 2 * i) 0 / 16, l.getD (2 + 2 * i) 0 % 16)))
  let s : JpegScan := ⟨comps, l.getD (1 + 2 * n) 0, l.getD (2 + 2 * n) 0, l.getD (3 + 2 * n) 0 / 16, l.getD (3 + 2 * n) 0 % 16⟩
  let ok : Bool := if f.progressive then decide (s.se ≤ 63 ∧ s.al ≤ 13 ∧ (s.ah = 0 ∨ s.ah = s.al + 1)) &&
      (if s.ss = 0 then s.se == 0 else decide (s.ss ≤ s.se) && n == 1)
    else decide (s.ss = 0 ∧ s.se = 63 ∧ s.ah = 0 ∧ s.al = 0)
  if ok && decide (l.length = 4 + 2 * n ∧ 1 ≤ n ∧ (comps.map (fun x => x.1)).eraseDups.length = n) then some s else none

/-- The blocks of each MCU of a scan, as component and block: of one component its own blocks, else the blocks of an area of the image. -/
def scanMcus (f : JpegFrame) (s : JpegScan) : List (List (Nat × Nat)) :=
  match s.comps with
  | [(k, _)] =>
    let c := f.comps.getD k default
    let wide := ((f.w * c.h + f.hmax - 1) / f.hmax + 7) / 8
    let high := ((f.h * c.v + f.vmax - 1) / f.vmax + 7) / 8
    (List.range (wide * high)).map (fun i => [(k, i / wide * c.across + i % wide)])
  | l =>
    (List.range (f.mcusAcross * f.mcusDown)).map (fun i => l.flatMap (fun x =>
      let c := f.comps.getD x.1 default
      (List.range (c.h * c.v)).map (fun b =>
        (x.1, (i / f.mcusAcross * c.v + b / c.h) * c.across + i % f.mcusAcross * c.h + b % c.h))))

/-- What decoding a scan goes on with: components, the last DC value of each, blocks that still end at once, bits. -/
structure ScanState where
  comps : List JpegComp
  preds : FMap Int
  eobs : Nat
  bits : List Bool
  deriving DecidableEq, Repr, Inhabited

/-- The DC coefficient of a block. -/
def ScanState.dc (z : ScanState) (j : Jpeg) (s : JpegScan) (k td : Nat) (blk : List Int) : Option (List Int × ScanState) :=
  if s.ah ≠ 0 then
    (readBits 1 z.bits).map (fun x => (blk.set 0 (blk.getD 0 0 + (x.1 * 2 ^ s.al : Nat)), { z with bits := x.2 }))
  else
    match readHuffVal (fget j.huff [] td) z.bits with
    | none => none
    | some (n, l) =>
      if 16 < n then none
      else (readSigned n l).map (fun x =>
        let p := fget z.preds 0 k + x.1
        (blk.set 0 (p * (2 ^ s.al : Nat)), { z with preds := finsert z.preds k p, bits := x.2 }))

/-- The AC coefficients of a block from place `k` on. -/
def ScanState.ac (z : ScanState) (j : Jpeg) (f : JpegFrame) (s : JpegScan) (ta k : Nat) (blk : List Int) : Option (List Int × ScanState) :=
  let t := fget j.huff [] (16 + ta)
  let scale : Int := (2 ^ s.al : Nat)
  if s.ah = 0 then
    if 0 < z.eobs then some (blk, { z with eobs := z.eobs - 1 })
    else (acFirst t f.progressive scale s.se 65 k blk z.bits).map (fun x => (x.1, { z with eobs := x.2.1 - 1, bits := x.2.2 }))
  else if 0 < z.eobs then
    (acCorrect scale s.se 65 k 64 blk z.bits).map (fun x => (x.2.1, { z with eobs := z.eobs - 1, bits := x.2.2 }))
  else (acRefine t scale s.se 65 k blk z.bits).map (fun x => (x.1, { z with eobs := x.2.1 - 1, bits := x.2.2 }))

/-- A block of component `k`. -/
def ScanState.block (z : ScanState) (j : Jpeg) (f : JpegFrame) (s : JpegScan) (k b : Nat) : Option ScanState :=
  let c := z.comps.getD k default
  let tabs := ((s.comps.find? (fun x => x.1 == k)).map (·.2)).getD (0, 0)
  let blk := (fget? c.blocks b).getD (List.replicate 64 0)
  let put (x : List Int × ScanState) : ScanState := { x.2 with comps := x.2.comps.set k { c with blocks := finsert c.blocks b x.1 } }
  match (if s.ss = 0 then z.dc j s k tabs.1 blk else some (blk, z)) with
  | none => none
  | some (blk, z) => (if s.se = 0 then some (blk, z) else z.ac j f s tabs.2 (max 1 s.ss) blk).map put

/-- The blocks of an MCU. -/
def ScanState.mcu (z : ScanState) (j : Jpeg) (f : JpegFrame) (s : JpegScan) (l : List (Nat × Nat)) : Option ScanState :=
  l.foldl (fun a x => a.bind (fun z => z.block j f s x.1 x.2)) (some z)

/-- MCUs one after the other, up to the first that does not decode: how many did. -/
def ScanState.mcus (z : ScanState) (j : Jpeg) (f : JpegFrame) (s : JpegScan) (l : List (List (Nat × Nat))) : ScanState × Nat :=
  match l with
  | [] => (z, 0)
  | m :: rest =>
    match z.mcu j f s m with
    | none => (z, 0)
    | some z' =>
      let r := z'.mcus j f s rest
      (r.1, r.2 + 1)

/-- The pieces of a scan between restart markers, each of `j.restart` MCUs: components, MCUs decoded, whether all were and no piece is left. -/
def runPieces (j : Jpeg) (f : JpegFrame) (s : JpegScan) (comps : List JpegComp) (pieces : List (List Nat)) (l : List (List (Nat × Nat))) :
    List JpegComp × Nat × Bool :=
  match pieces with
  | [] => (comps, 0, l.isEmpty)
  | g :: rest =>
    let now := if j.restart = 0 then l else l.take j.restart
    let r := ScanState.mcus ⟨comps, [], 0, msbBits g⟩ j f s now
    if r.2 < now.length ∨ now.isEmpty then (r.1.comps, r.2, false)
    else
      let x := runPieces j f s r.1.comps rest (l.drop now.length)
      (x.1, r.2 + x.2.1, x.2.2)

/-- The quantisation table of each component of a scan is the one that stands at its first scan. -/
def takeQuant (j : Jpeg) (f : JpegFrame) (s : JpegScan) : JpegFrame :=
  { f with comps := f.comps.zipIdx.map (fun x =>
      if x.1.quant.isEmpty && s.comps.any (fun y => y.1 == x.2) then { x.1 with quant := fget j.quant [] x.1.tq } else x.1) }

/-- A scan: the frame after it, what follows, and whether it was whole. Where the frame header has no number of lines, a DNL segment after the
first scan gives it. -/
def runScan (j : Jpeg) (f : JpegFrame) (s : JpegScan) (l : List Nat) : JpegFrame × List Nat × Bool :=
  let x := scanBytes l [] 0
  let lines := if f.h = 0 ∧ x.2.1.take 4 = [0xFF, 0xDC, 0, 4] then be16 x.2.1 4 else f.h
  let f := takeQuant j { f with h := lines } s
  let r := runPieces j f s f.comps x.1 (scanMcus f s)
  ({ f with comps := r.1, last := s.comps.map (·.1), done := r.2.1 }, x.2.1,
   x.2.2 && r.2.2 && s.comps.all (fun y => decide (((f.comps.getD y.1 default).quant).length = 64)))

/-- The MCU of the last scan that holds the samples of the pixel at a row and column (`scanMcus`). -/
def JpegFrame.mcuOf (f : JpegFrame) (row col : Nat) : Nat :=
  match f.last with
  | [k] =>
    let c := f.comps.getD k default
    row * c.v / f.vmax / 8 * (((f.w * c.h + f.hmax - 1) / f.hmax + 7) / 8) + col * c.h / f.hmax / 8
  | _ => row / (8 * f.vmax) * f.mcusAcross + col / (8 * f.hmax)

/-- Every sample of the pixel at a row and column is decoded: each component has come to its scan, and the last scan past the pixel. Of a
progressive frame none is before the stream has ended, since a later scan may change it. -/
def JpegFrame.decoded (f : JpegFrame) (row col : Nat) : Bool :=
  !f.progressive && f.comps.all (fun c => !c.quant.isEmpty) && decide (f.mcuOf row col < f.done)

/-! ## Streams -/

/-- The stream breaks. -/
def Jpeg.broken (j : Jpeg) : Coded := match j.frame with | none => .malformed | some f => .picture f false

/-- The stream ends: the image is whole where every component has been scanned. -/
def Jpeg.ended (j : Jpeg) : Coded :=
  match j.frame with
  | none => .malformed
  | some f => .picture f (f.comps.all (fun c => !c.quant.isEmpty))

/-- Frame headers of modes R240 names as not supported, and of extended sequential coding, which it does not name as supported: SOF1, SOF3,
SOF5 to SOF15, DHP and EXP. -/
def unsupportedMode (m : Nat) : Bool := [0xC1, 0xC3, 0xC5, 0xC6, 0xC7, 0xC8, 0xC9, 0xCA, 0xCB, 0xCD, 0xCE, 0xCF, 0xDE, 0xDF].contains m

/-- The marker segments of a stream, from its start of image on. -/
def jpegRun (fuel : Nat) (j : Jpeg) (l : List Nat) : Coded :=
  match fuel with
  | 0 => j.broken
  | k + 1 =>
    match nextMarker l with
    | none => j.broken
    | some (m, r) =>
      if m = 0xD9 then j.ended
      else if unsupportedMode m && j.frame.isNone then .unsupported
      else match markerSegment r with
        | none => j.broken
        | some (seg, rest) =>
          if m = 0xDB then (match readQuant seg.length j.quant seg with | none => j.broken | some q => jpegRun k { j with quant := q } rest)
          else if m = 0xC4 then (match readHuff seg.length j.huff seg with | none => j.broken | some t => jpegRun k { j with huff := t } rest)
          else if m = 0xDD then (if seg.length = 2 then jpegRun k { j with restart := be16 seg 0 } rest else j.broken)
          else if m = 0xC0 ∨ m = 0xC2 then
            (if j.frame.isSome then j.broken
             else if seg.getD 0 8 ≠ 8 then .unsupported
             else match readFrame (m == 0xC2) seg with
               | none => j.broken
               | some f => if (samplingOf f.comps).isNone then .unsupported else jpegRun k { j with frame := some f } rest)
          else if m = 0xDA then
            (match j.frame with
             | none => j.broken
             | some f =>
               match readScan f seg with
               | none => j.broken
               | some s =>
                 let x := runScan j f s rest
                 if x.2.2 then jpegRun k { j with frame := some x.1 } x.2.1 else ({ j with frame := some x.1 } : Jpeg).broken)
          else if m / 16 = 0xE ∨ m = 0xFE ∨ m = 0xDC ∨ m = 0xCC then jpegRun k j rest
          else j.broken

/-- A T.81 stream. -/
def jpegDecode (l : List Nat) : Coded :=
  match l with
  | 0xFF :: 0xD8 :: rest => jpegRun (rest.length + 1) ⟨[], [], 0, none⟩ rest
  | _ => .malformed

/-! ## Samples (R241) -/

/-- Place in zigzag order of the coefficient of vertical frequency `v` and horizontal frequency `u`. -/
def zigzag (v u : Nat) : Nat :=
  let d := u + v
  let before := if d ≤ 7 then d * (d + 1) / 2 else 64 - (15 - d) * (16 - d) / 2
  before + (if d % 2 = 1 then (if d ≤ 7 then v else 7 - u) else (if d ≤ 7 then u else 7 - v))

/-- cos(kπ/16) over the basis 1, cos(π/16), …, cos(7π/16), which is linearly independent over the rationals. -/
def cosVec (k : Nat) : List Int :=
  let m := k % 32
  let n := if m ≤ 16 then m else 32 - m
  (List.range 8).map (fun i => if n = i then 1 else if n = 16 - i then -1 else 0)

/-- Rationals close to the members of that basis: within 2^-1190, where a sum of 64 coefficients of 48 bits that is not zero is at least
2^-500 (the product of its eight conjugates is a rational with denominator 16^8 at most). -/
def cosBasis : List Rat :=
  let half (x : Rat) : Rat := sqrtRat ((1 + x) / 2)
  let c4 := sqrtRat (1 / 2)
  let c2 := half c4
  let c6 := half (-c4)
  [1, half c2, c2, half c6, c4, half (-c6), c6, half (-c2)]

/-- The exact sum of the inverse DCT at row `y` and column `x` of a block, times 8, over that basis: `coef v u` are the dequantised
coefficients. 1/√2 is cos(4π/16), and a product of cosines is half a sum of two. -/
def idctVec (coef : Nat → Nat → Int) (y x : Nat) : List Int :=
  let arg (u p : Nat) : Nat := if u = 0 then 4 else (2 * p + 1) * u
  (List.range 64).foldl (fun a i =>
    let s := coef (i / 8) (i % 8)
    let p := arg (i % 8) x
    let q := arg (i / 8) y
    (a.zip ((cosVec (p + q)).zip (cosVec (if p ≤ q then q - p else p - q)))).map (fun z => z.1 + s * (z.2.1 + z.2.2))) (List.replicate 8 0)

/-- A sample: that sum divided by 8, plus 128, to the nearest integer, ties to even, within 0 to 255. Only a rational sum can be a tie. -/
def sampleOf (v : List Int) : Nat :=
  let approx : Rat := ((v.zip cosBasis).foldl (fun a z => a + (z.1 : Rat) * z.2) 0) / 8 + 128
  let n : Int := if (v.drop 1).all (· == 0) then rneInt approx else (approx + 1 / 2).floor
  (max 0 (min 255 n)).toNat

/-- Sample of component `k` at a row and column of it. -/
def JpegFrame.sample (f : JpegFrame) (k row col : Nat) : Nat :=
  let c := f.comps.getD k default
  let blk := (fget? c.blocks (row / 8 * c.across + col / 8)).getD []
  sampleOf (idctVec (fun v u => blk.getD (zigzag v u) 0 * (c.quant.getD (zigzag v u) 0 : Nat)) (row % 8) (col % 8))

end Sys2Proof.Machine
end

