-- ==== Sys2Proof/Machine/Image.lean ====
section
/-! DEFINITION. Sys2Proof/Machine/Image.lean: image decode (R240 to R242), on the codings of Machine/Jpeg.lean and Machine/Fax.lean. -/
namespace Sys2Proof.Machine

/-! ## The pack (R240) -/

/-- Stream length. -/
def Cmd.imgLen (c : Cmd) : Nat := c.fld 1 32 32
/-- Stream endpoint. -/
def Cmd.imgSrc (c : Cmd) : EndPt := endPt (c.fld 1 0 16)
/-- BUDGET. -/
def Cmd.budget (c : Cmd) : Nat := c.fld 2 48 16
/-- Patch side P. -/
def Cmd.side (c : Cmd) : Nat := match c.fld 2 46 2 with | 0 => 14 | 1 => 16 | _ => 32
/-- Output element size. -/
def Cmd.outBytes (c : Cmd) : Nat := if c.fld 2 44 2 = 0 then 2 else 1
/-- Output format. -/
def Cmd.outFmt (c : Cmd) : FpFmt := if c.fld 2 44 2 = 0 then .bf16 else .e4m3
/-- CODEC. -/
def Cmd.codec (c : Cmd) : Nat := c.fld 2 42 2
/-- RING. -/
def Cmd.imgRing (c : Cmd) : Nat := c.fld 2 37 5

/-- Reserved fields: GW and GH are zero for T.81. -/
def idecReserved (p : List DWord) : Bool :=
  extra p 1 (ones 32 32 + ones 0 16) || extra p 2 (ones 37 27 + ones 0 32) || (endPt (field (p.getD 1 0) 0 16)).reserved false ||
  (field (p.getD 2 0) 42 2 == 0 && field (p.getD 2 0) 0 32 != 0)

/-- `idec` (R240). -/
def execIdec (f : FmtE) (s : State) : Res := engineOp s (.idec f) f 0x20 3 idecReserved []

/-- The ring entry holds a patch of `ch` channels and its record. -/
def Cmd.patchFits (c : Cmd) (r : Ring) (ch : Nat) : Bool := decide (c.side * c.side * ch * c.outBytes + 16 ≤ 2 ^ r.e)

/-- The ring the command produces into. -/
def State.cmdRing (s : State) (c : Cmd) (n : Nat) : Option Ring := (s.taskOf c.task).bind (·.ring? n)

/-- The acceptance checks of `idec`; the number of patches is known once the stream has been read. The
ring is no range the pack names and has no RANGE check (log entry 16). -/
def State.imageAccept (s : State) (c : Cmd) : Accept where
  param := s.feat 7 && c.imgSrc.swzOk && !s.endRemote c c.imgSrc && decide (1 ≤ c.imgLen ∧ c.imgLen < 2 ^ 31 ∧ 1 ≤ c.budget ∧ c.fld 2 46 2 ≠ 3 ∧ c.fld 2 44 2 < 2 ∧ c.codec < 2) &&
    (c.codec != 1 || decide (1 ≤ c.fld 2 16 16 ∧ 1 ≤ c.fld 2 0 16)) &&
    (match s.cmdRing c c.imgRing with | some r => c.patchFits r 1 | none => false)
  range := c.imgSrc.space != 0 || s.cmdSram c (c.reg 0) c.imgLen
  align := true
  overlap := true
  state := true
  total := 1

/-! ## The image (R241) -/

/-- The bytes of a number, low first. -/
def bytesOf (n v : Nat) : List Nat :=
  match n with
  | 0 => []
  | k + 1 => v % 256 :: bytesOf k (v / 256)

/-- What decodes of a stream: a T.81 frame, or the lines of a T.6 image, black as true. -/
inductive Pixels where
  | t81 (f : JpegFrame)
  | t6 (lines : List (List Bool))
  deriving DecidableEq, Repr, Inhabited

/-- A decoded image: its size, its sampling (0 greyscale, 1 for 4:4:4, 2 for 4:2:2, 3 for 4:2:0), its pixels, and whether its stream is whole. -/
structure Picture where
  w : Nat
  h : Nat
  sampling : Nat
  px : Pixels
  whole : Bool
  deriving DecidableEq, Repr, Inhabited

/-- The stream of a command decoded: a picture, or the status it completes with, 10 for UNSUPP and 9 for DECODE. -/
def Cmd.picture (c : Cmd) : Except Nat Picture :=
  if c.codec = 0 then
    match jpegDecode c.vals with
    | .unsupported => .error 10
    | .malformed => .error 9
    | .picture f whole => if f.h = 0 then .error 9 else .ok ⟨f.w, f.h, (samplingOf f.comps).getD 0, .t81 f, whole⟩
  else
    let lines := faxDecode c.vals (c.fld 2 16 16) (c.fld 2 0 16)
    .ok ⟨c.fld 2 16 16, c.fld 2 0 16, 0, .t6 lines, lines.length == c.fld 2 0 16⟩

/-- The pixel at a row and column stands before the break of a stream that breaks: its samples are decoded (log entry 12). -/
def Picture.reaches (p : Picture) (row col : Nat) : Bool :=
  match p.px with
  | .t6 lines => decide (row < lines.length)
  | .t81 f => f.decoded row col

/-- Channels of an image. -/
def channels (sampling : Nat) : Nat := if sampling = 0 then 1 else 3

/-- A real between 0 and 255. -/
def clamp255 (x : Rat) : Rat := if x < 0 then 0 else if 255 < x then 255 else x

/-- Channel `ch` of the source pixel at row and column, as an exact real. -/
def Picture.pixel (p : Picture) (row col ch : Nat) : Rat :=
  match p.px with
  | .t6 lines => if (lines.getD row []).getD col false then 0 else 1
  | .t81 f =>
    let y : Rat := ((f.sample 0 row col : Nat) : Rat)
    if p.sampling = 0 then y / 255
    else
      let rr := if p.sampling = 3 then row / 2 else row
      let cc := if p.sampling = 1 then col else col / 2
      let cb : Rat := ((f.sample 1 rr cc : Nat) : Rat) - 128
      let cr : Rat := ((f.sample 2 rr cc : Nat) : Rat) - 128
      match ch with
      | 0 => clamp255 (y + 1402 / 1000 * cr) / 255
      | 1 => clamp255 (y - 344136 / 1000000 * cb - 714136 / 1000000 * cr) / 255
      | _ => clamp255 (y + 1772 / 1000 * cb) / 255

/-- The image after resampling: divisor q, size, patches across and down. -/
structure Grid where
  q : Nat
  w2 : Nat
  h2 : Nat
  gw : Nat
  gh : Nat
  deriving DecidableEq, Repr, Inhabited

/-- The grid of divisor `q`. -/
def gridAt (w h p q : Nat) : Grid :=
  let w2 := max 1 (4 * w / q)
  let h2 := max 1 (4 * h / q)
  ⟨q, w2, h2, (w2 + p - 1) / p, (h2 + p - 1) / p⟩

/-- The first divisor from `q` on whose patches fit the budget; `fuel` reaches a 1 × 1 image. -/
def gridFrom (w h p budget q fuel : Nat) : Grid :=
  let g := gridAt w h p q
  match fuel with
  | 0 => g
  | n + 1 => if g.gw * g.gh ≤ budget then g else gridFrom w h p budget (q + 1) n

/-- The grid of the command's image. -/
def Cmd.grid (c : Cmd) (w h : Nat) : Grid := gridFrom w h c.side c.budget 4 (4 * max w h)

/-- Quarters of a pixel that the interval of output index `x` shares with each source index, of `n` in all. -/
def shares (q n x : Nat) : List (Nat × Nat) :=
  let lo := x * q
  let hi := min ((x + 1) * q) (4 * n)
  (List.range ((hi + 3) / 4 - lo / 4)).map (fun k =>
    let i := lo / 4 + k
    (i, min hi (4 * i + 4) - max lo (4 * i)))

/-- The output value at (x, y) of a channel (R241). -/
def Cmd.outPixel (c : Cmd) (g : Grid) (p : Picture) (x y ch : Nat) : Nat :=
  let xs := shares g.q p.w x
  let ys := shares g.q p.h y
  let area := xs.foldl (fun a p => a + p.2) 0 * ys.foldl (fun a p => a + p.2) 0
  let sum : Rat := ys.foldl (fun a py => xs.foldl (fun b px => b + p.pixel py.1 px.1 ch * ((px.2 * py.2 : Nat) : Rat)) a) 0
  (rne (.fin (sum / ((area : Nat) : Rat)) false) c.outFmt).1

/-- The bytes of patch `n`, as one number (R242). -/
def Cmd.patch (c : Cmd) (g : Grid) (pic : Picture) (n : Nat) : Nat :=
  let p := c.side
  let ch := channels pic.sampling
  let gx := n % g.gw
  let gy := n / g.gw
  (List.range (p * p * ch)).foldr (fun i a =>
    let x := gx * p + i / ch % p
    let y := gy * p + i / ch / p
    (if x < g.w2 ∧ y < g.h2 then c.outPixel g pic x y (i % ch) else 0) + 2 ^ (8 * c.outBytes) * a) 0

/-- The position record of patch `n` (R242). -/
def Cmd.posRecord (c : Cmd) (g : Grid) (n : Nat) : Nat :=
  let p := c.side
  let gx := n % g.gw
  let gy := n / g.gw
  gx + 2 ^ 16 * gy + 2 ^ 32 * min p (g.w2 - gx * p) + 2 ^ 48 * min p (g.h2 - gy * p) + 2 ^ 64 * n + 2 ^ 96 * g.gw + 2 ^ 112 * g.gh

/-! ## Decoding (R242) -/

/-- The stream has been read: what its head decides. -/
def State.openImage (s : State) (c : Cmd) : State :=
  match c.picture with
  | .error status => s.endCmd { c with elem := 0 } status
  | .ok p =>
    let g := c.grid p.w p.h
    match s.cmdRing c c.imgRing with
    | some r =>
      if !c.patchFits r (channels p.sampling) then s.endCmd c 5
      else s.setCmd { c with total := g.gw * g.gh, bad := g.q }
    | none => s.endCmd c 5

/-- How many patches stand before the break of a stream: the last source pixel of each is reached. -/
def Cmd.patchesWhole (c : Cmd) (g : Grid) (p : Picture) : Nat :=
  ((List.range (g.gw * g.gh)).takeWhile (fun n =>
    let last (side i size full : Nat) : Nat := min full ((min ((i + 1) * side) size * g.q + 3) / 4) - 1
    p.reaches (last c.side (n / g.gw) g.h2 p.h) (last c.side (n % g.gw) g.w2 p.w))).length

/-- The stream breaks before the command's next patch: how many are published before that is found is open (R242; log entry 12). -/
def Cmd.breaksNow (c : Cmd) (g : Grid) (p : Picture) : Bool :=
  !p.whole && decide (min (Config.codedPatches c.vals (c.pack.map (·.toNat))) (c.patchesWhole g p) ≤ c.elem)

/-- Read the coded stream, once. -/
def State.imageRead (s : State) (c : Cmd) : ElemOut :=
  let e := c.imgSrc
  let off := c.reg 0
  if !c.vals.isEmpty then .wait s
  else match s.endErr c e off c.imgLen false with
    | some (p, k) => .err p k
    | none => .wait ((s.endSee c e off c.imgLen).openImage { c with vals := bytesOf c.imgLen (s.endRd c e off c.imgLen) })

/-- The ring has a free entry at IP (R193). -/
def Ring.freeEntry (r : Ring) : Bool := decide ((r.ip - r.c).toNat < r.count)

/-- Address of entry `i`. -/
def Ring.entryAt (r : Ring) (i : Word) : Nat := r.base + i.toNat % r.count * 2 ^ r.e

/-- A patch is written into the entry at IP, and P and IP advance together. A broken stream gives DECODE even where every patch stood before the
break. -/
def State.putPatch (s : State) (c : Cmd) (t : Task) (r : Ring) (g : Grid) (p : Picture) : State :=
  let a := r.entryAt r.ip
  let len := c.side * c.side * channels p.sampling * c.outBytes
  match (s.sramErrAt c.die a len true).or (s.sramErrAt c.die (a + 2 ^ r.e - 16) 16 true) with
  | some e => s.cmdFault c e 0xFFFF
  | none =>
    let s := (s.sramWr c.die a len (c.patch g p c.elem)).sramWr c.die (a + 2 ^ r.e - 16) 16 (c.posRecord g c.elem)
    (s.putEng (t.setRing c.imgRing (r.advP 1))).elemDone (if !p.whole && c.total ≤ c.elem + 1 then { c with status := 9 } else c)

/-- The decoder publishes its next patch, or finds the stream broken there. -/
def State.publishPatch (s : State) (c : Cmd) : State :=
  match s.taskOf c.task, s.cmdRing c c.imgRing, c.picture with
  | some t, some r, .ok p =>
    if c.breaksNow (c.grid p.w p.h) p then s.endCmd c 9
    else if r.freeEntry then s.putPatch c t r (c.grid p.w p.h) p
    else s
  | _, _, _ => s

/-- IDEC_PATCH_PUBLISH (R242). -/
def execIdecPatchPublish (cmd : Nat) (s : State) : Res :=
  match s.cmd? cmd with
  | some c => .next (if c.opcode == 0x20 && c.st == .running && !c.vals.isEmpty then s.publishPatch c else s)
  | none => .next s

end Sys2Proof.Machine
end

