-- ==== Sys2Proof/Machine/Collective.lean ====
section
/-! DEFINITION. Sys2Proof/Machine/Collective.lean: the collectives (R243 to R245), the popping of drain rows by engines (R245,
R260), and the messages of system-level barriers and collectives (R309). -/
namespace Sys2Proof.Machine

/-! ## The pack (R243) -/

/-- N. -/
def Cmd.cN (c : Cmd) : Nat := c.fld 3 32 32
/-- NP. -/
def Cmd.cNP (c : Cmd) : Nat := c.fld 3 16 16
/-- The rank of this instance. -/
def Cmd.rank (c : Cmd) : Nat := c.fld 3 0 16 + c.pos
/-- LEVEL. -/
def Cmd.level (c : Cmd) : Nat := c.fld 4 46 2
/-- OP. -/
def Cmd.redOp (c : Cmd) : Nat := c.fld 4 44 2
/-- DTYPE. -/
def Cmd.dtype (c : Cmd) : Nat := c.fld 4 42 2
/-- DQSRC. -/
def Cmd.dqsrc (c : Cmd) : Bool := c.fld 4 37 1 == 1
/-- Element size. -/
def Cmd.collZ (c : Cmd) : Nat := if c.dtype = 1 then 2 else 4
/-- Source endpoint. -/
def Cmd.collSrc (c : Cmd) : EndPt := endPt (c.fld 2 0 16)
/-- Destination endpoint. -/
def Cmd.collDst (c : Cmd) : EndPt := endPt (c.fld 2 16 16)

/-- The command is a reduction. -/
def Cmd.reduces (c : Cmd) : Bool := match c.op with | .rsc _ | .ard _ => true | _ => false
/-- The command is `bcs`. -/
def Cmd.isBcs (c : Cmd) : Bool := match c.op with | .bcs _ => true | _ => false

/-- Output elements. -/
def Cmd.outputs (c : Cmd) : Nat :=
  match c.op with
  | .rsc _ => c.cN / c.cNP
  | .agt _ => c.cN * c.cNP
  | _ => c.cN

/-- Reserved fields, those that are zero under a condition among them (R14, R243). -/
def collReserved (bcs : Bool) (p : List DWord) : Bool :=
  extra p 2 (2 ^ 32 - 1) || extra p 4 (ones 0 16 + ones 35 3 + ones 42 22) ||
  (endPt (field (p.getD 2 0) 0 16)).reserved false || (endPt (field (p.getD 2 0) 16 16)).reserved false ||
  (field (p.getD 4 0) 37 1 == 1 && (field (p.getD 0 0) 0 64 != 0 || field (p.getD 2 0) 0 16 != 0)) ||
  (!bcs && field (p.getD 4 0) 0 16 != 0)

/-- A buffer a collective may use: HBM4E of this module. -/
def State.collBuf (s : State) (c : Cmd) (e : EndPt) : Bool :=
  e.space != 1 || !((s.useEntry c.ctx e.buf).host || (s.bufEntry c.ctx e.buf).remote)

/-- The queue a command pops is attached to the engine (R233, R245, R257). -/
def State.popsFrom (s : State) (c : Cmd) (q eng : Nat) : Bool :=
  match s.taskOf c.task with
  | some t => (t.dqAtt q).attached && (t.dqAtt q).eng == eng
  | none => false

/-- The acceptance checks of a collective (R243 to R245). DQSRC on `agt` and `bcs`, and a ROOT at or above NP, give PARAM (log entry 15). -/
def State.collAccept (s : State) (c : Cmd) : Accept where
  param := decide (1 ≤ c.cN ∧ c.cN < 2 ^ 24 ∧ 1 ≤ c.cNP ∧ c.redOp ≠ 3 ∧ c.dtype ≠ 3) &&
    (match c.op with | .rsc _ => decide (c.cN % c.cNP = 0) | .bcs _ => decide (c.fld 4 0 16 < c.cNP) | _ => true) &&
    (!c.dqsrc || (c.reduces && decide (c.cN % 8192 = 0) && c.dtype != 1)) &&
    c.collSrc.swzOk && c.collDst.swzOk && s.collBuf c c.collSrc && s.collBuf c c.collDst && !s.isVolume c.ctx c.collDst
  range := (c.dqsrc || c.collSrc.space != 0 || s.cmdSram c (c.reg 0) (c.cN * c.collZ)) &&
    (c.collDst.space != 0 || s.cmdSram c (c.reg 1) (c.outputs * c.collZ))
  align := true
  overlap := true
  state := !c.dqsrc || s.popsFrom c (c.fld 4 35 2) 0
  total := c.outputs

/-! ## Matching (R243, R309) -/

/-- Whom a command can meet: its context, or at LEVEL 3 its system domain. -/
def State.collDomain (s : State) (c : Cmd) : Nat :=
  if c.level = 3 then 256 + (s.ctx c.ctx).sdom * 2 ^ 24 + (s.ctx c.ctx).shome else c.ctx

/-- Group number of the command's task at its level. -/
def State.collGroup (s : State) (c : Cmd) : Nat :=
  match s.taskOf c.task with | some t => t.barGroup c.level | none => 0xFFFF

/-- What every participant must give alike. -/
def Cmd.collParams (c : Cmd) : List Nat := [c.opcode, c.cN, c.cNP, c.redOp, c.dtype, c.fld 4 0 16]

/-- A participant's own numbers fit what the collective has so far. -/
def Coll.admits (k : Coll) (c : Cmd) : Bool :=
  decide (k.params = c.collParams) && decide (c.rank < c.cNP) && k.members.all (fun m => m.2 != c.rank)

/-- An accepted participant joins the open collective of its key, or opens one. At LEVEL 3 the home matches (R309): each command has a
collective of its own here. -/
def State.joinColl (s : State) (c : Cmd) : State :=
  let dom := s.collDomain c
  let grp := s.collGroup c
  let tag := c.fld 4 48 16
  let fits (k : Coll) : Bool :=
    c.level != 3 && k.ctx == dom && k.level == c.level && k.grp == grp && k.tag == tag && decide (k.members.length < k.np)
  s.modEng (fun e =>
    if e.colls.any fits then
      { e with colls := e.colls.map (fun k => if fits k then { k with members := k.members ++ [(c.id, c.rank)], agree := k.agree && k.admits c } else k) }
    else { e with nextColl := e.nextColl + 1, colls := e.colls ++
      [⟨e.nextColl, dom, c.level, grp, tag, c.cNP, c.collParams, [(c.id, c.rank)], decide (c.rank < c.cNP)⟩] })

/-! ## Rows popped by an engine (R245, R257) -/

/-- The queue the command pops and how many rows it takes: N / 8,192 for a collective, 2·NQ·H·N / 8,192 for `pksel`. -/
def Cmd.rowsWanted (c : Cmd) : Option (Nat × Nat) :=
  match c.op with
  | .rsc _ | .ard _ => if c.dqsrc then some (c.fld 4 35 2, c.cN / 8192) else none
  | .pksel _ => if c.fld 0 43 1 = 1 then some (c.fld 0 44 2, c.fld 0 48 16 * c.fld 0 38 5 * 2 * c.fld 0 0 13 / 8192) else none
  | _ => none

/-- The command still pops from queue `q` at position `j` of its task, or, a `pksel`, has yet to start: no later command pops before it
(R267). -/
def Cmd.popsNow (c : Cmd) (uid j q : Nat) : Bool :=
  c.task == uid && c.pos == j && (c.st == .running || c.st == .faulted || (c.st == .queued && c.opcode == 0x50)) &&
  (match c.rowsWanted with | some (k, n) => k == q && decide (c.rows.length < n) | none => false)

/-! ## What a collective writes (R244) -/

/-- Element `e` of a participant's source, as bits. -/
def State.collElem (s : State) (c : Cmd) (e : Nat) : Nat :=
  if c.dqsrc then
    let m := e % 8192
    tileElem (fget (c.rows.getD (e / 8192) []) 0 (m / 256)) (m % 256 / 16) (m % 16)
  else s.endRd c c.collSrc (c.reg 0 + e * c.collZ) c.collZ

/-- An element as the accumulator holds it: BF16 decodes exactly to FP32. -/
def collWiden (dtype v : Nat) : Nat := if dtype = 1 then v % 2 ^ 16 * 2 ^ 16 else v

/-- One step of REDUCE. -/
def collStep (op dtype acc x : Nat) : Nat :=
  if dtype = 2 then
    match op with
    | 0 => (acc + x) % 2 ^ 32
    | 1 => if sext acc 32 < sext x 32 then x else acc
    | _ => if sext x 32 < sext acc 32 then x else acc
  else match op with
    | 0 => (addF32 acc x false false).1
    | 1 => minMaxBits .fp32 false true acc x
    | _ => minMaxBits .fp32 false false acc x

/-- REDUCE of the elements of the ranks in ascending order. -/
def reduce (op dtype : Nat) (xs : List Nat) : Nat :=
  match xs.map (collWiden dtype) with
  | [] => 0
  | x :: rest =>
    let acc := rest.foldl (collStep op dtype) x
    if dtype = 1 then (rne (dec .fp32 acc) .bf16).1 else acc

/-- The outputs of participant `c`, `x k e` being source element `e` of rank `k` (R244). -/
def Cmd.collOut (c : Cmd) (x : Nat → Nat → Nat) : List Nat :=
  let across (e : Nat) : Nat := reduce c.redOp c.dtype ((List.range c.cNP).map (fun k => x k e))
  match c.op with
  | .rsc _ => (List.range c.outputs).map (fun e => across (c.rank * c.outputs + e))
  | .ard _ => (List.range c.outputs).map across
  | .agt _ => (List.range c.outputs).map (fun i => x (i / c.cN) (i % c.cN))
  | _ => (List.range c.outputs).map (fun e => x (c.fld 4 0 16) e)

/-- An infinity or a NaN of a type of the collectives. -/
def collNonFinite (dtype v : Nat) : Bool :=
  match dtype with
  | 0 => nonFinite v
  | 1 => nonFinite (v * 2 ^ 16)
  | _ => false

/-- A participant reads its source endpoint: not one that pops rows, nor one of `bcs` that is not ROOT. -/
def Cmd.readsSource (c : Cmd) : Bool := !(c.dqsrc || (c.isBcs && c.rank != c.fld 4 0 16))

/-- The failing check of what a participant reads. -/
def State.collErr (s : State) (c : Cmd) : Option (PortErr × Nat) :=
  if c.readsSource then s.endErr c c.collSrc (c.reg 0) (c.cN * c.collZ) false else none

/-- The corrections and translations its reading leaves. -/
def State.collSee (s : State) (c : Cmd) : State := if c.readsSource then s.endSee c c.collSrc (c.reg 0) (c.cN * c.collZ) else s

/-- A participant is ready: it runs and has its rows. -/
def Cmd.collReady (c : Cmd) : Bool :=
  c.st == .running && (match c.rowsWanted with | some (_, n) => c.rows.length == n | none => true)

/-- The outputs of a participant are fixed; its elements are written next. -/
def Cmd.collFix (c : Cmd) (out : List Nat) : Cmd := { c with vals := out, bad := out.countP (collNonFinite c.dtype), rows := [] }

/-- A collective leaves. -/
def State.dropColl (s : State) (k : Coll) : State := s.modEng (fun e => { e with colls := e.colls.filter (fun h => h.id != k.id) })

/-- The collective performs: every participant's outputs are fixed from the sources as they stand, or none agree. -/
def State.performColl (s : State) (k : Coll) (cs : List Cmd) : State :=
  if !k.agree then (cs.foldl (fun s c => s.endCmd c 8) s).dropColl k
  else match cs.findSome? (fun c => (s.collErr c).map (fun e => (c, e))) with
    | some (c, e) => s.cmdFault c e.1 e.2
    | none =>
      let by_ (r : Nat) : Cmd := (cs.find? (fun c => c.rank == r)).getD default
      let outs := cs.map (fun c => c.collFix (c.collOut (fun r e => s.collElem (by_ r) e)))
      (outs.foldl State.setCmd (cs.foldl State.collSee s)).dropColl k

/-! ## LEVEL-3 collectives (R309) -/

/-- Group and TAG of a LEVEL-3 collective, as the home and the shares name them. -/
def State.sysKey (s : State) (c : Cmd) : Nat := s.collGroup c * 2 ^ 16 + c.fld 4 48 16

/-- A command of this module still needs shares of that number: `acks` holds, once its home has matched it, the home's number of the
collective. -/
def State.shareWanted (s : State) (h : CollShare) : Bool :=
  s.eng.cmds.any (fun c => c.cls == 3 && c.level == 3 && (c.st == .running || c.st == .faulted) && c.vals.isEmpty && (s.ctx c.ctx).sdom == h.sdom &&
    s.sysKey c == h.group && (match c.acks with | [_, g] => g == h.gen | _ => true))

/-- The elements of a participant reach a module's collective engines, which keep what a participant here needs. -/
def State.takeShare (s : State) (h : CollShare) : State :=
  if s.shareWanted h then s.modEng (fun e => { e with shares := e.shares ++ [h] }) else s

/-- What a participant gives to the others: its source elements, with what all must give alike; those of `bcs` are ROOT's alone. -/
def State.collShare (s : State) (c : Cmd) (gen : Nat) : CollShare :=
  ⟨(s.ctx c.ctx).sdom, s.sysKey c, gen, s.mod.modid, c.id, c.rank, c.collParams,
   if c.readsSource || c.dqsrc then (List.range c.cN).map (s.collElem c) else []⟩

/-- A flit's worth of a collective: to another module, without an answer. -/
def shareAccess (fromModule module : Nat) (h : CollShare) : LinkAccess :=
  ⟨0, fromModule, 0, h.sdom, module, 0, 0, 0, 0, true, 0, 0, 0, 0, [], some h⟩

/-- A matched participant gives its elements: to the engines here and over every route (R309). -/
def State.giveShare (s : State) (c : Cmd) (gen : Nat) : State :=
  match s.collErr c with
  | some e => s.cmdFault c e.1 e.2
  | none =>
    let h := s.collShare c gen
    let s := (((s.collSee c).setCmd { c with acks := [3, gen] }).takeShare h)
    s.route.foldl (fun s r => if r.1 = s.mod.modid ∨ 18 ≤ r.2 then s else s.sendFlit r.1 false (shareAccess s.mod.modid r.1 h)) s

/-- What has come of the elements of a collective. -/
def State.sharesOf (s : State) (c : Cmd) (gen : Nat) : List CollShare :=
  s.eng.shares.filter (fun h => h.sdom == (s.ctx c.ctx).sdom && h.group == s.sysKey c && h.gen == gen)

/-- A participant still needs elements that participants of this module cannot bring: those here that have been matched and have not given
theirs are too few (R309). -/
def State.sharesAway (s : State) (c : Cmd) (gen : Nat) : Bool :=
  decide ((s.sharesOf c gen).length + s.eng.cmds.countP (fun d => d.cls == 3 && d.level == 3 && d.acks == [2, gen] &&
    (s.ctx d.ctx).sdom == (s.ctx c.ctx).sdom && s.sysKey d == s.sysKey c) < c.cNP)

/-- A participant performs once the elements of all are here; where they do not agree it completes with MISMATCH (R243). -/
def State.performShared (s : State) (k : Coll) (c : Cmd) (gen : Nat) : State :=
  let l := s.sharesOf c gen
  if l.length < c.cNP then s
  else
    let agree := l.all (fun h => h.params == c.collParams && decide (h.rank < c.cNP)) && decide ((l.map (·.rank)).Nodup)
    let x (r e : Nat) : Nat := (((l.find? (fun h => h.rank == r)).map (·.elems)).getD []).getD e 0
    let s := ((if agree then s.setCmd (c.collFix (c.collOut x)) else s.endCmd c 8).dropColl k)
    s.modEng (fun e => { e with shares := e.shares.filter s.shareWanted })

/-- COLLECTIVE_PERFORM (R243). At LEVEL 3 a matched participant first gives its elements to the others, then performs. -/
def execCollectivePerform (coll : Nat) (s : State) : Res :=
  match s.eng.colls.find? (fun k => k.id == coll) with
  | none => .next s
  | some k =>
    let cs := k.members.filterMap (fun m => s.cmd? m.1)
    match k.level, cs with
    | 3, [c] =>
      .next (match c.acks with
        | [2, gen] => if c.collReady then s.giveShare c gen else s
        | [3, gen] => s.performShared k c gen
        | _ => s)
    | _, _ => .next (if cs.length = k.np ∧ (cs.all (·.collReady) || (!k.agree && cs.all (fun c => c.st == .running))) then s.performColl k cs else s)

/-- The end of the aligned piece of `n` bytes that offset `off` lies in, or `off` where one ends there. -/
def pieceEnd (n off : Nat) : Nat := (off + n - 1) / n * n

/-- Where the writes of a participant stand once `k` elements have performed: whole aligned pieces of the destination are written at once
(R231, R384), so a piece that an element enters is written up to its end. -/
def Cmd.collAt (c : Cmd) (k : Nat) : Nat :=
  let n := if c.collDst.space = 0 then 128 else 64
  if k = 0 then c.reg 1 else min (pieceEnd n (c.reg 1 + k * c.collZ)) (c.reg 1 + c.total * c.collZ)

/-- The outputs of a participant as bytes, the first lowest. -/
def Cmd.collBytes (c : Cmd) : Nat := c.vals.foldr (fun v a => v + 2 ^ (8 * c.collZ) * a) 0

/-- The next pieces of the output of a collective that has performed: through the end of the piece its next element ends in. Every element
that ends in them has performed. -/
def State.collWrite (s : State) (c : Cmd) : ElemOut :=
  if c.vals.isEmpty then .wait s
  else
    let lo := c.collAt c.elem
    let hi := c.collAt (c.elem + 1)
    match s.endErr c c.collDst lo (hi - lo) true with
    | some (e, k) => .err e k
    | none =>
      .done ((s.endWr c c.collDst lo (hi - lo) (bitsAt c.collBytes (8 * (lo - c.reg 1)) (8 * (hi - lo))) true).setCmd
        { c with elem := (hi - c.reg 1) / c.collZ - 1 })

/-! ## Issue -/

/-- `rsc` (R244). -/
def execRsc (f : FmtE) (s : State) : Res := engineOp s (.rsc f) f 0x30 5 (collReserved false) []
/-- `agt` (R244). -/
def execAgt (f : FmtE) (s : State) : Res := engineOp s (.agt f) f 0x31 5 (collReserved false) []
/-- `ard` (R244). -/
def execArd (f : FmtE) (s : State) : Res := engineOp s (.ard f) f 0x32 5 (collReserved false) []
/-- `bcs` (R244). -/
def execBcs (f : FmtE) (s : State) : Res := engineOp s (.bcs f) f 0x33 5 (collReserved true) []

/-- DRAIN_ROW_POP_ENGINE (R245, R257): the first row whose slots have arrived goes to the earliest command that pops the queue. Only rows of
a task that runs are popped: those of one that is pre-empted lie in its save area (R347; log entry 70). -/
def execDrainRowPopEngine (cmd : Nat) (s : State) : Res :=
  match s.cmd? cmd with
  | none => .next s
  | some c =>
    match c.rowsWanted, s.taskOf c.task with
    | some (q, _), some t =>
      match t.popReady c.pos q, s.eng.cmds.find? (fun d => d.popsNow t.id.uid c.pos q) with
      | some r, some d =>
        if d.id = c.id ∧ c.st = .running ∧ t.ctl.running = true ∧ r.n < (if (t.dqAtt q).pending then (t.dqAtt q).mark else r.n + 1) then
          .next ((s.putTask (t.modPos c.pos (fun p => { p with dq := fset p.dq [] q ((p.rows q).filter (fun x => x.n != r.n)) }))).setCmd
            { c with rows := c.rows ++ [r.slots] })
        else .next s
      | _, _ => .next s
    | _, _ => .next s

/-! ## System-level messages (R309) -/

/-- The accepted LEVEL-3 command of this module a message concerns; its group is the task's group and the TAG. -/
def State.sysCmd (s : State) (m : SysMsg) : Option Cmd :=
  if m.coll then s.eng.cmds.find? (fun c => c.id == m.member && c.cls == 3 && c.level == 3 && c.st == .running &&
      (s.ctx c.ctx).sdom == m.sdom && s.sysKey c == m.group)
  else none

/-- The home counts the acceptance of a participant; the collective closes at the count of its first arrival, and every
participant is told, with the home's number of the collective: a count of 0 tells that the counts differ. -/
def State.homeAccept (s : State) (m : SysMsg) : State :=
  let g := s.sysGroup m
  let need := if g.arrived = 0 then m.count else g.need
  let put (s : State) (g : BarGroup) : State := s.modRam (fun r => { r with
    sysGroups := g :: r.sysGroups.filter (fun h => h.level != g.level || h.grp != g.grp || h.die != g.die) })
  let same (x : SysMsg) : Bool := x.sdom == m.sdom && x.group == m.group && x.coll
  if need ≤ g.arrived + 1 then
    let all := s.ram.sysMembers.filter same ++ [m]
    let agree := all.all (fun x => x.count == need)
    (put s { g with arrived := 0, need := 0, gen := g.gen + 1 }).modRam (fun r => { r with
      sysDone := r.sysDone ++ all.map (fun x => { x with count := if agree then x.count else 0, gen := g.gen }),
      sysMembers := r.sysMembers.filter (fun x => !same x) })
  else (put s { g with arrived := g.arrived + 1, need := need }).modRam (fun r => { r with sysMembers := r.sysMembers ++ [m] })

/-- SYSTEM_BAR_ARRIVAL (R309): an arrival at a system-level barrier, or the acceptance of a LEVEL-3 collective command, reaches
the domain's home. One from this module was sent by a task that waits or a command that was accepted. -/
def execSystemBarArrival (m : SysMsg) (s : State) : Res :=
  if m.module = s.mod.modid then
    match s.sysTask m, s.sysCmd m with
    | some t, _ =>
      event s (t.ctl.arrived == some (3, 0) && (s.ctx t.id.ctx).shome == s.mod.modid && m.count == t.barCount 3)
        ((s.putTask { t with ctl := { t.ctl with arrived := some (3, 3) } }).homeArrive m)
    | none, some c =>
      event s (c.acks.isEmpty && (s.ctx c.ctx).shome == s.mod.modid && m.count == c.cNP) ((s.setCmd { c with acks := [1] }).homeAccept m)
    | none, none => .next s
  else event s (s.mod.idset && s.feat 1 && decide (0 < m.count)) (if m.coll then s.homeAccept m else s.homeArrive m)

/-- SYSTEM_BAR_COMPLETION (R309): the home's answer reaches a member's module: completion, or a refusal, whose count is 0. It
comes from the home on this module, or over a link from another home. -/
def execSystemBarCompletion (m : SysMsg) (s : State) : Res :=
  let own := s.ram.sysDone.contains m
  let s' := s.modRam (fun r => { r with sysDone := r.sysDone.erase m })
  if m.module = s.mod.modid then
    match s.sysTask m, s.sysCmd m with
    | some t, _ =>
      event s (if (s.ctx t.id.ctx).shome = s.mod.modid then own else t.ctl.arrived == some (3, 0))
        (s'.putTask { t with ctl := { t.ctl with arrived := some (3, if m.count = 0 then 2 else 1) } })
    | none, some c =>
      event s (if (s.ctx c.ctx).shome = s.mod.modid then own else c.acks.isEmpty)
        (if m.count = 0 then
          (s'.endCmd c 8).modEng (fun e => { e with colls := (e.colls.map (fun k =>
            { k with members := k.members.filter (fun x => x.1 != c.id) })).filter (fun k => !k.members.isEmpty) })
        else s'.setCmd { c with acks := [2, m.gen] })
    | none, none => event s own s'
  else event s own s'

end Sys2Proof.Machine
end

