-- ==== Sys2Proof/Machine/Control.lean ====
section
/-! DEFINITION. Sys2Proof/Machine/Control.lean: branches, the call stack, hardware loops and the aggregate branch (R166 to
R171). -/
namespace Sys2Proof.Machine

/-! ## Targets -/

/-- The target check (R166): 0 ≤ T < CODESZ, source SB. -/
def targetFails (s : State) (t : Int) : List Fail :=
  check (decide (0 ≤ t ∧ t < (s.iss.t0.prog.hdr.codesz : Int))) ⟨1, 4, BitVec.ofInt 64 t, false⟩

/-- A target counted from the branching bundle (R71). -/
def relTarget (s : State) (imm : Nat) : Int := (s.iss.addr : Int) + sext imm 29

/-- Go to a target after the bundle. -/
def State.jump (s : State) (t : Int) : State := s.modIss (fun i => { i with target := some t.toNat })

/-! ## The call stack (R168) -/

/-- Z: the length of a task's overflow region. -/
def overflowLen (s : State) (t : Task) : Nat :=
  (s.useEntry t.id.ctx t.prog.hdr.stkbuf).size / t.id.setsize / 8 * 8

/-- Offset of the task's overflow region in the buffer. -/
def overflowBase (s : State) (t : Task) : Nat := t.id.idx * overflowLen s t

/-- Where PUSH puts a frame. -/
inductive FramePlace where
  | carve (off : Nat)
  | over (off : Nat)
  | none
  deriving DecidableEq, Repr, Inhabited

/-- The place of the next frame pushed. -/
def pushPlace (s : State) (t : Task) : FramePlace :=
  if t.ctl.sp < t.prog.hdr.stack then .carve (t.id.stackBase + t.ctl.sp)
  else if t.prog.hdr.stkbuf ≠ 0xFFFF ∧ t.ctl.ovp + 8 ≤ overflowLen s t then .over (overflowBase s t + t.ctl.ovp)
  else .none

/-- The place of the frame POP reads. -/
def popPlace (s : State) (t : Task) : FramePlace :=
  if 0 < t.ctl.ovp then .over (overflowBase s t + t.ctl.ovp - 8)
  else if 0 < t.ctl.sp then .carve (t.id.stackBase + t.ctl.sp - 8)
  else .none

/-- The frame at a place. -/
def frameAt (s : State) (t : Task) (p : FramePlace) : Nat :=
  match p with
  | .carve a => s.sramRd t.die a 8
  | .over o => s.bufRd t.die t.id.ctx t.prog.hdr.stkbuf o 8
  | .none => 0

/-- The port check of a frame access in the overflow region; it is charged to source 9 (R342). -/
def frameErr (s : State) (t : Task) (p : FramePlace) (write : Bool) : Option PortErr :=
  match p with
  | .over o => s.portErr t.die t.id.ctx t.prog.hdr.stkbuf o 8 write
  | _ => none

/-- A frame access waits for the head's own held stores to the same bytes (R168), and, while the port cannot perform it,
for the driver (R342); the first wait for the driver sends a fault record. Any other port failure ends the context, and so does an
uncorrectable frame of the carve-out (R355). -/
def frameWait (s : State) (p : FramePlace) (write : Bool) : State :=
  let t := s.t
  let s := match p with
    | .carve a =>
      let s := s.stallIf (t.pstores.any (fun q => s.iss.sstA.isSome || overlaps q.addr q.size a 8) ||
        (s.iss.sstA.isSome && t.edgeEarlier t.die s.iss.n (fun e => !e.isWs)))
      if !write && errBad s.mem.sramErr (sramKey t.die a) 8 then (s.imprecise t s.iss.n s.iss.addr t.sys.tm 1 11 a 0).stallIf true else s
    | _ => s
  match frameErr s t p write with
  | none => s
  | some e =>
    let r (repl impr : Nat) : FaultRec :=
      { t.faultRec (e.code 9 + repl * 2 ^ 9 + impr * 2 ^ 8) e.off s.iss.addr 0 with buf := t.prog.hdr.stkbuf }
    if e.replayable then
      let s := if t.ctl.frameFault then s else s.report t.id.ctx (r 1 0)
      (s.modCtl (fun c => { c with frameFault := true })).stallIf true
    else ((s.errSeen e).endByFault t.id.ctx (r 0 1)).stallIf true

/-- PUSH. -/
def State.push (s : State) (frame : Nat) : State :=
  match pushPlace s s.t with
  | .carve a => (s.performOwn.sramWr s.t.die a 8 frame).modCtl (fun c => { c with sp := c.sp + 8 })
  | .over o =>
    ((s.bufPut s.t.die s.t.id.ctx s.t.prog.hdr.stkbuf o 8 frame true).modCtl
      (fun c => { c with ovp := c.ovp + 8, frameFault := false })).modSys (fun y => { y with stovf := true })
  | .none => s

/-- The pointers after POP. -/
def State.pop (s : State) : State :=
  (match popPlace s s.t with
    | .carve a => s.sramFix s.t.die a 8
    | .over o => s.portTouch s.t.die s.t.id.ctx s.t.prog.hdr.stkbuf o 8
    | _ => s).modCtl (fun c => if 0 < c.ovp then { c with ovp := c.ovp - 8, frameFault := false } else { c with sp := c.sp - 8 })

/-! ## The operations -/

/-- `br` (R167). -/
def execBr (f : FmtSB) (s : State) : Res :=
  seqOp s f.qp f.qn [] (targetFails s (relTarget s f.imm)) s (s.jump (relTarget s f.imm))

/-- `call` (R167, R168): pushes the next address and branches. -/
def execCall (f : FmtSB) (s : State) : Res :=
  let t := s.iss.t0
  seqOp s f.qp f.qn []
    (targetFails s (relTarget s f.imm) ++ check (pushPlace s t != .none) (failRange 1 (t.ctl.sp + t.ctl.ovp)))
    (frameWait s (pushPlace s t) true)
    ((s.push ((s.iss.addr + 1) % 2 ^ 32)).jump (relTarget s f.imm))

/-- `ret` (R167, R168): pops a frame and branches to it. The address is checked once the frame can be read,
after the checks of the other slots (log entry 71). -/
def execRet (f : FmtSB) (s : State) : Res :=
  let t := s.iss.t0
  let frame (s : State) : Int := ((frameAt s t (popPlace s t) % 2 ^ 32 : Nat) : Int)
  let w := frameWait s (popPlace s t) false
  seqOp s f.qp f.qn [] (check (popPlace s t != .none) (failRange 1 0))
    (if w.iss.stall then w else w.addFails (targetFails s (frame s.peekOwn)))
    (s.performOwn.pop.jump (frame s.performOwn))

/-- `brx` (R167): an absolute bundle address. -/
def execBrx (f : FmtSB) (s : State) : Res :=
  let t : Int := ((s.iss.t0.sReg f.a).toNat : Int) + sext f.imm 29
  seqOp s f.qp f.qn [] (targetFails s t) s (s.jump t)

/-- `bagg` (R45, R171): waits for the latest aggregate, complete at cycle A(b) of R44; the target is checked after the wait. -/
def execBagg (f : FmtSB) (s : State) : Res :=
  let c := s.t.ctl
  let take := (if bitAt f.a 0 then c.aggAll else c.aggAny) != bitAt f.a 1
  seqOp s f.qp f.qn [] []
    (if c.aggPend.isSome || decide (c.cyc < c.aggAt) then s.stallIf true
     else if take then s.addFails (targetFails s (relTarget s f.imm)) else s)
    (if take then s.jump (relTarget s f.imm) else s)

/-- lc[N] after `loop` (R169). -/
def loopCount (v : Word) : Word := if v = 0 then 0 else v - 1

/-- Whether `loop` branches (R169): the count, or in stage mode the stages still running after the bundle's stage shift. -/
def loopTakes (t : Task) (n sshift : Nat) : Bool :=
  let v := loopCount (t.lcReg n)
  let z := if n = 0 then v else t.lcReg 0
  v != 0 || (t.sys.sm && shiftSv t.sys.sv sshift z % 2 ^ t.sys.depth != 0)

/-- `loop` (R169). -/
def execLoop (f : FmtSB) (s : State) : Res :=
  let n := f.a % 4
  let t := s.iss.t0
  let take := loopTakes t n s.iss.sshift
  let v := loopCount (t.lcReg n)
  let s' := (s.hold 1 (.lc n) (v.setWidth 64)).modIss (fun i => { i with z := if n = 0 then v else i.z })
  seqOp s f.qp f.qn [] (if take then targetFails s (relTarget s f.imm) else []) s
    (if take then s'.jump (relTarget s f.imm) else s')

/-- `loopi` (R169): an immediate count, or the low word of s[a]. -/
def execLoopi (f : FmtSY) (s : State) : Res :=
  let v : Word := if f.func = 0 then BitVec.ofNat 32 (f.imm % 2 ^ 16) else (opA s f.a).setWidth 32
  seqOp s f.qp f.qn [] [] s
    ((s.hold 1 (.lc (f.d % 4)) (v.setWidth 64)).modIss (fun i => { i with z := if f.d % 4 = 0 then v else i.z }))

end Sys2Proof.Machine
end

