-- ==== Sys2Proof/Machine/Hamper.lean ====
section
/-! DEFINITION. Sys2Proof/Machine/Hamper.lean: the Hamper units (R246 to R253): atomics on tables, gathers and dot products,
optimizer steps, and the return-free additions (R219). -/
namespace Sys2Proof.Machine

/-! ## Shared operations of classes 4 to 6 -/

/-- The failing access of an element to shared SRAM. -/
def State.sramBad (s : State) (c : Cmd) (l : List (Nat × Nat)) (write : Bool) : Option (PortErr × Nat) :=
  (l.findSome? (fun x => s.sramErrAt c.die x.1 x.2 write)).map (fun e => (e, 0xFFFF))

/-- Reads of shared SRAM correct what they can. -/
def State.sramSeen (s : State) (c : Cmd) (l : List (Nat × Nat)) : State := l.foldl (fun s x => s.sramFix c.die x.1 x.2) s

/-- Go on with what has been read, unless a check fails. -/
def ElemOut.orErr (e : Option (PortErr × Nat)) (k : ElemOut) : ElemOut := match e with | some (e, b) => .err e b | none => k

/-- Go on with data fetched from memory. -/
def State.withFetch (s : State) (c : Cmd) (l : List (Nat × Nat × Nat)) (f : State → List (Nat × Nat) → ElemOut) : ElemOut :=
  match s.fetch c l with
  | .wait s => .wait s
  | .err e k => .err e k
  | .vals v => f (s.fetched c l) v

/-- A buffer that class-4 and class-5 commands accept (R246): in HBM4E, its entry valid, with the needed right; a volume only
to be read (R275); one of another module only by class 4 (R323). -/
def State.tableOk (s : State) (c : Cmd) (k : Nat) (write : Bool) : Bool :=
  let e := s.useEntry c.ctx k
  (s.bufEntry c.ctx k).valid && e.valid && !e.host && (c.cls == 4 || !(s.bufEntry c.ctx k).remote) &&
  (if write then e.wr && !e.vol else e.rd)

/-- A row size divides the interleave granule and the table offset (R246). Of a remote table it is the granule of the local entry (log
entry 20). -/
def State.rowsFit (s : State) (c : Cmd) (k rs toff : Nat) : Bool :=
  rs != 0 && (s.useEntry c.ctx k).granule % rs == 0 && toff % rs == 0

/-- The failing check of an atomic on `len` bytes of a table: an atomic counts as a write (R328), and reads what it replaces. -/
def State.atomicErr (s : State) (die ctx k off len : Nat) : Option PortErr :=
  (s.portErr die ctx k off len true).or
    ((piecesOf off len).findSome? (fun b => match s.burstAt die ctx k b with | some u => s.burstErr false u | none => none))

/-- An index dropped for lying beyond its table. -/
def Cmd.drop1 (c : Cmd) : Cmd := { c with dropped := c.dropped + 1 }

/-- Count `n` non-finite values. -/
def Cmd.addBad (c : Cmd) (n : Nat) : Cmd := { c with bad := c.bad + n }

/-- The FP32 value of a BF16 encoding, as bits. -/
def bf16Up (v : Nat) : Nat := v % 2 ^ 16 * 2 ^ 16

/-- RS of a row of `d` elements (R246). -/
def rowSize (rfmt d : Nat) : Nat := match rfmt with | 0 => 2 * d | 1 => 4 * d | _ => 16 * d

/-- Element `e` of a row, as FP32 bits (R246). -/
def rowElem (rfmt rsel row e : Nat) : Nat :=
  match rfmt with
  | 0 => bf16Up (bitsAt row (16 * e) 16)
  | 1 => bitsAt row (32 * e) 32
  | _ => if rsel = 0 then bf16Up (bitsAt row (128 * e + 96) 16) else bitsAt row (128 * e) 32

/-- Words as one number, the first lowest. -/
def packWords (l : List Nat) : Nat := l.foldr (fun v a => v + 2 ^ 32 * a) 0

/-! ## Packs of class 4 (R246, R250) -/

/-- TBUF. -/
def Cmd.tbuf (c : Cmd) : Nat := c.fld 0 0 12
/-- D: elsewhere for `nmopt`. -/
def Cmd.d (c : Cmd) : Nat := match c.op with | .nmopt _ => c.fld 0 32 16 | _ => c.fld 0 16 16
/-- TOFF. -/
def Cmd.toff (c : Cmd) : Nat := c.reg 1
/-- NROWS or NELEM. -/
def Cmd.nrows (c : Cmd) : Nat := c.fld 2 32 32
/-- COUNT or NOUT. -/
def Cmd.cnt (c : Cmd) : Nat := c.fld 2 0 32
/-- IDX. -/
def Cmd.idxAt (c : Cmd) : Nat := c.fld 3 32 32
/-- The low half of s[p+3]: VAL, OPD, WGT, QRY or GRAD. -/
def Cmd.opdAt (c : Cmd) : Nat := c.fld 3 0 32
/-- AOP. -/
def Cmd.aop (c : Cmd) : Nat := c.fld 0 16 4
/-- Element size of `nmamo`. -/
def Cmd.amoZ (c : Cmd) : Nat := if c.fld 0 20 1 = 1 then 8 else 4
/-- Bytes of one operand of `nmamo`. -/
def Cmd.opdZ (c : Cmd) : Nat := if c.aop = 6 then 2 * c.amoZ else c.amoZ
/-- K of `nmgs`. -/
def Cmd.k (c : Cmd) : Nat := c.fld 4 0 16
/-- XBUF of `nmopt`. -/
def Cmd.xbuf (c : Cmd) : Nat := c.fld 0 12 12
/-- HPAR. -/
def Cmd.hpar (c : Cmd) : Nat := c.fld 4 32 32

/-- Limits of the row-reading forms: D and RFMT, RSEL. -/
def Cmd.rowLimits (c : Cmd) : Bool :=
  decide (1 ≤ c.d ∧ c.d ≤ 2048 ∧ c.fld 0 12 2 ≠ 3) && (c.fld 0 14 1 == 0 || c.fld 0 12 2 == 2)

/-- RS of the command's table. -/
def Cmd.rs (c : Cmd) : Nat :=
  match c.op with
  | .nmadd _ => 4 * c.d
  | .nmopt _ => 16 * c.d
  | _ => rowSize (c.fld 0 12 2) c.d

/-- The acceptance checks of class 4. -/
def State.hamperAccept (s : State) (c : Cmd) : Accept :=
  let ok (l : List (Nat × Nat)) : Bool := l.all (fun x => s.cmdSram c x.1 x.2)
  match c.op with
  | .nmadd _ => ⟨decide (1 ≤ c.d ∧ c.d ≤ 2048 ∧ c.cnt < 2 ^ 24) && s.tableOk c c.tbuf true && s.rowsFit c c.tbuf c.rs c.toff,
      ok [(c.idxAt, 4 * c.cnt), (c.opdAt, 4 * c.d * c.cnt), (c.fld 4 32 32, if c.fld 4 0 1 = 1 then 4 * c.cnt else 0)],
      true, true, true, c.cnt⟩
  | .nmamo _ => ⟨decide (c.cnt < 2 ^ 24 ∧ c.aop < 8 ∧ ¬(c.aop = 7 ∧ c.amoZ = 8)) && s.tableOk c c.tbuf true,
      ok [(c.idxAt, 4 * c.cnt), (c.opdAt, c.opdZ * c.cnt), (c.fld 4 0 32, c.amoZ * c.cnt)], true, true, true, c.cnt⟩
  | .nmgs _ => ⟨c.rowLimits && decide (1 ≤ c.k ∧ c.k ≤ 64 ∧ c.cnt * c.k < 2 ^ 24) && s.tableOk c c.tbuf false &&
        s.rowsFit c c.tbuf c.rs c.toff,
      ok [(c.idxAt, 4 * c.cnt * c.k), (c.opdAt, 4 * c.cnt * c.k), (c.fld 4 32 32, 4 * c.d * c.cnt)], true, true, true, c.cnt⟩
  | .nmdot _ => ⟨c.rowLimits && decide (c.cnt < 2 ^ 24) && s.tableOk c c.tbuf false && s.rowsFit c c.tbuf c.rs c.toff,
      ok [(c.idxAt, 4 * c.cnt), (c.opdAt, 4 * c.d * (if c.cnt = 0 then 0 else if c.fld 4 0 1 = 1 then 1 else c.cnt)),
          (c.fld 4 32 32, 4 * c.cnt)], true, true, true, c.cnt⟩
  | .nmopt _ =>
    let gsrc := c.fld 0 26 1 == 1
    let guard := c.fld 0 24 1 == 1
    ⟨decide (1 ≤ c.d ∧ c.d ≤ 2048 ∧ c.cnt < 2 ^ 24) && s.tableOk c c.tbuf true && s.rowsFit c c.tbuf c.rs c.toff &&
        (!(gsrc || guard) || s.tableOk c c.xbuf false) &&
        (!s.cmdSram c c.hpar 64 || (List.range 7).all (fun i => s.word c.die (c.hpar + 36 + 4 * i) == 0)),
      ok [(c.idxAt, 4 * c.cnt), (c.hpar, 64), (c.opdAt, if gsrc then 0 else 4 * c.d * c.cnt)],
      decide (c.hpar % 64 = 0 ∧ c.reg 6 % 8 = 0), true, true, c.cnt⟩
  | _ => ⟨(s.bufEntry c.ctx c.tbuf).valid && !(s.useEntry c.ctx c.tbuf).host, true, true, true, true, 0⟩

/-! ## Atomics (R218, R247) -/

/-- The new value of an atomic of `z` bytes; for compare-and-swap the operand is the pair, compare value low. -/
def amoNew (aop z old opd : Nat) : Nat :=
  let m := 2 ^ (8 * z)
  let b := opd % m
  match aop with
  | 0 => (old + b) % m
  | 1 => if sext b (8 * z) < sext old (8 * z) then b else old
  | 2 => if sext old (8 * z) < sext b (8 * z) then b else old
  | 3 => min old b
  | 4 => max old b
  | 5 => b
  | 6 => if old = b then opd / m % m else old
  | _ => (addF32 old b false false).1

/-- An atomic at a buffer of this module: the old value. -/
def State.amoAt (s : State) (die ctx k off z aop opd : Nat) : State × Nat :=
  let old := s.bufRd die ctx k off z
  (s.bufPut die ctx k off z (amoNew aop z old opd) true, old)

/-- The FP32 addends of entry `i` of `nmadd`, weighted. -/
def State.addends (s : State) (c : Cmd) (i : Nat) : List Nat :=
  (List.range c.d).map (fun e =>
    let v := s.word c.die (c.opdAt + 4 * (i * c.d + e))
    if c.fld 4 0 1 = 1 then (mulF32 (s.word c.die (c.fld 4 32 32 + 4 * i)) v).1 else v)

/-- Hamper accepts additions of a command, as offsets and values, to a buffer of this module (R219). -/
def State.accept (s : State) (c : Cmd) (buf : Nat) (l : List (Nat × Nat)) : State :=
  s.modEng (fun g => { g with adds := g.adds ++ l.map (fun x =>
    ⟨c.id, c.task, c.taskid, c.head, c.ctx, c.die, c.pos, c.addr, buf, x.1, BitVec.ofNat 32 x.2, c.elem, false⟩) })

/-- Send additions to a buffer: over the link each is an access of kind 8, numbered to tell equal ones apart. -/
def State.sendAdds (s : State) (c : Cmd) (buf : Nat) (l : List (Nat × Nat)) (k : State → ElemOut) : ElemOut :=
  if s.isRemote c.ctx buf then
    match l.findSome? (fun x => s.farErr c buf x.1 4 true) with
    | some e => .err e buf
    | none => match s.exchange c (l.zipIdx.map (fun x => { s.remoteReq c.ctx buf x.1.1 4 true 8 x.1.2 with stack := x.2 })) buf with
      | .wait s => .wait s
      | .err e b => .err e b
      | .vals _ => k s
  else k (s.accept c buf l)

/-- An entry of `nmadd`. -/
def State.addElem (s : State) (c : Cmd) : ElemOut :=
  let i := c.elem
  let reads := [(c.idxAt + 4 * i, 4), (c.opdAt + 4 * c.d * i, 4 * c.d)] ++ (if c.fld 4 0 1 = 1 then [(c.fld 4 32 32 + 4 * i, 4)] else [])
  .orErr (s.sramBad c reads false)
    (let s := s.sramSeen c reads
     let r := s.word c.die (c.idxAt + 4 * i)
     if c.nrows ≤ r then .done (s.setCmd c.drop1)
     else
       let vs := s.addends c i
       s.sendAdds c c.tbuf (vs.zipIdx.map (fun x => (c.toff + r * c.rs + 4 * x.2, x.1))) (fun s => .done (s.setCmd (c.addBad (vs.countP nonFinite)))))

/-- The old value of an atomic is returned: RET receives it. -/
def State.amoRet (s : State) (c : Cmd) (old opd : Nat) : ElemOut :=
  let c1 := if c.aop = 7 ∧ nonFinite (addF32 old (opd % 2 ^ 32) false false).1 then c.addBad 1 else c
  .done ((s.sramWr c.die (c.fld 4 0 32 + c.elem * c.amoZ) c.amoZ old).setCmd c1)

/-- An entry of `nmamo`. -/
def State.amoElem (s : State) (c : Cmd) : ElemOut :=
  let i := c.elem
  let z := c.amoZ
  let reads := [(c.idxAt + 4 * i, 4), (c.opdAt + c.opdZ * i, c.opdZ)]
  .orErr ((s.sramBad c reads false).or (s.sramBad c [(c.fld 4 0 32 + i * z, z)] true))
    (let s := s.sramSeen c reads
     let r := s.word c.die (c.idxAt + 4 * i)
     let opd := s.sramRd c.die (c.opdAt + c.opdZ * i) c.opdZ
     let off := c.toff + r * z
     if c.nrows ≤ r then .done ((s.sramWr c.die (c.fld 4 0 32 + i * z) z 0).setCmd c.drop1)
     else if s.isRemote c.ctx c.tbuf then
       .orErr ((s.farErr c c.tbuf off z true).map (fun e => (e, c.tbuf)))
         (match s.exchange c [s.remoteReq c.ctx c.tbuf off z true (1 + c.aop) opd] c.tbuf with
          | .wait s => .wait s
          | .err e k => .err e k
          | .vals l => s.amoRet c (l.headD (0, 0)).1 opd)
     else
       .orErr ((s.atomicErr c.die c.ctx c.tbuf off z).map (fun e => (e, c.tbuf)))
         (let x := s.amoAt c.die c.ctx c.tbuf off z c.aop opd
          x.1.amoRet c x.2 opd))

/-! ## Gathers (R248) -/

/-- The sum over the stacks of weighted rows: `rows` gives weight, row and stack in rank order (R248). -/
def stackSum (rows : List (Nat × Nat × Nat)) (elem : Nat → Nat) : Nat :=
  let used := (List.range 96).filter (fun s => rows.any (fun r => r.2.2 == s))
  let part (s : Nat) : Nat := rows.foldl (fun a r => if r.2.2 = s then (fmaF32 r.1 (elem r.2.1) a).1 else a) 0
  match used.map part with
  | [] => 0
  | p :: rest => rest.foldl (fun a b => (addF32 a b false false).1) p

/-- An output of `nmgs`. -/
def State.gsElem (s : State) (c : Cmd) : ElemOut :=
  let o := c.elem
  let reads := [(c.idxAt + 4 * o * c.k, 4 * c.k), (c.opdAt + 4 * o * c.k, 4 * c.k)]
  let out := c.fld 4 32 32 + 4 * o * c.d
  .orErr ((s.sramBad c reads false).or (s.sramBad c [(out, 4 * c.d)] true))
    (let s := s.sramSeen c reads
     let ents := (List.range c.k).map (fun q =>
       (s.word c.die (c.idxAt + 4 * (o * c.k + q)), s.word c.die (c.opdAt + 4 * (o * c.k + q))))
     let good := ents.filter (fun e => decide (e.1 < c.nrows))
     s.withFetch c (good.map (fun e => (c.tbuf, c.toff + e.1 * c.rs, c.rs))) (fun s got =>
       let rows := (good.zip got).map (fun x => (x.1.2, x.2.1, x.2.2))
       let v := (List.range c.d).map (fun e => stackSum rows (fun row => rowElem (c.fld 0 12 2) (c.fld 0 14 1) row e))
       .done ((s.sramWr c.die out (4 * c.d) (packWords v)).setCmd
         { c.addBad (v.countP nonFinite) with dropped := c.dropped + (c.k - good.length) })))

/-- The dot product of a query row and a table row of `d` elements, both as element functions (R248). -/
def dotRow (d : Nat) (q row : Nat → Nat) : Nat := (List.range d).foldl (fun a e => (fmaF32 (q e) (row e) a).1) 0

/-- An entry of `nmdot`. -/
def State.dotElem (s : State) (c : Cmd) : ElemOut :=
  let i := c.elem
  let q := c.opdAt + (if c.fld 4 0 1 = 1 then 0 else 4 * c.d * i)
  let reads := [(c.idxAt + 4 * i, 4), (q, 4 * c.d)]
  let out := c.fld 4 32 32 + 4 * i
  .orErr ((s.sramBad c reads false).or (s.sramBad c [(out, 4)] true))
    (let s := s.sramSeen c reads
     let r := s.word c.die (c.idxAt + 4 * i)
     if c.nrows ≤ r then .done ((s.sramWr c.die out 4 0).setCmd c.drop1)
     else s.withFetch c [(c.tbuf, c.toff + r * c.rs, c.rs)] (fun s got =>
       let row := (got.headD (0, 0)).1
       let v := dotRow c.d (fun e => s.word c.die (q + 4 * e)) (rowElem (c.fld 0 12 2) (c.fld 0 14 1) row)
       .done ((s.sramWr c.die out 4 v).setCmd (c.addBad (b2n (nonFinite v))))))

/-! ## Optimizer steps (R249 to R252) -/

/-- Round an exact value into FP32 as R251 does: one RNE, a NaN canonical. -/
def rf (x : Rv) : Rv := dec .fp32 (rne x .fp32).1

/-- The square root, exact (R251): of a negative value it is NaN. -/
def sqrtRv (x : Rv) : Rv :=
  match x with
  | .nan => .nan
  | .inf n => if n then .nan else .inf false
  | .fin q z => if q < 0 then .nan else if q = 0 then .fin 0 z else .fin (sqrtRat q) false

/-- The exact quotient (R251): 0/0 and Inf/Inf are NaN. -/
def divRv (x y : Rv) : Rv :=
  match x, y with
  | .nan, _ => .nan
  | _, .nan => .nan
  | .inf _, .inf _ => .nan
  | .inf a, .fin q z => .inf (a != (Rv.fin q z).neg?)
  | .fin q z, .inf b => .fin 0 ((Rv.fin q z).neg? != b)
  | .fin p zp, .fin q zq =>
    let neg := (Rv.fin p zp).neg? != (Rv.fin q zq).neg?
    if q = 0 then (if p = 0 then .nan else .inf neg) else .fin (p / q) neg

/-- Exact product. -/
def mulX (x y : Rv) : Rv := (mulRv x y).1
/-- Exact sum. -/
def addX (x y : Rv) : Rv := (addRv x y false).1

/-- One optimizer record stepped (R251): `h` are LR, B1, OB1, B2, OB2, EPS, WD, C1, C2 as bits, `g` the gradient. The new
record, and whether it holds a non-finite field; none where the record is left alone. -/
def optStep (h : List Nat) (step : Nat) (tagskip : Bool) (g rec_ : Nat) : Option (Nat × Bool) :=
  if tagskip && bitsAt rec_ 112 16 == step then none
  else
    let p (i : Nat) : Rv := dec .fp32 (h.getD i 0)
    let gr := dec .fp32 g
    let wm := dec .fp32 (bitsAt rec_ 0 32)
    let m2 := rf (addX (mulX (p 1) (dec .fp32 (bitsAt rec_ 32 32))) (mulX (p 2) gr))
    let v2 := rf (addX (mulX (p 3) (dec .fp32 (bitsAt rec_ 64 32))) (mulX (mulX (p 4) gr) gr))
    let mh := rf (mulX m2 (p 7))
    let vh := rf (mulX v2 (p 8))
    let den := rf (addX (sqrtRv vh) (p 5))
    let u := rf (divRv mh den)
    let w2 := (rne (addX wm (negRv (mulX (p 0) (addX u (mulX (p 6) wm))))) .fp32).1
    let m := (rne m2 .fp32).1
    let v := (rne v2 .fp32).1
    let wb := (rne (dec .fp32 w2) .bf16).1
    some (w2 + 2 ^ 32 * m + 2 ^ 64 * v + 2 ^ 96 * wb + 2 ^ 112 * step,
      nonFinite w2 || nonFinite m || nonFinite v || nonFinite (bf16Up wb))

/-- What an optimizer access over the link carries: gradient, STEP, TAGSKIP, hyperparameters. -/
def optData (h : List Nat) (step : Nat) (tagskip : Bool) (g : Nat) : Nat :=
  g + 2 ^ 32 * step + 2 ^ 48 * b2n tagskip + 2 ^ 64 * packWords h

/-- Such an access at the record of a buffer of this module: the state, and 1 where a non-finite field was written. -/
def State.optAt (s : State) (die ctx k off data : Nat) : State × Nat :=
  let h := (List.range 9).map (fun i => bitsAt data (64 + 32 * i) 32)
  match optStep h (bitsAt data 32 16) (bitAt data 48) (bitsAt data 0 32) (s.bufRd die ctx k off 16) with
  | none => (s, 0)
  | some (r, bad) => (s.bufPut die ctx k off 16 r true, b2n bad)

/-- Step the records of the row with gradients `gs`. -/
def State.optRow (s : State) (c : Cmd) (off : Nat) (gs : List Nat) : ElemOut :=
  let datas := gs.map (optData (c.vals.take 9) (c.fld 0 48 16) (c.fld 0 25 1 == 1))
  if s.isRemote c.ctx c.tbuf then
    .orErr ((s.farErr c c.tbuf off (16 * c.d) true).map (fun e => (e, c.tbuf)))
      (match s.exchange c (datas.zipIdx.map (fun x => s.remoteReq c.ctx c.tbuf (off + 16 * x.2) 16 true 9 x.1)) c.tbuf with
       | .wait s => .wait s
       | .err e k => .err e k
       | .vals l => .done (s.setCmd (c.addBad (l.countP (fun x => x.1 == 1)))))
  else
    .orErr ((s.atomicErr c.die c.ctx c.tbuf off (16 * c.d)).map (fun e => (e, c.tbuf)))
      (let r := datas.zipIdx.foldl (fun (a : State × Nat) x =>
         let y := a.1.optAt c.die c.ctx c.tbuf (off + 16 * x.2) x.1
         (y.1, a.2 + y.2)) (s, 0)
       .done (r.1.setCmd (c.addBad r.2)))

/-- An entry of `nmopt`, once its guard has been read. -/
def State.optElem (s : State) (c : Cmd) : ElemOut :=
  let i := c.elem
  let gsrc := c.fld 0 26 1 == 1
  let reads := [(c.idxAt + 4 * i, 4)] ++ (if gsrc then [] else [(c.opdAt + 4 * c.d * i, 4 * c.d)])
  if c.vals.length ≠ 10 then .wait s
  else .orErr (s.sramBad c reads false)
    (let s := s.sramSeen c reads
     let r := s.word c.die (c.idxAt + 4 * i)
     let off := c.toff + r * c.rs
     if c.nrows ≤ r then .done (s.setCmd c.drop1)
     else if gsrc then
       s.withFetch c [(c.xbuf, c.reg 5 + 4 * c.d * r, 4 * c.d)] (fun s got =>
         s.optRow c off ((List.range c.d).map (fun e => bitsAt (got.headD (0, 0)).1 (32 * e) 32)))
     else s.optRow c off ((List.range c.d).map (fun e => s.word c.die (c.opdAt + 4 * (c.d * i + e)))))

/-- `nmopt` starts: HPAR is read; without GUARD the step is decided at once. -/
def State.optStart (s : State) (c : Cmd) : State :=
  match s.sramBad c [(c.hpar, 64)] false with
  | some (e, k) => s.cmdFault c e k
  | none =>
    let h := (List.range 9).map (fun i => s.word c.die (c.hpar + 4 * i))
    let guard := c.fld 0 24 1 == 1
    (s.sramSeen c [(c.hpar, 64)]).setCmd
      { c with vals := if guard then h else h ++ [1], st := if c.total = 0 && !guard then .done else .running }

/-- NMOPT_GUARD_READ (R252): the guard word is read again; the first value that is not 0 decides. -/
def execNmoptGuardRead (cmd : Nat) (s : State) : Res :=
  match s.cmd? cmd with
  | none => .next s
  | some c =>
    if !c.guardWait then .next s
    else .next (match s.withFetch c [(c.xbuf, c.reg 6, 4)] (fun s got =>
        let v := (got.headD (0, 0)).1
        .done (if v = 0 then { s with out := s.out.filter (fun o => o.cmd != c.id) }
          else if v = 1 then
            { s.setCmd { c with vals := c.vals ++ [1], st := if c.total = 0 then .done else .running } with
              out := s.out.filter (fun o => o.cmd != c.id) }
          else if v = 2 then s.endCmd c 11
          else s.endCmd c 5)) with
      | .done s => s
      | .wait s => s
      | .err e k => s.cmdFault c e k)

/-! ## Fences and return-free additions (R219, R253) -/

/-- The command sends return-free additions to a buffer. -/
def Cmd.sendsTo (c : Cmd) (buf : Nat) : Bool :=
  c.sendsAdds && (match c.op with | .nmadd _ => c.tbuf == buf | _ => c.fld 5 0 12 == buf)

/-- Every return-free addition the sequencer issued earlier to the buffer has performed (R219); commands are numbered as they issue. -/
def State.fenceMet (s : State) (c : Cmd) : Bool :=
  !s.eng.cmds.any (fun d => d.task == c.task && decide (d.id < c.id) && d.st != .done && d.sendsTo c.tbuf) &&
  !s.eng.adds.any (fun a => a.task == c.task && decide (a.cmd < c.id) && a.buf == c.tbuf)

/-- `nmfence` completes once it is met. -/
def State.fenceElem (s : State) (c : Cmd) : ElemOut :=
  .wait (if s.fenceMet c then s.setCmd { c with st := .done } else s)

/-- The record of a fault of an addition (R342, R346). -/
def RfAdd.faultRec (a : RfAdd) (cause : Nat) (off : Nat) : FaultRec :=
  ⟨cause, a.die, a.head + a.pos, a.pos, 0xFF, 0xFF, a.taskid % 2 ^ 32, a.addr, off, a.buf, 0, a.elem⟩

/-- Replace or drop the addition at a place of the list. -/
def State.setAdd (s : State) (i : Nat) (l : List RfAdd) : State :=
  s.modEng (fun g => { g with adds := g.adds.take i ++ l ++ g.adds.drop (i + 1) })

/-- RETURN_FREE_ADD_PERFORM (R219): an addition performs, after every earlier one to its word; a fault the driver can resolve
holds it. -/
def execReturnFreeAddPerform (add : Nat) (s : State) : Res :=
  match s.eng.adds[add]? with
  | none => .next s
  | some a =>
    if a.held || (s.eng.adds.take add).any (fun b => b.ctx == a.ctx && b.buf == a.buf && b.off == a.off) then .next s
    else match s.atomicErr a.die a.ctx a.buf a.off 4 with
      | some e =>
        .next (if e.replayable then ((s.holdEntry a.die a.ctx a.buf).setAdd add [{ a with held := true }]).report a.ctx (a.faultRec (e.code 10 + 2 ^ 9) e.off)
          else ((s.setAdd add []).errSeen e).endByFault a.ctx (a.faultRec (e.code 10 + 2 ^ 8) e.off))
      | none => .next ((s.amoAt a.die a.ctx a.buf a.off 4 7 a.val.toNat).1.setAdd add [])

/-! ## Issue -/

/-- `nmadd` (R247). -/
def execNmadd (f : FmtE) (s : State) : Res :=
  engineOp s (.nmadd f) f 0x40 5 (fun p => extra p 0 (ones 0 12 + ones 16 16) || extra p 4 (ones 32 32 + 1)) []
/-- `nmamo` (R247). -/
def execNmamo (f : FmtE) (s : State) : Res :=
  engineOp s (.nmamo f) f 0x41 5 (fun p => extra p 0 (ones 0 12 + ones 16 5) || extra p 4 (ones 0 32)) []
/-- `nmgs` (R248). -/
def execNmgs (f : FmtE) (s : State) : Res :=
  engineOp s (.nmgs f) f 0x42 5 (fun p => extra p 0 (ones 0 15 + ones 16 16) || extra p 4 (ones 32 32 + ones 0 16)) []
/-- `nmdot` (R248). -/
def execNmdot (f : FmtE) (s : State) : Res :=
  engineOp s (.nmdot f) f 0x43 5 (fun p => extra p 0 (ones 0 15 + ones 16 16) || extra p 4 (ones 32 32 + 1)) []

/-- Reserved fields of `nmopt`, those that are zero under a condition among them (R14, R250). -/
def optReserved (p : List DWord) : Bool :=
  let gsrc := field (p.getD 0 0) 26 1 == 1
  let guard := field (p.getD 0 0) 24 1 == 1
  extra p 0 (ones 0 27 + ones 32 32) || extra p 4 (ones 32 32) || (!gsrc && !guard && field (p.getD 0 0) 12 12 != 0) ||
  (gsrc && field (p.getD 3 0) 0 32 != 0) || (!gsrc && extra p 5 0) || (!guard && extra p 6 0)

/-- `nmopt` (R251). -/
def execNmopt (f : FmtE) (s : State) : Res := engineOp s (.nmopt f) f 0x44 7 optReserved []
/-- `nmfence` (R253). -/
def execNmfence (f : FmtE) (s : State) : Res := engineOp s (.nmfence f) f 0x45 1 (fun p => extra p 0 (ones 0 12)) []

end Sys2Proof.Machine
end

