-- ==== Sys2Proof/Machine/Lookup.lean ====
section
/-! DEFINITION. Sys2Proof/Machine/Lookup.lean: the product-key lookup unit (R254 to R270). -/
namespace Sys2Proof.Machine

/-! ## Packs (R257, R261, R263, R265) -/

/-- NQ. -/
def Cmd.nq (c : Cmd) : Nat := c.fld 0 48 16
/-- H. -/
def Cmd.heads (c : Cmd) : Nat := c.fld 0 38 5
/-- K of `pksel`, `pkfwd`, `pkbwd`. -/
def Cmd.finalK (c : Cmd) : Nat := c.fld 0 31 7
/-- K1. -/
def Cmd.topK (c : Cmd) : Nat := c.fld 0 24 7
/-- N: keys per half. -/
def Cmd.keys (c : Cmd) : Nat := match c.op with | .pksel _ => c.fld 0 0 13 | _ => c.fld 2 32 13
/-- SEL. -/
def Cmd.sel (c : Cmd) : Nat := match c.op with | .pksel _ => c.fld 2 32 32 | _ => c.fld 2 0 32
/-- D. -/
def Cmd.vdim (c : Cmd) : Nat := c.fld 0 16 12
/-- RFMT. -/
def Cmd.rfmt (c : Cmd) : Nat := c.fld 0 12 2
/-- RSEL. -/
def Cmd.rsel (c : Cmd) : Nat := c.fld 0 14 1
/-- RS of the value table. -/
def Cmd.vrs (c : Cmd) : Nat := rowSize c.rfmt c.vdim
/-- SSRC. -/
def Cmd.ssrc (c : Cmd) : Bool := c.fld 0 43 1 == 1
/-- ORING. -/
def Cmd.oring (c : Cmd) : Bool := match c.op with | .pkfwd _ => c.fld 3 5 1 == 1 | _ => false
/-- GEN. -/
def Cmd.gen (c : Cmd) : Bool := c.fld 5 12 1 == 1
/-- COUNT of `pkmrg`. -/
def Cmd.mrgCount (c : Cmd) : Nat := c.fld 0 32 32

/-- Limits of R255 that the value commands share. -/
def Cmd.valueLimits (c : Cmd) : Bool :=
  decide (1 ≤ c.nq ∧ 1 ≤ c.heads ∧ c.heads ≤ 16 ∧ 1 ≤ c.finalK ∧ c.finalK ≤ 64 ∧ 1 ≤ c.vdim ∧ c.vdim ≤ 2048 ∧ 1 ≤ c.keys ∧
    c.keys ≤ 4096 ∧ c.rfmt ≠ 3) && (c.rsel == 0 || c.rfmt == 2)

/-- TSCALE is finite and above zero (R257). -/
def scaleOk (v : Nat) : Bool := decide (0 < v ∧ v < 0x7F800000)

/-- The entries of a ring a command writes, as areas (R256). -/
def State.ringAreas (s : State) (c : Cmd) (n : Nat) : List (Nat × Nat) :=
  match s.cmdRing c (c.fld 3 0 5) with
  | some r => (List.range (min n r.count)).map (fun i => (r.entryAt (r.ip + BitVec.ofNat 32 i), 2 ^ r.e))
  | none => []

/-- Shared-SRAM areas of a class-5 command: those it writes, those it reads. -/
def State.lookupAreas (s : State) (c : Cmd) : List (Nat × Nat) × List (Nat × Nat) :=
  let blocks := c.nq * c.heads
  match c.op with
  | .pksel _ => ([(c.sel, 8 * blocks * c.finalK)],
      if c.ssrc then [] else [(c.fld 1 32 32, 4 * blocks * c.keys), (c.fld 1 0 32, 4 * blocks * c.keys)])
  | .pkfwd _ => (if c.oring then s.ringAreas c c.nq else [(c.fld 3 32 32, 4 * c.nq * c.vdim)], [(c.sel, 8 * blocks * c.finalK)])
  | .pkbwd _ => ([(c.fld 3 0 32, 4 * blocks * c.keys), (c.fld 4 32 32, 4 * blocks * c.keys), (c.fld 4 0 32, 8 * blocks * c.finalK)],
      [(c.sel, 8 * blocks * c.finalK), (c.fld 3 32 32, 4 * c.nq * c.vdim)])
  | _ => ([(c.fld 2 32 32, 4 * c.mrgCount), (c.fld 2 0 32, 4 * c.mrgCount * c.vdim), (c.fld 3 32 32, 4)],
      [(c.fld 1 32 32, 4 * c.mrgCount), (c.fld 1 0 32, 4 * c.mrgCount * c.vdim)])

/-- Alignment of the offsets. -/
def Cmd.lookupAligned (c : Cmd) : Bool :=
  match c.op with
  | .pksel _ => decide (c.sel % 8 = 0 ∧ c.fld 1 32 32 % 4 = 0 ∧ c.fld 1 0 32 % 4 = 0)
  | .pkfwd _ => decide (c.sel % 8 = 0 ∧ c.fld 3 32 32 % 4 = 0)
  | .pkbwd _ => decide (c.sel % 8 = 0 ∧ c.fld 3 32 32 % 4 = 0 ∧ c.fld 3 0 32 % 4 = 0 ∧ c.fld 4 32 32 % 4 = 0 ∧ c.fld 4 0 32 % 8 = 0)
  | _ => decide (c.fld 1 32 32 % 4 = 0 ∧ c.fld 1 0 32 % 4 = 0 ∧ c.fld 2 32 32 % 4 = 0 ∧ c.fld 2 0 32 % 4 = 0 ∧ c.fld 3 32 32 % 4 = 0)

/-- Limits of the pack and kinds of the buffers. -/
def State.lookupLimits (s : State) (c : Cmd) : Bool :=
  match c.op with
  | .pksel _ =>
    decide (1 ≤ c.nq ∧ 1 ≤ c.heads ∧ c.heads ≤ 16 ∧ 1 ≤ c.topK ∧ c.topK ≤ 64 ∧ c.topK ≤ c.keys ∧ c.keys ≤ 4096 ∧ 1 ≤ c.finalK ∧
      c.finalK ≤ 64 ∧ c.finalK ≤ c.topK * c.topK) && scaleOk (c.fld 2 0 32) &&
    (!c.ssrc || decide (c.nq * c.heads * 2 * c.keys % 8192 = 0))
  | .pkfwd _ => c.valueLimits && s.tableOk c c.tbuf false && s.rowsFit c c.tbuf c.vrs (c.reg 1) &&
    (!c.oring || (match s.cmdRing c (c.fld 3 0 5) with | some r => decide (4 * c.vdim ≤ 2 ^ r.e) | none => false))
  | .pkbwd _ => c.valueLimits && s.tableOk c c.tbuf false && s.rowsFit c c.tbuf c.vrs (c.reg 1) &&
    (!c.gen || (s.tableOk c (c.fld 5 0 12) true && s.rowsFit c (c.fld 5 0 12) (4 * c.vdim) (c.reg 6)))
  | _ => decide (c.mrgCount < 2 ^ 24 ∧ 1 ≤ c.vdim ∧ c.vdim ≤ 2048)

/-- The acceptance checks of class 5. -/
def State.lookupAccept (s : State) (c : Cmd) : Accept :=
  let a := s.lookupAreas c
  { param := s.lookupLimits c
    range := (c.oring || a.1.all (fun x => s.cmdSram c x.1 x.2)) && a.2.all (fun x => s.cmdSram c x.1 x.2)
    align := c.lookupAligned
    overlap := areasApart a.1 a.2
    state := match c.op with | .pksel _ => !c.ssrc || s.popsFrom c (c.fld 0 44 2) 1 | _ => true
    total := match c.op with | .pkfwd _ => c.nq | .pkmrg _ => c.mrgCount | _ => c.nq * c.heads }

/-! ## Selection (R257 to R260) -/

/-- The order of an FP32 value: none for a NaN; the two zeros are equal. -/
def rankOf (v : Nat) : Option Int :=
  if isNanBits .fp32 v then none
  else some (if bitAt v 31 then -((bitsAt v 0 31 : Nat) : Int) else ((bitsAt v 0 31 : Nat) : Int))

/-- Candidate (value, index) `a` ranks above `b` (R258). -/
def ranksAbove (a b : Nat × Nat) : Bool :=
  match rankOf a.1, rankOf b.1 with
  | some _, none => true
  | none, some _ => false
  | none, none => decide (a.2 < b.2)
  | some x, some y => decide (y < x) || (x == y && decide (a.2 < b.2))

/-- Put a candidate into a ranked list. -/
def insertRanked (a : Nat × Nat) (l : List (Nat × Nat)) : List (Nat × Nat) :=
  match l with
  | [] => [a]
  | b :: t => if ranksAbove a b then a :: b :: t else b :: insertRanked a t

/-- The `k` highest-ranked candidates in rank order. -/
def topRanked (l : List (Nat × Nat)) (k : Nat) : List (Nat × Nat) := (l.foldl (fun r a => (insertRanked a r).take k) [])

/-- The K pairs a block selects (R258): score and C. -/
def selectPairs (n k1 k : Nat) (s1 s2 : List Nat) : List (Nat × Nat) :=
  let l1 := topRanked s1.zipIdx k1
  let l2 := topRanked s2.zipIdx k1
  topRanked (l1.flatMap (fun a => l2.map (fun b => ((addF32 a.1 b.1 false false).1, a.2 * n + b.2)))) k

/-- The softmax weights of scores in rank order (R259). -/
def softmax (tscale : Nat) (ss : List Nat) : List Nat :=
  let m := ss.headD 0
  if nonFinite m then ss.map (fun _ => 0x7FC00000)
  else
    let es := ss.map (fun v =>
      if isNanBits .fp32 v then 0
      else (specFn .exp2 (rf (mulX (addX (dec .fp32 v) (negRv (dec .fp32 m))) (dec .fp32 tscale))) false).1)
    let z := es.foldl (fun a e => (addF32 a e false false).1) 0
    es.map (fun e => (rne (divRv (dec .fp32 e) (dec .fp32 z)) .fp32).1)

/-- Stream element `u` of the rows a command has popped. -/
def Cmd.stream (c : Cmd) (u : Nat) : Nat :=
  let m := u % 8192
  tileElem (fget (c.rows.getD (u / 8192) []) 0 (m / 256)) (m % 256 / 16) (m % 16)

/-- A block of `pksel`. -/
def State.selElem (s : State) (c : Cmd) : ElemOut :=
  let b := c.elem
  let n := c.keys
  let at1 := c.fld 1 32 32 + 4 * b * n
  let at2 := c.fld 1 0 32 + 4 * b * n
  let reads := if c.ssrc then [] else [(at1, 4 * n), (at2, 4 * n)]
  let out := c.sel + 8 * b * c.finalK
  if c.ssrc ∧ 8192 * c.rows.length < (b + 1) * 2 * n then .wait s
  else .orErr ((s.sramBad c reads false).or (s.sramBad c [(out, 8 * c.finalK)] true))
    (let s := s.sramSeen c reads
     let s1 := (List.range n).map (fun i => if c.ssrc then c.stream (b * 2 * n + i) else s.word c.die (at1 + 4 * i))
     let s2 := (List.range n).map (fun i => if c.ssrc then c.stream ((b * 2 + 1) * n + i) else s.word c.die (at2 + 4 * i))
     let ps := selectPairs n c.topK c.finalK s1 s2
     let ws := softmax (c.fld 2 0 32) (ps.map (·.1))
     let v := (ps.zip ws).flatMap (fun x => [x.1.2, x.2])
     .done ((s.sramWr c.die out (8 * c.finalK) (packWords v)).setCmd (c.addBad (ws.countP nonFinite))))

/-! ## Gather-sum (R262) -/

/-- The selection entries `lo` to `lo + n - 1`: C and W. -/
def State.selEntries (s : State) (c : Cmd) (lo n : Nat) : List (Nat × Nat) :=
  (List.range n).map (fun u => (s.word c.die (c.sel + 8 * (lo + u)), s.word c.die (c.sel + 8 * (lo + u) + 4)))

/-- The output vector of query `c.elem`, handed to `f` with the count of dropped entries. -/
def State.fwdVector (s : State) (c : Cmd) (f : State → Nat → List Nat → ElemOut) : ElemOut :=
  let n := c.heads * c.finalK
  let reads := [(c.sel + 8 * c.elem * n, 8 * n)]
  .orErr (s.sramBad c reads false)
    (let s := s.sramSeen c reads
     let ents := s.selEntries c (c.elem * n) n
     let good := ents.filter (fun e => decide (e.1 < c.keys * c.keys))
     s.withFetch c (good.map (fun e => (c.tbuf, c.reg 1 + e.1 * c.vrs, c.vrs))) (fun s got =>
       let rows := (good.zip got).map (fun x => (x.1.2, x.2.1, x.2.2))
       f s (n - good.length) ((List.range c.vdim).map (fun e => stackSum rows (fun row => rowElem c.rfmt c.rsel row e)))))

/-- The command once it has written the vector `v`. -/
def Cmd.fwdDone (c : Cmd) (dropped : Nat) (v : List Nat) : Cmd :=
  { c.addBad (v.countP nonFinite) with dropped := c.dropped + dropped }

/-- An output of `pkfwd` into shared SRAM. -/
def State.fwdElem (s : State) (c : Cmd) : ElemOut :=
  let out := c.fld 3 32 32 + 4 * c.elem * c.vdim
  if c.oring then .wait s
  else .orErr (s.sramBad c [(out, 4 * c.vdim)] true)
    (s.fwdVector c (fun s k v => .done ((s.sramWr c.die out (4 * c.vdim) (packWords v)).setCmd (c.fwdDone k v))))

/-- PKFWD_RING_OUTPUT (R262): an output goes into a free ring entry, and P and IP advance. -/
def execPkfwdRingOutput (cmd : Nat) (s : State) : Res :=
  match s.cmd? cmd with
  | none => .next s
  | some c =>
    match s.taskOf c.task, s.cmdRing c (c.fld 3 0 5) with
    | some t, some r =>
      if c.oring && c.st == .running && r.freeEntry then
        let a := r.entryAt r.ip
        .next (match ElemOut.orErr (s.sramBad c [(a, 4 * c.vdim)] true)
            (s.fwdVector c (fun s k v =>
              let c1 := c.fwdDone k v
              .done (((s.sramWr c.die a (4 * c.vdim) (packWords v)).putEng (t.setRing (c.fld 3 0 5) (r.advP 1))).elemDone c1))) with
          | .done s => s
          | .wait s => s
          | .err e k => s.cmdFault c e k)
      else .next s
    | _, _ => .next s

/-! ## Backward pass (R264) -/

/-- One entry of a block after its dot product: W, C, d, whether it is dropped. -/
structure BwdEnt where
  w : Nat
  c : Nat
  d : Nat
  drop : Bool
  deriving DecidableEq, Repr, Inhabited

/-- ds of an entry, one rounding of the exact product (R264). -/
def bwdDs (t : Nat) (e : BwdEnt) : Nat :=
  (rne (mulX (dec .fp32 e.w) (addX (dec .fp32 e.d) (negRv (dec .fp32 t)))) .fp32).1

/-- A row of score gradients of `n` words: each kept entry adds ds at its key. -/
def gradRow (n : Nat) (key : BwdEnt → Nat) (l : List (BwdEnt × Nat)) : List Nat :=
  (List.range n).map (fun i => l.foldl (fun a x => if !x.1.drop && key x.1 == i then (addF32 a x.2 false false).1 else a) 0)

/-- A block of `pkbwd`. -/
def State.bwdElem (s : State) (c : Cmd) : ElemOut :=
  let b := c.elem
  let n := c.keys
  let dAt := c.fld 3 32 32 + 4 * (b / c.heads) * c.vdim
  let reads := [(c.sel + 8 * b * c.finalK, 8 * c.finalK), (dAt, 4 * c.vdim)]
  let ds1 := c.fld 3 0 32 + 4 * b * n
  let ds2 := c.fld 4 32 32 + 4 * b * n
  let work := c.fld 4 0 32 + 8 * b * c.finalK
  .orErr ((s.sramBad c reads false).or (s.sramBad c [(ds1, 4 * n), (ds2, 4 * n), (work, 8 * c.finalK)] true))
    (let s := s.sramSeen c reads
     let ents := s.selEntries c (b * c.finalK) c.finalK
     let dout (e : Nat) : Nat := s.word c.die (dAt + 4 * e)
     let good := ents.filter (fun e => decide (e.1 < n * n))
     s.withFetch c (good.map (fun e => (c.tbuf, c.reg 1 + e.1 * c.vrs, c.vrs))) (fun s got =>
       let dots := (good.zip got).map (fun x => (x.1, dotRow c.vdim dout (rowElem c.rfmt c.rsel x.2.1)))
       let l := ents.map (fun e =>
         if e.1 < n * n then (⟨e.2, e.1, ((dots.find? (fun x => x.1 == e)).map (·.2)).getD 0, false⟩ : BwdEnt) else ⟨e.2, e.1, 0, true⟩)
       let t := l.foldl (fun a e => (fmaF32 e.w e.d a).1) 0
       let ls := l.map (fun e => (e, bwdDs t e))
       let r1 := gradRow n (fun e => e.c / n) ls
       let r2 := gradRow n (fun e => e.c % n) ls
       let wv := ls.flatMap (fun x => [x.1.d, x.2])
       let adds := if c.gen then (l.filter (fun e => !e.drop)).flatMap (fun e => (List.range c.vdim).map (fun i =>
         (c.reg 6 + 4 * (e.c * c.vdim + i), (mulF32 e.w (dout i)).1))) else []
       s.sendAdds c (c.fld 5 0 12) adds (fun s =>
         let s := ((s.sramWr c.die work (8 * c.finalK) (packWords wv)).sramWr c.die ds1 (4 * n) (packWords r1)).sramWr c.die ds2 (4 * n)
           (packWords r2)
         .done (s.setCmd { c.addBad ((wv ++ r1 ++ r2 ++ adds.map (·.2)).countP nonFinite) with
           dropped := c.dropped + (c.finalK - good.length) }))))

/-! ## Deduplication (R265) -/

/-- Put a pair of index and place into order: by index, then by place. -/
def insertPair (a : Nat × Nat) (l : List (Nat × Nat)) : List (Nat × Nat) :=
  match l with
  | [] => [a]
  | b :: t => if a.1 < b.1 ∨ (a.1 = b.1 ∧ a.2 < b.2) then a :: b :: t else b :: insertPair a t

/-- Merge the runs of equal index of an ordered list; `row` gives the payload of a place. -/
def mergeRuns (row : Nat → List Nat) (l : List (Nat × Nat)) (acc : List (Nat × List Nat)) : List (Nat × List Nat) :=
  match l with
  | [] => acc.reverse
  | a :: t =>
    match acc with
    | (x, p) :: rest =>
      if x = a.1 then mergeRuns row t ((x, (p.zip (row a.2)).map (fun y => (addF32 y.1 y.2 false false).1)) :: rest)
      else mergeRuns row t ((a.1, row a.2) :: acc)
    | [] => mergeRuns row t [(a.1, row a.2)]

/-- The sort and the merge: the output count, then each index with its payload. -/
def State.mrgSort (s : State) (c : Cmd) : List Nat :=
  let row (i : Nat) : List Nat := (List.range c.vdim).map (fun e => s.word c.die (c.fld 1 0 32 + 4 * (i * c.vdim + e)))
  let order := ((List.range c.mrgCount).map (fun i => (s.word c.die (c.fld 1 32 32 + 4 * i), i))).foldr insertPair []
  let out := mergeRuns row order []
  out.length :: out.flatMap (fun x => x.1 :: x.2)

/-- Write the output count. -/
def State.mrgCountOut (s : State) (c : Cmd) (u : Nat) : State := s.sramWr c.die (c.fld 3 32 32) 4 u

/-- An entry of `pkmrg`: first the sort, then the outputs one by one, the count last. -/
def State.mrgElem (s : State) (c : Cmd) : ElemOut :=
  let i := c.elem
  let d := c.vdim
  match c.vals with
  | [] =>
    let reads := [(c.fld 1 32 32, 4 * c.mrgCount), (c.fld 1 0 32, 4 * c.mrgCount * d)]
    .orErr (s.sramBad c reads false) (.wait ((s.sramSeen c reads).setCmd { c with vals := s.mrgSort c }))
  | u :: outs =>
    let last := i + 1 == c.total
    let writes := (if i < u then [(c.fld 2 32 32 + 4 * i, 4), (c.fld 2 0 32 + 4 * i * d, 4 * d)] else []) ++
      (if last then [(c.fld 3 32 32, 4)] else [])
    let ent := (outs.drop (i * (d + 1))).take (d + 1)
    .orErr (s.sramBad c writes true)
      (let s1 := if i < u then
         (s.sramWr c.die (c.fld 2 32 32 + 4 * i) 4 (ent.headD 0)).sramWr c.die (c.fld 2 0 32 + 4 * i * d) (4 * d) (packWords ent.tail)
         else s
       .done ((if last then s1.mrgCountOut c u else s1).setCmd (c.addBad (if i < u then ent.tail.countP nonFinite else 0))))

/-! ## Issue -/

/-- Reserved bits of s[p] of `pkfwd` and `pkbwd`. -/
def pkfReserved (p : List DWord) : Bool := extra p 0 (ones 0 15 + ones 16 12 + ones 31 12 + ones 48 16) || extra p 2 (ones 0 45)

/-- `pksel` (R257). -/
def execPksel (f : FmtE) (s : State) : Res :=
  engineOp s (.pksel f) f 0x50 3 (fun p => extra p 0 (ones 0 13 + ones 24 22 + ones 48 16) ||
    (if field (p.getD 0 0) 43 1 = 1 then extra p 1 0 else field (p.getD 0 0) 44 2 != 0)) []
/-- `pkfwd` (R261). -/
def execPkfwd (f : FmtE) (s : State) : Res :=
  engineOp s (.pkfwd f) f 0x51 4 (fun p => pkfReserved p || extra p 3 (ones 0 6 + ones 32 32) ||
    (if field (p.getD 3 0) 5 1 = 1 then field (p.getD 3 0) 32 32 != 0 else field (p.getD 3 0) 0 5 != 0)) []
/-- `pkbwd` (R263). -/
def execPkbwd (f : FmtE) (s : State) : Res :=
  engineOp s (.pkbwd f) f 0x52 7 (fun p => pkfReserved p || extra p 5 (ones 0 13) ||
    (field (p.getD 5 0) 12 1 == 0 && (field (p.getD 5 0) 0 12 != 0 || extra p 6 0))) []
/-- `pkmrg` (R265). -/
def execPkmrg (f : FmtE) (s : State) : Res :=
  engineOp s (.pkmrg f) f 0x53 4 (fun p => extra p 0 (ones 16 12 + ones 32 32) || extra p 3 (ones 32 32)) []

end Sys2Proof.Machine
end

