-- ==== Sys2Proof/Machine/Volume.lean ====
section
/-! DEFINITION. Sys2Proof/Machine/Volume.lean: sparse volumes (R272 to R289): the tile tree, the free lists, the look-aside
buffers, the class-6 commands, shoot-downs and allocation failures. -/
namespace Sys2Proof.Machine

/-! ## Sizes (R273, R275) -/

/-- Bytes of a channel. -/
def VolDesc.es (d : VolDesc) : Nat := typeWidth d.fmt / 8
/-- Bytes of an element. -/
def VolDesc.elem (d : VolDesc) : Nat := d.ch * d.es
/-- Tile stride TS: the least power of two that holds a tile. -/
def VolDesc.ts (d : VolDesc) : Nat := ([512, 1024, 2048, 4096, 8192, 16384].find? (fun n => decide (512 * d.elem ≤ n))).getD 32768

/-- The formats a volume accepts (R273). -/
def volFmt (t : Nat) : Bool := [0, 2, 4, 8, 9, 10, 11, 12].contains t

/-- The regions of a volume: control block, nodes, tiles, lists. -/
def VolDesc.regions (d : VolDesc) : List (Nat × Nat) :=
  [(0, 64), (d.nodeoff, 4096 * d.nnode), (d.tileoff, d.ts * d.ntile), (d.nloff, 4 * d.nnode), (d.tloff, 4 * d.ntile)]

/-- An image that INIT accepts for a buffer of `size` bytes and granule `g` (R275, R287). -/
def volImageOk (v size g : Nat) : Bool :=
  let d := volDesc v
  volFmt d.fmt && decide (1 ≤ d.ch ∧ d.ch ≤ 16 ∧ d.mode ≤ 1 ∧ bitsAt v 56 8 = 0 ∧ bitsAt v (8 * 0x1C) 32 = 0) &&
  d.ext.all (fun e => decide (1 ≤ e ∧ e ≤ 2 ^ 18)) &&
  decide (1 ≤ d.nnode ∧ d.nnode ≤ 2 ^ 24 ∧ 1 ≤ d.ntile ∧ d.ntile ≤ 2 ^ 24 ∧ d.root < d.nnode) &&
  decide (d.nodeoff % 4096 = 0 ∧ d.tileoff % d.ts = 0 ∧ d.nloff % 4 = 0 ∧ d.tloff % 4 = 0 ∧ d.bg < 2 ^ (8 * d.elem)) &&
  d.regions.all (fun r => decide (r.1 + r.2 ≤ size)) &&
  decide (d.regions.Pairwise (fun a b => meetRanges a b = false)) && decide (max d.ts 4096 ≤ g)

/-! ## Packs (R277) -/

/-- VBUF. -/
def Cmd.vbuf (c : Cmd) : Nat := c.fld 0 0 12
/-- The command reads or writes listed elements. -/
def Cmd.isAccess (c : Cmd) : Bool := match c.op with | .vxget _ | .vxput _ | .vxadd _ => true | _ => false
/-- `vxget`. -/
def Cmd.isGet (c : Cmd) : Bool := match c.op with | .vxget _ => true | _ => false
/-- COUNT. -/
def Cmd.vcount (c : Cmd) : Nat := c.fld 0 16 24
/-- The first element performed: START of the commands that have one. The entries below it count as performed, however the command
ends (R277); DEDUCED: of a START above COUNT, COUNT entries do (log entry 67). -/
def Cmd.startElem (c : Cmd) : Nat := if c.isAccess then min (c.fld 0 40 24) c.vcount else 0
/-- The high half of s[p+1]: CLIST, TLIST or FIRST. -/
def Cmd.vlist (c : Cmd) : Nat := c.fld 1 32 32
/-- The low half of s[p+1]: DATA, TOUT, N or IMG. -/
def Cmd.vdata (c : Cmd) : Nat := c.fld 1 0 32

/-- The volume of a command. -/
def State.volOf (s : State) (c : Cmd) : Nat × Nat := s.volKey c.ctx c.vbuf

/-- Device address of the descriptor. -/
def State.vdescAt (s : State) (c : Cmd) : Nat := (s.useEntry c.ctx c.vbuf).addr + 0x80

/-- The descriptor of the command's volume. -/
def State.vdesc (s : State) (c : Cmd) : VolDesc := volDesc (s.devRd (s.vdescAt c) 128)

/-- The volume has a completed INIT. -/
def State.volInited (s : State) (c : Cmd) : Bool :=
  let v := s.volOf c
  (fget? (s.ctx v.1).volInit v.2).isSome

/-- The buffer is a volume of this module with the rights a command needs (R278). -/
def State.volBufOk (s : State) (c : Cmd) : Bool :=
  let e := s.useEntry c.ctx c.vbuf
  (s.bufEntry c.ctx c.vbuf).valid && e.valid && e.vol && !e.host && !(s.bufEntry c.ctx c.vbuf).remote && e.rd && (c.isGet || e.wr)

/-- AP of the command. -/
def Cmd.ap (c : Cmd) : Bool :=
  match c.op with
  | .vxinv f | .vxpoolInit f | .vxpoolAddt f | .vxpoolAddn f => f.ap == 1
  | _ => false

/-- Shared-SRAM areas: written, read. -/
def State.volAreas (s : State) (c : Cmd) : List (Nat × Nat) × List (Nat × Nat) :=
  let list := (c.vlist, 12 * c.vcount)
  let data := (c.vdata, c.vcount * (s.vdesc c).elem)
  match c.op with
  | .vxget _ => ([data], [list])
  | .vxput _ | .vxadd _ => ([], [list, data])
  | .vxinv _ => ([(c.vdata, 4 * c.vcount)], [list])
  | .vxtile _ => ([], [(c.vlist, 4 * c.vcount)])
  | .vxpoolInit _ => ([], [(c.vdata, 128)])
  | _ => ([], [])

/-- The failing check of reading the command's buffer-table entry, its descriptor with it (R355). -/
def State.descErr (s : State) (c : Cmd) : Option (PortErr × Nat) :=
  if c.cls = 6 then ((s.entryBursts c.ctx c.vbuf).findSome? (s.burstErr true)).map (fun e => (e, c.vbuf)) else none

/-- What reading them corrects (R354). -/
def State.descSee (s : State) (c : Cmd) : State := if c.cls = 6 then (s.entryBursts c.ctx c.vbuf).foldl State.burstTouch s else s

/-- The acceptance checks of class 6 (R278, R286, R287). -/
def State.volAccept (s : State) (c : Cmd) : Accept :=
  let d := s.vdesc c
  let a := s.volAreas c
  let e := s.useEntry c.ctx c.vbuf
  { param := s.volBufOk c &&
      (match c.op with
       | .vxpoolInit _ => c.fld 0 12 2 == 0 && (!s.cmdSram c c.vdata 128 || (s.sramBad c [(c.vdata, 128)] false).isSome || volImageOk (s.sramRd c.die c.vdata 128) e.size e.granule)
       | _ => s.volInited c) &&
      (match c.op with
       | .vxget _ => c.fld 0 12 1 == 0 && decide (c.fld 0 40 24 ≤ c.vcount)
       | .vxput _ => d.mode == 1 && decide (c.fld 0 40 24 ≤ c.vcount)
       | .vxadd _ => d.mode == 1 && [2, 8, 9, 10].contains d.fmt && decide (c.fld 0 40 24 ≤ c.vcount)
       | .vxtile _ => c.vxinvOk
       | .vxpoolAddt _ => !c.ap && decide (4 ≤ c.scope ∧ c.vlist + c.vdata ≤ d.ntile)
       | .vxpoolAddn _ => !c.ap && decide (4 ≤ c.scope ∧ c.vlist + c.vdata ≤ d.nnode ∧ ¬(c.vlist ≤ d.root ∧ d.root < c.vlist + c.vdata))
       | _ => !c.ap && decide (4 ≤ c.scope))
    range := (a.1 ++ a.2).all (fun x => s.cmdSram c x.1 x.2)
    align := match c.op with
      | .vxpoolInit _ => c.vdata % 128 == 0
      | .vxpoolAddt _ | .vxpoolAddn _ => true
      | .vxtile _ => c.vlist % 4 == 0
      | _ => c.vlist % 4 == 0 && c.vdata % 4 == 0
    overlap := areasApart a.1 a.2
    state := true
    total := match c.op with | .vxpoolInit _ => 1 | .vxpoolAddt _ | .vxpoolAddn _ => c.vdata | _ => c.vcount }

/-! ## Accesses to the volume buffer -/

/-- `n` bytes of the command's volume buffer. -/
def State.vRd (s : State) (c : Cmd) (off n : Nat) : Nat := s.bufRd c.die c.ctx c.vbuf off n

/-- Write `n` bytes of it. -/
def State.vWr (s : State) (c : Cmd) (off n v : Nat) : State := s.bufPut c.die c.ctx c.vbuf off n v true

/-- The failing check of reads, writes and atomics of it. -/
def State.vErr (s : State) (c : Cmd) (l : List (Nat × Nat)) (write : Bool) : Option (PortErr × Nat) :=
  (l.findSome? (fun x => if write then s.atomicErr c.die c.ctx c.vbuf x.1 x.2 else s.portErr c.die c.ctx c.vbuf x.1 x.2 false)).map
    (fun e => (e, c.vbuf))

/-- PUSH: a list that is full drops the number. -/
def State.volPush (s : State) (c : Cmd) (d : VolDesc) (node : Bool) (num : Nat) : State := s.listPush c.die c.ctx c.vbuf d node num

/-- The failing check of a PUSH or a POP. -/
def State.listErr (s : State) (c : Cmd) (d : VolDesc) (node : Bool) (push : Bool) : Option (PortErr × Nat) :=
  let l := d.listOf node
  (s.vErr c [(l.1, 8)] true).or
    (let n := s.vRd c l.1 8
     if push then (if l.2.2 ≤ n then none else s.vErr c [(l.2.1 + 4 * n, 4)] true)
     else if n = 0 then none else s.vErr c [(l.2.1 + 4 * (n - 1), 4)] true)

/-- Add 1 to a counter of the control block, modulo 2^64. -/
def State.volCount (s : State) (c : Cmd) (off : Nat) : State := s.vWr c off 8 ((s.vRd c off 8 + 1) % 2 ^ 64)

/-! ## The look-aside buffers (R283) -/

/-- The entry of a die for a leaf-tile coordinate. While a shoot-down of the volume is on its way none is used, so that no hit returns what the
walk would not (R283). -/
def State.lookUp (s : State) (c : Cmd) (x y z : Nat) : Option (Option Nat) :=
  if s.shootPending (s.volOf c) then none
  else (s.eng.look.find? (fun e => e.die == c.die && e.ctx == c.ctx && e.buf == c.vbuf && e.x == x / 8 && e.y == y / 8 && e.z == z / 8)).map (·.tile)

/-- Drop the first entry of a die. -/
def dropFirst (die : Nat) (l : List LookEntry) : List LookEntry :=
  match l with
  | [] => []
  | e :: t => if e.die = die then t else e :: dropFirst die t

/-- A walk fills an entry: a static volume keeps both kinds, a dynamic one only tiles, and none while a shoot-down is on its way (R283,
R285). A die holds 4,096. -/
def State.lookFill (s : State) (c : Cmd) (x y z : Nat) (t : Option Nat) : State :=
  if s.shootPending (s.volOf c) || (s.lookUp c x y z).isSome || ((s.vdesc c).mode == 1 && t.isNone) then s
  else s.modEng (fun g =>
    let l := if 4096 ≤ g.look.countP (fun e => e.die == c.die) then dropFirst c.die g.look else g.look
    { g with look := l ++ [⟨c.die, c.ctx, c.vbuf, x / 8, y / 8, z / 8, t⟩] })

/-! ## The walk (R272, R274, R281) -/

/-- Index of the child at level `l` (R272). -/
def childIndex (l x y z : Nat) : Nat := z / 8 ^ l % 8 * 64 + y / 8 ^ l % 8 * 8 + x / 8 ^ l % 8

/-- A pointer of level `l` breaks the table of R274. -/
def VolDesc.badPtr (d : VolDesc) (l p : Nat) : Bool :=
  p != 0 && (!bitAt p 63 || (bitAt p 62 != (l == 1)) || bitsAt p 32 30 != 0 ||
    (if l = 1 then decide (d.ntile ≤ bitsAt p 0 32) else decide (d.nnode ≤ bitsAt p 0 32)))

/-- What a walk meets: the tile, with the place of its pointer; an empty pointer of a level, with its place; or an error. -/
inductive Walk where
  | tile (num at_ : Nat)
  | empty (level at_ : Nat)
  | err (e : PortErr) (buf : Nat)
  deriving DecidableEq, Repr, Inhabited

/-- Walk from node `n` at level `l` down. -/
def State.walk (s : State) (c : Cmd) (d : VolDesc) (x y z n l : Nat) : Walk :=
  match l with
  | 0 => .tile n 0
  | k + 1 =>
    let a := d.nodeoff + 4096 * n + 8 * childIndex (k + 1) x y z
    match s.vErr c [(a, 8)] false with
    | some (e, b) => .err e b
    | none =>
      let p := s.vRd c a 8
      if d.badPtr (k + 1) p then .err ⟨4, a, false, none⟩ c.vbuf
      else if p = 0 then .empty (k + 1) a
      else if k = 0 then .tile (bitsAt p 0 32) a
      else s.walk c d x y z (bitsAt p 0 32) k

/-- A coordinate of list entry `i`, if it lies inside the volume (R272). -/
def State.coord (s : State) (c : Cmd) (d : VolDesc) (i : Nat) : Option (Nat × Nat × Nat) :=
  let w (k : Nat) : Int := sext (s.word c.die (c.vlist + 12 * i + 4 * k)) 32
  let ok (k : Nat) : Bool := decide (0 ≤ w k ∧ w k < ((d.ext.getD k 0 : Nat) : Int))
  if ok 0 && ok 1 && ok 2 then some ((w 0).toNat, (w 1).toNat, (w 2).toNat) else none

/-! ## Elements (R279 to R282) -/

/-- VXADD of one channel (R280). -/
def addChannel (fmt old v : Nat) : Nat :=
  if fmt = 2 then (old + v) % 2 ^ 32
  else (roundNv (addRv (dec (typeFmt fmt) old) (dec (typeFmt fmt) v) false) (typeFmt fmt) .rne false false).1

/-- VXADD of an element vector. -/
def VolDesc.add (d : VolDesc) (old v : Nat) : Nat :=
  (List.range d.ch).foldr (fun i a =>
    let w := 8 * d.es
    addChannel d.fmt (bitsAt old (w * i) w) (bitsAt v (w * i) w) + 2 ^ w * a) 0

/-- Offset of an element of a tile. -/
def VolDesc.elemAt (d : VolDesc) (tile x y z : Nat) : Nat := d.tileoff + d.ts * tile + childIndex 0 x y z * d.elem

/-- The allocation of an element fails (R288): the command stops there, or waits for the trap of its task. -/
def State.allocFail (s : State) (c : Cmd) (node : Bool) : State :=
  if c.fld 0 12 1 = 0 then s.endCmd { c with vals := [] } 12
  else
    let tval := b2n node * 2 ^ 36 + c.pos * 2 ^ 30 + c.slot * 2 ^ 24 + c.elem
    let s := s.setCmd { c with vals := [1], st := .allocWait }
    match s.taskOf c.task with
    | some t => s.putEng { t with allocs := t.allocs ++ [⟨some c.id, c.pos, BitVec.ofNat 64 tval, c.vbuf⟩] }
    | none => s

/-- A child is popped and initialised; its publication comes next. `vals` holds the descriptor the element uses, its coordinates, the
level and place of the pointer, and the child. -/
def State.volPop (s : State) (c : Cmd) (img x y z level at_ : Nat) : ElemOut :=
  let d := volDesc img
  let node := decide (1 < level)
  .orErr (s.listErr c d node false)
    (let l := d.listOf node
     let n := s.vRd c l.1 8
     if n = 0 then .wait (s.allocFail c node)
     else
       let num := s.vRd c (l.2.1 + 4 * (n - 1)) 4
       let area := if node then (d.nodeoff + 4096 * num, 4096) else (d.tileoff + d.ts * num, 512 * d.elem)
       .orErr (s.vErr c [area] true)
         (let s := s.vWr c l.1 8 (n - 1)
          let s := if node then s.vWr c area.1 4096 0
            else (List.range 512).foldl (fun s e => s.vWr c (area.1 + e * d.elem) d.elem d.bg) s
          .wait (s.setCmd { c with vals := [img, x, y, z, level, at_, num] })))

/-- The element of entry `i` at tile `t`. After an unordered INIT the places of DATA are those of the new descriptor, and are not checked
again (log entry 67). -/
def State.volTouch (s : State) (c : Cmd) (d : VolDesc) (t x y z : Nat) : ElemOut :=
  let a := d.elemAt t x y z
  let data := c.vdata + c.elem * d.elem
  let fin (s : State) : ElemOut := .done (s.setCmd { c with vals := [] })
  match c.op with
  | .vxget _ => .orErr ((s.vErr c [(a, d.elem)] false).or (s.sramBad c [(data, d.elem)] true))
      (fin ((s.portTouch c.die c.ctx c.vbuf a d.elem).sramWr c.die data d.elem (s.vRd c a d.elem)))
  | .vxput _ => .orErr ((s.vErr c [(a, d.elem)] true).or (s.sramBad c [(data, d.elem)] false))
      (fin ((s.sramSeen c [(data, d.elem)]).vWr c a d.elem (s.sramRd c.die data d.elem)))
  | _ => .orErr ((s.vErr c [(a, d.elem)] true).or (s.sramBad c [(data, d.elem)] false))
      (fin ((s.sramSeen c [(data, d.elem)]).vWr c a d.elem (d.add (s.vRd c a d.elem) (s.sramRd c.die data d.elem))))

/-- DATA of a `vxget` receives the background. -/
def State.getBg (s : State) (c : Cmd) (d : VolDesc) : ElemOut :=
  let data := c.vdata + c.elem * d.elem
  .orErr (s.sramBad c [(data, d.elem)] true) (.done ((s.sramWr c.die data d.elem d.bg).setCmd { c with vals := [] }))

/-- A write element is dropped and counted in DROPS. -/
def State.volDrop (s : State) (c : Cmd) : ElemOut := .orErr (s.vErr c [(0x10, 8)] true) (.done ((s.volCount c 0x10).setCmd { c with vals := [] }))

/-- TRANSLATE from node `n` of level `l` on (R281): a tile is touched; at an empty pointer a read meets the background and a write pops a
child. -/
def State.accessFrom (s : State) (c : Cmd) (img x y z n l : Nat) : ElemOut :=
  let d := volDesc img
  match s.walk c d x y z n l with
  | .err e b => .err e b
  | .tile t _ => (s.lookFill c x y z (some t)).volTouch c d t x y z
  | .empty l a => if c.isGet then (s.lookFill c x y z none).getBg c d else s.volPop c img x y z l a

/-- A child is published: no die says any more that a coordinate of the volume is empty. Of a dynamic volume none did; a `vxinv` abandoned
with its context may have made it static meanwhile (R283, R285). -/
def State.forgetEmpty (s : State) (c : Cmd) : State :=
  s.modEng (fun g => { g with look := g.look.filter (fun e => e.tile.isSome || s.volKey e.ctx e.buf != s.volOf c) })

/-- The CAS that publishes a child (R281, R282); a child that comes second goes back, and RACES counts it. The walk goes on through the
child that is published. -/
def State.volPublish (s : State) (c : Cmd) (img x y z level at_ num : Nat) : ElemOut :=
  let d := volDesc img
  let node := decide (1 < level)
  .orErr (s.vErr c [(at_, 8)] true)
    (let q := s.vRd c at_ 8
     if q = 0 then ((s.vWr c at_ 8 (2 ^ 63 + b2n (!node) * 2 ^ 62 + num)).forgetEmpty c).accessFrom c img x y z num (level - 1)
     else .orErr ((s.listErr c d node true).or (s.vErr c [(0x18, 8)] true))
       (if d.badPtr level q then .err ⟨4, at_, false, none⟩ c.vbuf
        else ((s.volPush c d node num).volCount c 0x18).accessFrom c img x y z (bitsAt q 0 32) (level - 1)))

/-- A step of an element of `vxget`, `vxput` or `vxadd`: `vals` is empty before it begins, one number while it waits to walk again after
an allocation failure, seven while a child waits to be published. -/
def State.accessElem (s : State) (c : Cmd) : ElemOut :=
  match c.vals with
  | [img, x, y, z, level, at_, num] => s.volPublish c img x y z level at_ num
  | _ =>
    let img := s.devRd (s.vdescAt c) 128
    let d := volDesc img
    let list := (c.vlist + 12 * c.elem, 12)
    .orErr (s.sramBad c [list] false)
      (let s := s.sramSeen c [list]
       match s.coord c d c.elem with
       | none => if c.isGet then s.getBg c d else s.volDrop c
       | some (x, y, z) =>
         if !c.isGet && d.mode == 0 && c.vals.isEmpty then s.volDrop c
         else match s.lookUp c x y z with
           | some (some t) => s.volTouch c d t x y z
           | some none => if c.isGet then s.getBg c d else s.accessFrom c img x y z d.root 5
           | none => s.accessFrom c img x y z d.root 5)

/-! ## Unlinking, freeing, pools (R284, R286, R287) -/

/-- An unlink entry of `vxinv`. -/
def State.unlinkElem (s : State) (c : Cmd) : ElemOut :=
  let d := s.vdesc c
  let list := (c.vlist + 12 * c.elem, 12)
  let out := c.vdata + 4 * c.elem
  .orErr ((s.sramBad c [list] false).or (s.sramBad c [(out, 4)] true))
    (let s := s.sramSeen c [list]
     match s.coord c d c.elem with
     | none => .done (s.sramWr c.die out 4 0xFFFFFFFF)
     | some (x, y, z) =>
       match s.walk c d x y z d.root 5 with
       | .err e b => .err e b
       | .empty _ _ => .done (s.sramWr c.die out 4 0xFFFFFFFF)
       | .tile t a => .orErr (s.vErr c [(a, 8)] true) (.done ((s.vWr c a 8 0).sramWr c.die out 4 t)))

/-- An entry of `vxtile`. -/
def State.freeElem (s : State) (c : Cmd) : ElemOut :=
  let d := s.vdesc c
  let list := (c.vlist + 4 * c.elem, 4)
  .orErr (s.sramBad c [list] false)
    (let s := s.sramSeen c [list]
     let t := s.word c.die list.1
     if d.ntile ≤ t then .done s else .orErr (s.listErr c d false true) (.done (s.volPush c d false t)))

/-- A number pushed by `vxpool` ADDT or ADDN, from the highest down. -/
def State.poolElem (s : State) (c : Cmd) (node : Bool) : ElemOut :=
  let d := s.vdesc c
  .orErr (s.listErr c d node true) (.done (s.volPush c d node (c.vlist + c.vdata - 1 - c.elem)))

/-- `vxpool` INIT: descriptor, control block and root node; `vals` holds the image as accepted. -/
def State.initElem (s : State) (c : Cmd) : ElemOut :=
  let img := c.vals.headD 0
  let d := volDesc img
  let root := d.nodeoff + 4096 * d.root
  .orErr (s.vErr c [(0, 64), (root, 4096)] true)
    (.done (((s.devWr (s.vdescAt c) 128 img).vWr c 0 64 0).vWr c root 4096 0))

/-- What an element of a class-6 command does once its descriptor has been read. -/
def State.volAct (s : State) (c : Cmd) : ElemOut :=
  match c.op with
  | .vxget _ | .vxput _ | .vxadd _ => s.accessElem c
  | .vxinv _ => s.unlinkElem c
  | .vxtile _ => s.freeElem c
  | .vxpoolInit _ => s.initElem c
  | .vxpoolAddt _ => s.poolElem c false
  | _ => s.poolElem c true

/-- An element of a class-6 command: it reads its descriptor first (R355). -/
def State.volElem (s : State) (c : Cmd) : ElemOut := .orErr (s.descErr c) ((s.descSee c).volAct c)

/-! ## Shoot-downs (R284) -/

/-- The command ends with a shoot-down. -/
def Cmd.shoots (c : Cmd) : Bool := match c.op with | .vxinv _ | .vxpoolInit _ => true | _ => false

/-- The command applies MODE. -/
def Cmd.setsMode (c : Cmd) : Bool := match c.op with | .vxinv _ => c.fld 0 13 1 == 1 | _ => false

/-- The failing check of a change of MODE: of the descriptor, and of the owner (R191 check 2, R323). -/
def State.modeErr (s : State) (c : Cmd) : Option (PortErr × Nat) :=
  if !c.setsMode then none
  else (s.descErr c).or (if s.ownerPass c.die c.ctx c.vbuf then none else some (⟨13, 0, false, none⟩, c.vbuf))

/-- A command whose elements are done goes on to its shoot-down, if it has one: `vxinv` applies MODE first. -/
def State.volFinish (s : State) (c : Cmd) : State :=
  if c.shoots && c.st == .done && c.status == 0 then
    match s.modeErr c with
    | some (e, k) => s.cmdFault c e k
    | none =>
      (if c.setsMode then (s.descSee c).devWr (s.vdescAt c + 6) 1 (c.fld 0 14 1) else s).setCmd { c with st := .shooting, acks := [] }
  else s

/-- An element of a class-6 command of the volume has begun its translation on a die, a suspended one among them (R284); not one that walks
again only after a `vxpool` of its task's handler, `x` being that one (log entry 67). -/
def State.volBusy (s : State) (x : Cmd) (die : Nat) : Bool :=
  let v := x.vol
  s.eng.cmds.any (fun c => !(x.isPool && x.handler && x.task == c.task && c.st == .allocWait) && c.die == die && c.cls == 6 && c.isAccess && !c.vals.isEmpty && s.volOf c == v)

/-- INIT has completed for a volume. -/
def State.markInit (s : State) (v : Nat × Nat) : State := s.modCtx v.1 (fun x => { x with volInit := finsert x.volInit v.2 1 })

/-- SHOOTDOWN_ACK (R284): the die drops its entries of the volume and acknowledges; the last of the 24 completes the command. An INIT counts
unless its buffer has been replaced since (R275). -/
def execShootdownAck (die cmd : Nat) (s : State) : Res :=
  match s.cmd? cmd with
  | none => .next s
  | some c =>
    let v := c.vol
    if c.st == .shooting && decide (die < 24) && !c.acks.contains die && !s.volBusy c die then
      let s1 := s.modEng (fun g => { g with look := g.look.filter (fun e => e.die != die || s.volKey e.ctx e.buf != v) })
      let acks := die :: c.acks
      if acks.length < 24 then .next (s1.setCmd { c with acks := acks })
      else
        let s2 := s1.setCmd { c with acks := [], st := .done }
        .next (match c.op with | .vxpoolInit _ => if c.vals.isEmpty then s2 else s2.markInit v | _ => s2)
    else .next s

/-! ## Allocation failures (R288, R289) -/

/-- A suspended command goes on: its trap has been taken and left, and every `vxpool` of the handler has completed: it has left the
engine (R289). -/
def State.allocOver (s : State) (c : Cmd) : Bool :=
  match s.taskOf c.task with
  | none => true
  | some t => !t.sys.tm && !t.allocs.any (fun a => a.cmd == some c.id) &&
      !s.eng.cmds.any (fun d => d.task == c.task && d.isPool && d.handler)

/-- Take the trap of a held failure (R338); where that ends the context, the record names the instance and its buffer (R346). -/
def State.takeAlloc (s : State) (a : AllocTrap) : State :=
  let t := s.t
  if t.prog.hdr.trapv then s.takeTrap 0xA8 true a.tval 0 t.ctl.pc
  else s.endByFault t.id.ctx { t.faultRec (0xA8 + 2 ^ 9) a.tval.toNat t.ctl.pc 0 with
    die := t.dieAt a.pos, arr := t.id.head + a.pos, pos := a.pos, buf := a.buf, elem := a.tval.toNat % 2 ^ 24 }

/-- ALLOC_TRAP_TAKE (R288): the head takes the trap of a held allocation failure, lowest position first, before the checks of its next
issue, outside trap mode (R338). Results due at that bundle have landed (R174, R175). -/
def execAllocTrapTake (head : Nat) (s : State) : Res :=
  match s.taskAt head with
  | none => .next s
  | some t =>
    match firstAlloc t.allocs with
    | none => .next s
    | some a =>
      if t.sys.tm || t.ctl.ending || (s.ctx t.id.ctx).ffault.isSome || t.ctl.halted || s.part.stopped || t.loadDue then .next s
      else
        let seen := s.seeLand t
        let t1 := { t.land with allocs := t.allocs.erase a, ctl := { t.ctl with waiting := .none, yieldable := false, early := none } }
        .next (if seen.2 then { (seen.1.leaveLists t).onTask t1 (fun s => s.takeAlloc a) with t := default } else seen.1)

/-! ## Issue -/

/-- Reserved bits of the element commands. -/
def vxReserved (p : List DWord) : Bool := extra p 0 (ones 0 13 + ones 16 48)

/-- `vxget` (R279). -/
def execVxget (f : FmtE) (s : State) : Res := engineOp s (.vxget f) f 0x60 2 vxReserved []
/-- `vxput` (R279). -/
def execVxput (f : FmtE) (s : State) : Res := engineOp s (.vxput f) f 0x61 2 vxReserved []
/-- `vxadd` (R280). -/
def execVxadd (f : FmtE) (s : State) : Res := engineOp s (.vxadd f) f 0x62 2 vxReserved []
/-- `vxinv` (R284). -/
def execVxinv (f : FmtE) (s : State) : Res :=
  engineOp s (.vxinv f) f 0x63 2 (fun p => extra p 0 (ones 0 12 + ones 13 2 + ones 16 24) ||
    (field (p.getD 0 0) 13 1 == 0 && field (p.getD 0 0) 14 1 != 0)) []
/-- `vxtile` (R286). -/
def execVxtile (f : FmtE) (s : State) : Res :=
  engineOp s (.vxtile f) f 0x64 2 (fun p => extra p 0 (ones 0 12 + ones 16 24) || extra p 1 (ones 32 32)) []
/-- `vxpool` INIT (R287): FIRST is zero. A pack whose OP is 3 comes here too and is rejected at acceptance. -/
def execVxpoolInit (f : FmtE) (s : State) : Res :=
  engineOp s (.vxpoolInit f) f 0x65 2 (fun p => extra p 0 (ones 0 14) ||
    (field (p.getD 0 0) 12 2 == 0 && field (p.getD 1 0) 32 32 != 0)) []
/-- `vxpool` ADDT (R287). -/
def execVxpoolAddt (f : FmtE) (s : State) : Res := engineOp s (.vxpoolAddt f) f 0x65 2 (fun p => extra p 0 (ones 0 14)) []
/-- `vxpool` ADDN (R287). -/
def execVxpoolAddn (f : FmtE) (s : State) : Res := engineOp s (.vxpoolAddn f) f 0x65 2 (fun p => extra p 0 (ones 0 14)) []

end Sys2Proof.Machine
end

