-- ==== Sys2Proof/Machine/EngineMove.lean ====
section
/-! DEFINITION. Sys2Proof/Machine/EngineMove.lean: the steps of the engines that all classes share: start and acceptance (R226,
R227), one element (R231), completion (R228, R229). -/
namespace Sys2Proof.Machine

/-- The acceptance checks of a command. -/
def State.acceptOf (s : State) (c : Cmd) : Accept :=
  match c.cls with
  | 1 => s.copyAccept c
  | 2 => s.imageAccept c
  | 3 => s.collAccept c
  | 4 => s.hamperAccept c
  | 5 => s.lookupAccept c
  | _ => s.volAccept c

/-- An accepted command begins: its elements, and what its class does at once. -/
def State.beginCmd (s : State) (c : Cmd) : State :=
  let c := { c with st := if c.total ≤ c.elem then .done else .running }
  let s := s.setCmd c
  match c.op with
  | .nmopt _ => s.optStart c
  | .nmfence _ => s.setCmd { c with st := if s.fenceMet c then .done else .running }
  | .pkmrg _ =>
    if c.total = 0 then
      (match s.sramBad c [(c.fld 3 32 32, 4)] true with | some (e, k) => s.cmdFault c e k | none => s.mrgCountOut c 0)
    else s
  | .rsc _ | .agt _ | .ard _ | .bcs _ =>
    if c.level = 3 ∧ !s.sysLevelOk c.ctx then s.endCmd c 8 else s.joinColl c
  | .vxpoolInit _ =>
    match s.sramBad c [(c.vdata, 128)] false with
    | some (e, k) => s.cmdFault c e k
    | none => (s.sramSeen c [(c.vdata, 128)]).setCmd { c with vals := [s.sramRd c.die c.vdata 128] }
  | .vxinv _ => s.volFinish c
  | _ => s

/-- A command starts: cancelled, rejected, or begun (R227). Entries below its START count as performed in each case (R277).
A command of class 6 reads its volume's descriptor first (R355). -/
def State.startCmd (s : State) (c : Cmd) : State :=
  let c := { c with elem := c.startElem, vol := if c.cls = 6 then s.volOf c else c.vol }
  if s.cancelled c then s.endCmd c 2
  else
    match s.descErr c with
    | some (e, k) => s.cmdFault c e k
    | none =>
      let s := s.descSee c
      let a := s.acceptOf c
      if a.status != 0 then s.endCmd c a.status
      else s.beginCmd { c with total := a.total }

/-- The sequencers with commands queued at a head: the task that runs there, and tasks that have ended. -/
def State.queueOwners (s : State) (head : Nat) : List Nat :=
  ((s.eng.cmds.filter (fun c => c.head == head && c.st == .queued &&
    (match s.taskOf c.task with | some t => t.ctl.running | none => true))).map (·.task)).eraseDups

/-- ENGINE_START (R226): the engine takes the command of a queue whose producers have completed and which its class orders after
nothing outstanding (R207). -/
def execEngineStart (head cls die : Nat) (s : State) : Res :=
  match (s.queueOwners head).findSome? (fun u => s.nextStart u cls die) with
  | none => .next s
  | some c =>
    if !s.producersDone c || (s.ctx c.ctx).ffault.isSome || s.part.stopped then .next s
    else if cls = 0 then
      match s.taskOf c.task with
      | some t => .next (s.classZero c t (fun f s => match s.taskOf c.task with | some t => s.putTask (f t) | none => s))
      | none => .next s
    else .next (if s.orderedNow c then s.startCmd c else s)

/-- The next element of a running command. -/
def State.elemOut (s : State) (c : Cmd) : ElemOut :=
  match c.op with
  | .idec _ => s.imageRead c
  | .rsc _ | .agt _ | .ard _ | .bcs _ => s.collWrite c
  | .nmadd _ => s.addElem c
  | .nmamo _ => s.amoElem c
  | .nmgs _ => s.gsElem c
  | .nmdot _ => s.dotElem c
  | .nmopt _ => s.optElem c
  | .nmfence _ => s.fenceElem c
  | .pksel _ => s.selElem c
  | .pkfwd _ => s.fwdElem c
  | .pkbwd _ => s.bwdElem c
  | .pkmrg _ => s.mrgElem c
  | _ => if c.cls = 1 then s.copyElem c else s.volElem c

/-- What an element leads to: done, a wait, a page skipped under `pf` (R231), a fault. -/
def State.elemEnd (s : State) (c : Cmd) (o : ElemOut) : State :=
  match o with
  | .wait s => s
  | .done s' =>
    let s := s'.elemDone ((s'.cmd? c.id).getD c)
    if c.cls = 6 then s.volFinish ((s.cmd? c.id).getD c) else s
  | .err e k =>
    if c.pf && e.kind == 5 && !e.sys then
      let r := (s.holdEntry c.die c.ctx k).wsFlush c
      r.1.elemDone { r.2 with dropped := c.dropped + 1, status := 1 }
    else s.cmdFault c e k

/-- ENGINE_ELEMENT_PERFORM (R231). A volume command that waits for its trap goes on once that is over (R289). -/
def execEngineElementPerform (cmd : Nat) (s : State) : Res :=
  match s.cmd? cmd with
  | none => .next s
  | some c =>
    if s.part.stopped || (s.ctx c.ctx).ffault.isSome then .next s
    else if c.st == .running then .next (s.elemEnd c (s.elemOut c))
    else if c.st == .allocWait && s.allocOver c then
      let c := { c with st := .running }
      let s := s.setCmd c
      .next (s.elemEnd c (s.elemOut c))
    else .next s

/-- ENGINE_COMPLETE (R229): status into the token slot, the record into the event queue. -/
def execEngineComplete (cmd : Nat) (s : State) : Res :=
  match s.cmd? cmd with
  | none => .next s
  | some c => .next (if c.st == .done then s.finishCmd c else s)

end Sys2Proof.Machine
end

