-- ==== Sys2Proof/Machine/Migrate.lean ====
section
/-! DEFINITION. Sys2Proof/Machine/Migrate.lean: the copy passes of a page migration (R332, R333). -/
namespace Sys2Proof.Machine

/-- Copy `n` bytes of device memory from `a` to `b`, sidebands and poison with them; both start bursts, or share one. A correctable error it
reads is corrected, an uncorrectable one poisoned, and both are counted (R354 to R356). -/
def State.copyDev (s : State) (a b n : Nat) : State :=
  if a = b then s
  else
    let cells := s.mem.hbm.filter (fun c => decide (a ≤ c.1 ∧ c.1 < a + n))
    let inside (k : Nat) : Bool := decide (a ≤ 64 * k ∧ 64 * k < a + n)
    let moved (k : Nat) : Nat := (64 * k - a + b) / 64
    let s := (s.mem.err.filter (fun e => inside e.1)).foldl (fun s e => s.burstTouch e.1) s
    let lost := (s.mem.poison.filter (fun e => inside e.1)).map (·.1)
    let words := s.mem.sb.filter (fun e => inside e.1)
    let s := s.clearDev b n
    s.modMem (fun m => { m with
      hbm := cells.foldl (fun h c => wrByte h (c.1 - a + b) c.2) m.hbm,
      sb := words.foldl (fun f e => finsert f (moved e.1) e.2) m.sb,
      poison := lost.foldl (fun f k => finsert f (moved k) 1) m.poison })

/-- Lines of 64 bytes of a page. -/
def BufEntry.lines (e : BufEntry) : Nat := e.page / 64

/-- Copy line `x` of a migrating page from the old frame to the new one, as it stands now. -/
def State.copyLine (s : State) (ctx : Nat) (g : Migration) (x : Nat) : State :=
  let e := s.bufEntry ctx g.buf
  let pte := s.freshPte e g.page
  let off := g.page * e.page + 64 * x
  match e.locate 0 pte off, e.locate 0 (pte - bitsAt pte 0 48 + g.nframe) off with
  | .dev a, .dev b => s.copyDev a b 64
  | _, _ => s

/-- Copies the passes make in all: every line in every pass. A line that is not dirty stands in the new frame already, so that copying it
again changes nothing: the sets `copied` and `dirty` of R332 need no state of their own. -/
def State.migCopies (s : State) (ctx : Nat) (g : Migration) : Nat := g.passes * (s.bufEntry ctx g.buf).lines

/-- The copy engine goes on with the migration at place `i` of a context by some number of lines, in ascending order, pass by pass. -/
def State.migrateOne (s : State) (ctx i : Nat) : State :=
  match (s.ctx ctx).migs[i]? with
  | none => s
  | some g =>
    let n := min (Config.freeLines s.free (ctx + 64 * i)) (s.migCopies ctx g - g.copies)
    let s := (List.range n).foldl (fun s i => s.copyLine ctx g ((g.copies + i) % (s.bufEntry ctx g.buf).lines)) s
    if n = 0 then s else s.modCtx ctx (fun c => { c with migs := c.migs.set i { g with copies := g.copies + n } })

/-- The copy engine goes on with every migration of a context. -/
def State.migrate (s : State) (ctx : Nat) : State := (List.range (s.ctx ctx).migs.length).foldl (fun s i => s.migrateOne ctx i) s

end Sys2Proof.Machine
end

