-- ==== Sys2Proof/Machine/Recovery.lean ====
section
/-! DEFINITION. Sys2Proof/Machine/Recovery.lean: who may write a context block and what is logged (R317, R366); the end of a context
by a fault (R344, R345); scheduling events, pre-emption and resumption (R298, R300, R311, R347, R352); the driver's answer to
a replayable fault (R342) and the debugger (R353). -/
namespace Sys2Proof.Machine

/-! ## Who may write (R317, R366, R368) -/

/-- The write comes from the owner host through PF 0. -/
def State.isOwner (s : State) (r : Req) : Bool := r.fn == 0 && s.mod.ownerValid && r.rid == s.mod.owner

/-- Count an ignored write in the error log of a function: how many, the offset of the last, and the function it came
through (R362). -/
def State.logIgnored (s : State) (fn from_ off : Nat) : State :=
  s.modFn fn (fun b => { b with errlog := (b.errlog + 1) % 2 ^ 32 + off % 2 ^ 24 * 2 ^ 32 + from_ % 2 ^ 5 * 2 ^ 56 })

/-- A BAR0 access starts the exit from P1 or P2 (R374). -/
def State.wake (s : State) : State := if s.mod.pstate = 1 ∨ s.mod.pstate = 2 then { s with mod := { s.mod with waking := true } } else s

/-- BAR0 offset of the block of a context (R361). -/
def ctxOffset (ctx : Nat) : Nat := 0x100000 + 0x10000 * ctx

/-- A write to the block of a context: performed for the owner and for the context's function, otherwise logged with that function
(R366). A block that does not exist ignores it (R360), and a module that is off has no registers (R374); in P1 and P2 the write
starts the exit. -/
def State.ctxWrite (s : State) (r : Req) (ctx off : Nat) (s' : State) : State :=
  if 64 ≤ ctx ∨ 32 ≤ r.fn ∨ s.mod.pstate = 3 then s
  else if s.isOwner r || (s.ctx ctx).fn == r.fn then s'.wake
  else (s.logIgnored (s.ctx ctx).fn r.fn (ctxOffset ctx + off)).wake

/-! ## The end of a context by a fault (R344, R345) -/

/-- CONTEXT_END_FAULT: the record goes to the save area and the function's fault queue, and the context ends with CTXEND. -/
def execContextEndFault (ctx : Nat) (s : State) : Res :=
  match (s.ctx ctx).ffault with
  | none => .next s
  | some r => .next (((s.devWr ((s.ctx ctx).savebase + 0x300) 32 (r.bytes ctx)).report ctx r).endCtx ctx 2)

/-! ## Scheduling events (R298, R300, R311) -/

/-- TEMP: the hottest junction, which throttling keeps below 115 °C and otherwise is below 105 °C (R367, R375; log entry 42). -/
def State.heated (s : State) : State :=
  if s.part.stopped then s
  else { s with mod := { s.mod with temp := min (if s.part.throttle then 114 else 104) (Config.freeTemp s.free) } }

/-- SCHEDULE: the module's clock moves on, the copy engine goes on with page migrations (R332), and Rambler schedules (R298), unless the module has stopped (R359) or waits for the exit from
P1 or P2 (R374). -/
def execSchedule (s : State) : Res :=
  let s1 := (s.modRam (fun m => { m with tick := m.tick + 1 })).heated
  event s (s.mod.pstate != 3) (if s.part.stopped || s.mod.pstate != 0 then s1 else ((s1.ctxs.map (·.1)).foldl State.migrate s1).scheduleNow)

/-- An array of a task is reserved for a candidate other than itself (R301). -/
def State.inReservation (s : State) (t : Task) : Bool :=
  s.ram.resv.any (fun r => r.cand != (0, t.id.uid) && decide (r.first < t.id.head + t.len ∧ t.id.head < r.first + r.len))

/-- TIME_SLICE_EXPIRE: TSLICE has passed; a task in a reserved window is pre-empted (R300, R301). -/
def execTimeSliceExpire (head : Nat) (s : State) : Res :=
  match s.taskAt head with
  | none => .next s
  | some t => event s (decide (t.ctl.sliceAt + s.mod.tslice ≤ s.ram.tick))
      (s.putTask { t with ctl := { t.ctl with sliceDone := true, sliceAt := s.ram.tick, stopReq := t.ctl.stopReq || s.inReservation t } })

/-- BLOCKING_QUANTUM_EXPIRE: BQUANT has passed at one wait, which goes on (R311). -/
def execBlockingQuantumExpire (head : Nat) (s : State) : Res :=
  match s.taskAt head with
  | none => .next s
  | some t => event s (t.ctl.waiting != .none && s.stillWaits t && decide (t.ctl.waitFrom + s.mod.bquant ≤ s.ram.tick))
      (s.putTask { t with ctl := { t.ctl with yieldable := true } })

/-! ## Pre-emption and resumption (R347, R352) -/

/-- The wavefront has drained: cells, flags, loads, stores and ring advances of every committed bundle; and the tile busy bits have
cleared (R131, R347). -/
def Task.drained (t : Task) : Bool :=
  t.flights.isEmpty && t.allPerformed && t.pubs.isEmpty && t.busy.all (fun e => decide (e.2.1 ≤ t.ctl.cyc))

/-- A task pre-empted: it leaves its wait list and its arrays; busy bits and readiness have passed. -/
def Task.preempted (t : Task) (save : Nat) : Task :=
  { t with busy := [], ready := [],
           ctl := { t.ctl with bound := false, running := false, stopReq := false, waiting := .none, yieldable := false,
                               sliceDone := false, aggAt := 0, early := none, imgKey := save } }

/-- PREEMPT: a task asked to stop has drained, and its image is written (R347). A save that reads an uncorrectable error ends the
context (R352). -/
def execPreempt (head : Nat) (s : State) : Res :=
  match s.taskAt head with
  | none => .next s
  | some t => event s (t.ctl.stopReq && t.drained && !t.ctl.ending && (s.ctx t.id.ctx).ffault.isNone)
      (match s.saveFault t with
        | some r => s.endByFault t.id.ctx r
        | none => (((s.leaveLists t).modMem (fun m => { m with fixed := t.errDies.foldl (fun f d => fmod f 0 d (· + 1)) m.fixed })).saveImage
            t).putTask (t.cleaned.preempted s.free))

/-- RESUME: a task whose arrays have been given back, and left by the tasks that stood there, goes on as its image says; a bad image ends
the context with 0xBB, its error counted (R352, R356). -/
def execResume (task : Nat) (s : State) : Res :=
  match fget? s.tasks task with
  | none => .next s
  | some t =>
    let u := s.readImage t
    let s1 := s.rangeTouch t.ctl.img t.prog.hdr.imageSize
    event s (t.ctl.bound && !t.ctl.running && !t.ctl.placed && !t.ctl.halted && (s.ctx t.id.ctx).ffault.isNone && s.windowClear t)
      (match s.imageBad? t with
        | some a => s1.endByFault t.id.ctx (s.stateFault t 11 a)
        | none => s1.putTask { u with ctl := { u.ctl with running := true, sliceAt := s.ram.tick, now := s.cycle, img := t.ctl.imgBound } })

/-! ## Answers to a replayable fault (R342, FRES) -/

/-- The faulted commands FRES names: those of the task at a head with a token, or, with token 63, those without one. -/
def fresNames (ctx val : Nat) (c : Cmd) : Bool := c.ctx == ctx && c.head == bitsAt val 0 6 && c.slot == bitsAt val 6 6

/-- The task at the head FRES names. -/
def fresTask (ctx val : Nat) (t : Task) : Bool := t.id.ctx == ctx && t.id.head == bitsAt val 0 6

/-- FRES names a fault that waits for the driver: a command, held additions, or a call or return at its overflow frame (R168). -/
def State.fresHolds (s : State) (ctx val : Nat) : Bool :=
  s.eng.cmds.any (fun c => fresNames ctx val c && c.st == .faulted) ||
  (bitsAt val 6 6 == 63 && (s.eng.adds.any (fun a => a.ctx == ctx && a.head == bitsAt val 0 6 && a.held) ||
    s.tasks.any (fun e => fresTask ctx val e.2 && e.2.ctl.frameFault)))

/-- What FRES names goes on at the element, addition or frame that faulted. -/
def State.fresResume (s : State) (ctx val : Nat) : State :=
  let s1 := s.modEng (fun e => { e with cmds := e.cmds.map (fun c =>
    if fresNames ctx val c && c.st == .faulted then { c with st := .running } else c) })
  if bitsAt val 6 6 = 63 then
    { s1.modEng (fun e => { e with adds := e.adds.map (fun a =>
        if a.ctx == ctx && a.head == bitsAt val 0 6 then { a with held := false } else a) }) with
      tasks := s1.tasks.map (fun e => if fresTask ctx val e.2 then (e.1, { e.2 with ctl := { e.2.ctl with frameFault := false } }) else e) }
  else s1

/-- FAULT_RESUME (R342): bit 63 is 0. -/
def execFaultResume (r : Req) (ctx val : Nat) (s : State) : Res :=
  .next (s.ctxWrite r ctx 0xA0 (if bitAt val 63 then s else s.fresResume ctx val))

/-- FAULT_END_CONTEXT (R342): bit 63 is 1, and the driver ends the context of a fault it will not resolve. -/
def execFaultEndContext (r : Req) (ctx val : Nat) (s : State) : Res :=
  .next (s.ctxWrite r ctx 0xA0 (if bitAt val 63 && s.fresHolds ctx val then s.endCtx ctx 2 else s))

/-! ## The debugger (R353, R366, R369) -/

/-- DEBUG_ATTACH: ATTACH, which needs the DEBUG feature. -/
def execDebugAttach (r : Req) (ctx : Nat) (on : Bool) (s : State) : Res :=
  .next (s.ctxWrite r ctx 0xC0 (if s.feat 4 then s.modCtx ctx (fun c => { c with attach := on }) else s))

/-- A task halts at the bundle boundary it stands at: 0xBF in `$cause`, the next bundle in `$epc`. -/
def Task.halt (t : Task) : Task :=
  { t with sys := { t.sys with cause := 0xBF, epc := BitVec.ofNat 64 t.ctl.pc },
           ctl := { t.ctl with halted := true, stopReq := t.ctl.running } }

/-- DEBUG_STOP: STOP halts the task at a head array. -/
def execDebugStop (r : Req) (ctx head : Nat) (s : State) : Res :=
  .next (s.ctxWrite r ctx 0xC0
    (match s.taskAt head with
      | some t => if (s.ctx ctx).attach && t.id.ctx == ctx && !t.ctl.ending && !t.ctl.halted then s.putTask t.halt else s
      | none => s))

/-- DEBUG_RELEASE: the context's halted tasks may resume. -/
def execDebugRelease (r : Req) (ctx : Nat) (s : State) : Res :=
  .next (s.ctxWrite r ctx 0xC0
    { s with tasks := s.tasks.map (fun e => if e.2.id.ctx == ctx then (e.1, { e.2 with ctl := { e.2.ctl with halted := false } }) else e) })

end Sys2Proof.Machine
end

