-- ==== Sys2Proof/Machine/Host.lean ====
section
/-! DEFINITION. Sys2Proof/Machine/Host.lean: what drivers do through the register windows (R360 to R367): queues (R292, R293), context
descriptors and the lives of contexts (R316, R320, R365, R366), invalidation and migration (R329 to R333), partitions and private
extents (R319, R364), driver copies (R363), logs and plain registers (R362, R367); and the patrol scrubber (R356). -/
namespace Sys2Proof.Machine

/-- Four doublewords as one number. -/
def quadNat (d : Quad) : Nat := joinBits 64 [d.d0, d.d1, d.d2, d.d3]

/-! ## Queues (R292, R293) -/

/-- A value written to TAIL: accepted, or ignored with ERR (R293). -/
def Queue.writeTail (q : Queue) (tail : Word) : Queue :=
  let d := (tail - q.tail).toNat
  let e := (tail - q.cmpl).toNat
  if e ≤ 2 ^ q.log2n ∧ d ≤ e then { q with tail := tail, told := [] } else { q with err := true, told := [] }

/-- TAIL_WRITE (R293). -/
def execTailWrite (r : Req) (ctx queue tail : Nat) (s : State) : Res :=
  .next (s.ctxWrite r ctx (0x810 + 32 * queue) (s.modQueue ctx queue (fun q => q.writeTail (BitVec.ofNat 32 tail))))

/-- The limits of a queue descriptor. Reserved bits are ignored. -/
def queueLimits (queue : Nat) (d : Quad) : Bool :=
  decide (d.d0 % 256 = 0 ∧ bitsAt d.d1 16 8 ≤ 12 ∧ bitsAt d.d1 32 8 ≤ 23 ∧ bitsAt d.d1 40 8 = queue ∧ queue < 64)

/-- A descriptor written over queue `q`; HEADC, CMPL and the flags are the device's, and TAIL follows R293. -/
def Queue.describe (q : Queue) (d : Quad) : Queue :=
  { q with roff := d.d0, rbuf := bitsAt d.d1 0 16, log2n := bitsAt d.d1 16 8, prio := bitsAt d.d1 24 2, home := bitsAt d.d1 32 8 }.writeTail
    (BitVec.ofNat 32 d.d2)

/-- QDESC_WRITE (R292): the queue comes to exist, empty and not mapped, or is described anew. A queue whose home changes loses its slot.
Of a context that does not live the write is ignored (log entry 33). -/
def execQdescWrite (r : Req) (ctx queue : Nat) (d : Quad) (s : State) : Res :=
  let c := s.ctx ctx
  let s1 := match c.queue? queue with
    | some q => if q.mapped && q.home != bitsAt d.d1 32 8 then s.unmap ctx queue else s
    | none => s.modCtx ctx (fun c => { c with queues := finsert c.queues queue default })
  .next (s.ctxWrite r ctx (0x800 + 32 * queue)
    (if c.live && queueLimits queue d then s1.modQueue ctx queue (fun q => q.describe d) else s))

/-! ## Context descriptors and lives (R316, R320, R364 to R366) -/

/-- The descriptor of a context as 32 bytes (R316). -/
def Ctx.descriptor (c : Ctx) : Quad :=
  ⟨c.btbase, joinBits 8 [c.btcount % 256, c.btcount / 256, c.fn, c.pcap, c.maxarr, c.xflags, c.sdom % 256, c.sdom / 256],
   joinBits 8 [c.imode, c.idie, c.igran, 0] + c.shome * 2 ^ 32, c.savebase⟩

/-- The bytes a function may write of the descriptors of its own contexts (R366). -/
def descByteOwn (i : Nat) : Bool := decide (i ≤ 9) || decide (0x10 ≤ i ∧ i ≤ 0x12)

/-- The descriptor `old` with those bytes of `new` that are taken. -/
def mixDesc (takes : Nat → Bool) (old new : Nat) : Nat :=
  (List.range 32).foldl (fun a i => a + (if takes i then bitsAt new (8 * i) 8 else bitsAt old (8 * i) 8) * 2 ^ (8 * i)) 0

/-- The limits of a descriptor `v`; reserved fields are ignored. -/
def descLimits (v : Nat) : Bool :=
  decide (bitsAt v 0 64 % 4096 = 0 ∧ 1 ≤ bitsAt v 64 16 ∧ bitsAt v 64 16 ≤ 4096 ∧ 1 ≤ bitsAt v 96 8 ∧ bitsAt v 96 8 ≤ 48 ∧
    bitsAt v 128 8 ≤ 3 ∧ bitsAt v 136 8 ≤ 23 ∧ bitsAt v 144 8 ≤ 13 ∧ bitsAt v 192 64 % 4096 = 0)

/-- The buffer table and the save-area table lie in the private extent of the descriptor's function (R364). -/
def State.descPlaced (s : State) (v : Nat) : Bool :=
  let f := s.fnb (bitsAt v 80 5)
  decide (f.extBase ≤ bitsAt v 0 64 ∧ bitsAt v 0 64 + 256 * bitsAt v 64 16 ≤ f.extLim ∧
    f.extBase ≤ bitsAt v 192 64 ∧ bitsAt v 192 64 + 4096 ≤ f.extLim)

/-- A descriptor taken up by a context that does not live. -/
def Ctx.describe (c : Ctx) (v : Nat) : Ctx :=
  { c with btbase := bitsAt v 0 64, btcount := bitsAt v 64 16, fn := bitsAt v 80 5, pcap := bitsAt v 88 2, maxarr := bitsAt v 96 8,
           xflags := bitsAt v 104 3, sdom := bitsAt v 112 16, imode := bitsAt v 128 8, idie := bitsAt v 136 8, igran := bitsAt v 144 8,
           shome := bitsAt v 160 19, savebase := bitsAt v 192 64, btnext := none, btskip := 0, btdone := [] }

/-- CDESC_WRITE (R316, R364, R366). A byte written as it was counts as not written. A byte the writer may not write, and a table
outside the extent, are logged; a context that lives takes only its buffer table, and that later. -/
def execCdescWrite (r : Req) (ctx : Nat) (d : Quad) (s : State) : Res :=
  let c := s.ctx ctx
  let old := quadNat c.descriptor
  let may (i : Nat) : Bool := s.isOwner r || descByteOwn i
  let v := mixDesc (fun i => may i && (!c.live || decide (i ≤ 9))) old (quadNat d)
  let s1 := if mixDesc may old (quadNat d) != mixDesc (fun _ => true) old (quadNat d) then s.logIgnored c.fn r.fn (ctxOffset ctx) else s
  .next (s.ctxWrite r ctx 0
    (if !descLimits v then s1
     else if !s.descPlaced v then s1.logIgnored c.fn r.fn (ctxOffset ctx)
     else if c.live then s1.modCtx ctx (fun c => { c with btnext := some (bitsAt v 0 64, bitsAt v 64 16), btskip := c.inval.length, btdone := [] })
     else s1.modCtx ctx (fun c => c.describe v)))

/-- Zero a range of a die's shared SRAM, errors with it. -/
def State.clearSram (s : State) (die lo hi : Nat) : State :=
  if hi ≤ lo then s
  else s.modMem (fun m => { m with sram := wrZero m.sram (sramKey die lo) (sramKey die hi),
                                   sramErr := clearErr m.sramErr (sramKey die lo) (hi - lo) })

/-- Zero a range of a die's weight store. -/
def State.clearWs (s : State) (die lo hi : Nat) : State :=
  if hi ≤ lo then s
  else s.modMem (fun m => { m with ws := wrZero m.ws (wsKey die lo) (wsKey die hi), wsErr := clearErr m.wsErr (wsKey die lo) (hi - lo) })

/-- Zero a context's partitions before it sees them (R320). -/
def State.clearParts (s : State) (ctx : Nat) : State :=
  (List.range 24).foldl (fun s d =>
    let p := s.partOf ctx d
    (s.clearSram d p.ssbase p.sslim).clearWs d p.wsbase p.wslim) s

/-- CONTEXT_CREATE (R320, R365, R369): a context without queues, semaphores or groups; what an earlier life of it left in the
engines is gone. -/
def execContextCreate (r : Req) (ctx : Nat) (s : State) : Res :=
  let s1 := ((s.clearParts ctx).modEng (fun e => { e with adds := e.adds.filter (fun a => a.ctx != ctx),
                                                          look := e.look.filter (fun a => a.ctx != ctx) })).modCtx ctx (fun c =>
    { c with live := true, queues := [], sems := [], groups := [], bound := 0, volInit := [], ffault := none, migs := [] })
  .next (s.ctxWrite r ctx 0x20
    (if s.mod.featgo && s.mod.bootstat == 5 && !s.part.stopped && !(s.ctx ctx).live then s1 else s))

/-- CONTEXT_END (R320). -/
def execContextEnd (r : Req) (ctx : Nat) (s : State) : Res :=
  .next (s.ctxWrite r ctx 0x20 (if (s.ctx ctx).live then s.endCtx ctx 2 else s))

/-! ## Invalidation (R329, R330, R366) -/

/-- INVALIDATE: INVST is busy while a request waits. -/
def execInvalidate (r : Req) (ctx val : Nat) (s : State) : Res :=
  .next (s.ctxWrite r ctx 0x40 (s.modCtx ctx (fun c => { c with inval := c.inval ++ [val % 2 ^ 64] })))

/-- A translation an invalidation covers: of the buffer itself, or of an import of it (R323); an entry held alone is covered with every
page. -/
def State.invalHits (s : State) (ctx val : Nat) (t : TlbEntry) : Bool :=
  ((t.ctx == ctx && t.buf == bitsAt val 0 12) || t.ent.addr == s.entryAddr ctx (bitsAt val 0 12)) &&
  (bitsAt val 43 21 == 0 ||
    (if t.page = noPage then decide (bitsAt val 12 31 = 0 ∧ t.ent.size ≤ t.ent.page * bitsAt val 43 21)
     else decide (bitsAt val 12 31 ≤ t.page ∧ t.page < bitsAt val 12 31 + bitsAt val 43 21)))

/-- A context whose new buffer table waits for an invalidation of every buffer has had one more; one asked for before the table was
written does not count (R366). -/
def Ctx.invalidated (c : Ctx) (val : Nat) : Ctx :=
  match c.btnext with
  | none => c
  | some x =>
    if 0 < c.btskip then { c with btskip := c.btskip - 1 } else
    let d := if bitsAt val 43 21 = 0 then bitsAt val 0 12 :: c.btdone else c.btdone
    if (List.range c.btcount).all (d.contains ·) then { c with btbase := x.1, btcount := x.2, btnext := none, btdone := [] }
    else { c with btdone := d }

/-- INVALIDATION_COMPLETE: every die has dropped what the oldest request covers. -/
def execInvalidationComplete (ctx : Nat) (s : State) : Res :=
  match (s.ctx ctx).inval with
  | [] => .next s
  | v :: rest =>
    let s1 := (s.modEng (fun e => { e with tlb := e.tlb.filter (fun t => !s.invalHits ctx v t) })).modCtx ctx
      (fun c => { c.invalidated v with inval := rest })
    .next (if (s.ctx ctx).btnext.isSome then s.keepInits s1 else s1)

/-! ## Migration (R332, R333) -/

/-- Drop the translations of a page of a buffer. -/
def State.dropPage (s : State) (ctx buf page : Nat) : State :=
  s.modEng (fun e => { e with tlb := e.tlb.filter (fun t =>
    !(((t.ctx == ctx && t.buf == buf) || t.ent.addr == s.entryAddr ctx buf) && t.page == page)) })

/-- Change a page-table entry where it stands. -/
def State.modPte (s : State) (e : BufEntry) (page : Nat) (f : Nat → Nat) : State :=
  match s.pteAddr e page with
  | some a => s.devWr a 8 (f (s.devRd a 8))
  | none => s

/-- A migration that is refused (R318, R332). -/
def State.migRefused (s : State) (ctx : Nat) (d : Quad) : Bool :=
  let e := s.bufEntry ctx (d.d0 % 2 ^ 12)
  let x := s.freshPte e d.d1
  let passes := d.d3 % 2 ^ 62
  !s.feat 3 || !(s.ctx ctx).live || !e.valid || e.host || e.imp || e.remote || decide (e.size ≤ d.d1 * e.page) || !bitAt x 63 || bitAt x 60 ||
  !s.frameOk e x || !s.frameOk e d.d2 || decide (2 ^ 48 ≤ d.d2) || decide (passes < 1 ∨ 15 < passes)

/-- The bursts of the tables a migration of a page reads: buffer-table entry, directory entry, page-table entry. -/
def State.migTables (s : State) (ctx buf page : Nat) : List Nat := s.entryBursts ctx buf ++ s.walkBursts (s.bufEntry ctx buf) page

/-- The migration engine reads the tables of a page and goes on with `f`; an uncorrectable error in them ends the context, with source 11
(R354, R355). -/
def State.withTables (s : State) (ctx buf page : Nat) (f : State → State) : State :=
  match (s.migTables ctx buf page).findSome? (s.burstErr true) with
  | some e => (s.errSeen e).endByFault ctx { s.saveRec e.off with buf := buf }
  | none => f ((s.migTables ctx buf page).foldl State.burstTouch s)

/-- MIGRATION_START: GO starts the migration or refuses it. MIGST tells of the request made last (log entry 24). -/
def execMigrationStart (r : Req) (ctx : Nat) (d : Quad) (s : State) : Res :=
  let buf := d.d0 % 2 ^ 12
  let s1 := s.modCtx ctx (fun c => { c with migr := (buf, d.d1) })
  .next (s.ctxWrite r ctx 0x60
    (if !bitAt d.d3 63 then s1
     else if !s.feat 3 || !(s.ctx ctx).live then s1.modCtx ctx (fun c => { c with migst := 3 })
     else s1.withTables ctx buf d.d1 (fun s =>
       if s.migRefused ctx d then s.modCtx ctx (fun c => { c with migst := 3 })
       else ((s.modPte (s.bufEntry ctx buf) d.d1 (fun x => x + 2 ^ 60)).dropPage ctx buf d.d1).modCtx ctx
         (fun c => { c with migst := 1, migs := c.migs ++ [⟨buf, d.d1, d.d2, d.d3 % 2 ^ 62, 0⟩] }))))

/-- A migration leaves its context's list; MIGST becomes `st` where it is the one asked for last. -/
def Ctx.dropMig (c : Ctx) (g : Migration) (st : Nat) : Ctx :=
  { c with migs := c.migs.filter (fun h => h.buf != g.buf || h.page != g.page),
           migst := if c.migst = 1 ∧ c.migs.getLast? = some g then st else c.migst }

/-- The page of a migration is switched: every line written since its copy is copied again, and the entry names the new frame. -/
def State.switchPage (s : State) (ctx : Nat) (g : Migration) : State :=
  let e := s.bufEntry ctx g.buf
  let x := s.freshPte e g.page
  let q := e.share
  let s1 := e.stk.foldl (fun s k => s.copyDev (k * 2 ^ 36 + bitsAt x 0 48 * q) (k * 2 ^ 36 + g.nframe * q) q) s
  ((s1.modPte e g.page (fun x => x - 2 ^ 60 - bitsAt x 0 48 + g.nframe)).dropPage ctx g.buf g.page).modCtx ctx (·.dropMig g 2)

/-- The passes of a migration are made, and its entry is present and says so. -/
def State.migReady (s : State) (ctx : Nat) (g : Migration) : Bool :=
  let x := s.freshPte (s.bufEntry ctx g.buf) g.page
  bitAt x 63 && bitAt x 60 && decide (s.migCopies ctx g ≤ g.copies)

/-- MIGRATION_COMMIT of a migration whose passes are made. It is one step, so that no write arrives meanwhile: what is held performs after
it, at the new home (R332, R333). -/
def execMigrationCommit (ctx : Nat) (s : State) : Res :=
  let l := (s.ctx ctx).migs.filter (s.migReady ctx)
  match l[Config.freeMigration s.free % l.length]? with
  | none => .next s
  | some g => .next (s.withTables ctx g.buf g.page (fun s => s.switchPage ctx g))

/-- MIGRATION_ABORT: before the commit the migration of the page MIGR names ends: MG goes and the old frame stays. -/
def execMigrationAbort (r : Req) (ctx : Nat) (s : State) : Res :=
  .next (s.ctxWrite r ctx 0x60
    (match (s.ctx ctx).migs.find? (fun g => (g.buf, g.page) == (s.ctx ctx).migr) with
      | none => s
      | some g => s.withTables ctx g.buf g.page (fun s =>
        ((s.modPte (s.bufEntry ctx g.buf) g.page (fun x => if bitAt x 60 then x - 2 ^ 60 else x)).dropPage ctx g.buf g.page).modCtx ctx
          (·.dropMig g 0))))

/-! ## Partitions and private extents (R319, R320, R364) -/

/-- A partition entry keeps its limits and meets no other context's on the die (R319). -/
def State.partOk (s : State) (ctx die : Nat) (p : Part) : Bool :=
  decide (p.ssbase % 2 ^ 17 = 0 ∧ p.sslim % 2 ^ 17 = 0 ∧ p.sslim ≤ 2 ^ 27 ∧ p.wsbase % 2 ^ 25 = 0 ∧ p.wslim % 2 ^ 25 = 0 ∧
    p.wslim ≤ 2 ^ 31 ∧ p.ssbase ≤ p.sslim ∧ p.wsbase ≤ p.wslim) &&
  (List.range 64).all (fun c => c == ctx ||
    (let o := s.partOf c die
     decide ((p.ssbase = p.sslim ∨ o.ssbase = o.sslim ∨ p.sslim ≤ o.ssbase ∨ o.sslim ≤ p.ssbase) ∧
       (p.wsbase = p.wslim ∨ o.wsbase = o.wslim ∨ p.wslim ≤ o.wsbase ∨ o.wslim ≤ p.wsbase))))

/-- PARTITION_WRITE: only by the owner; bytes the partition gains are zeroed first. -/
def execPartitionWrite (r : Req) (ctx die d0 d1 : Nat) (s : State) : Res :=
  let p : Part := ⟨bitsAt d0 0 32, bitsAt d0 32 32, bitsAt d1 0 32, bitsAt d1 32 32⟩
  let o := s.partOf ctx die
  let s1 := ((s.clearSram die p.ssbase (min p.sslim (if o.ssbase = o.sslim then p.sslim else o.ssbase))).clearSram die
    (max p.ssbase o.sslim) p.sslim)
  let s2 := ((s1.clearWs die p.wsbase (min p.wslim (if o.wsbase = o.wslim then p.wslim else o.wsbase))).clearWs die
    (max p.wsbase o.wslim) p.wslim)
  .next (s.ctxWrite r ctx (0x1000 + 16 * die)
    (if 24 ≤ die then s
     else if !s.isOwner r then s.logIgnored (s.ctx ctx).fn r.fn (ctxOffset ctx + 0x1000 + 16 * die)
     else if s.partOk ctx die p then { s2 with parts := finsert s2.parts (ctx * 24 + die) p } else s))

/-- A write to the module block: through PF 0 only, by the owner, else logged with PF 0 (R361, R367, R368). -/
def State.modWrite (s : State) (r : Req) (off : Nat) (s' : State) : State :=
  if 32 ≤ r.fn ∨ s.mod.pstate = 3 then s
  else if r.fn ≠ 0 then s.wake
  else if s.isOwner r then s'.wake else (s.logIgnored 0 r.fn off).wake

/-- A write to the function block of the writer, if it has one and the module is not off. -/
def State.fnWrite (s : State) (r : Req) (s' : State) : State := if 32 ≤ r.fn ∨ s.mod.pstate = 3 then s else s'.wake

/-- A private extent keeps the conditions of R364. -/
def State.extentOk (s : State) (ext base limit : Nat) : Bool :=
  decide (ext < 32 ∧ base % 4096 = 0 ∧ limit % 4096 = 0 ∧ base ≤ limit ∧ limit ≤ 96 * 2 ^ 36 ∧
    (base = limit ∨ base / 2 ^ 36 = (limit - 1) / 2 ^ 36)) &&
  s.fns.all (fun x => x.1 == ext || decide (base = limit ∨ x.2.extBase = x.2.extLim ∨ limit ≤ x.2.extBase ∨ x.2.extLim ≤ base))

/-- Zero what lies in the first range and not in the second. -/
def State.clearGain (s : State) (lo hi olo ohi : Nat) : State :=
  if olo = ohi then s.clearDev lo (hi - lo)
  else (s.clearDev lo (min hi olo - lo)).clearDev (max lo ohi) (hi - max lo ohi)

/-- PRIVEXT_WRITE. -/
def execPrivextWrite (r : Req) (ext base limit : Nat) (s : State) : Res :=
  let f := s.fnb ext
  .next (s.modWrite r (0x1700 + 16 * ext)
    (if s.extentOk ext base limit then
      (s.clearGain base limit f.extBase f.extLim).modFn ext (fun b => { b with
        extBase := base, extLim := limit, ptNext := if limit = f.extLim then max base f.ptNext else limit })
     else s))

/-! ## Driver copies (R363) -/

/-- The number a driver copy translates under: it holds no translation. -/
def copyDie : Nat := 2 ^ 32

/-- DCCTL has reserved bits. -/
def dcReserved (ctl : Nat) : Bool := ctl &&& (0xF + 0x3F00 + 0xFFF0000) != ctl

/-- A write to DCCTL: ignored and logged while busy or with reserved bits, started by GO. -/
def State.dcStart (s : State) (r : Req) (ctl : Nat) : State :=
  let b := s.fnb r.fn
  s.fnWrite r
    (if dcReserved ctl || b.dcst % 4 == 1 then s.logIgnored r.fn r.fn 0x98
     else if !bitAt ctl 0 then s
     else s.modFn r.fn (fun b => { b with dcctl := ctl, dcst := 1, dcdone := 0, dcrun := [b.dcbus, b.dcdev, b.dclen] }))

/-- DRIVER_COPY_TO_DEVICE: DIR is 0. -/
def execDriverCopyToDevice (r : Req) (ctl : Nat) (s : State) : Res := .next (if bitAt ctl 1 then s else s.dcStart r ctl)

/-- DRIVER_COPY_TO_HOST: DIR is 1. -/
def execDriverCopyToHost (r : Req) (ctl : Nat) (s : State) : Res := .next (if bitAt ctl 1 then s.dcStart r ctl else s)

/-- A piece of a driver copy: offset or device address, and length. -/
structure DcPiece where
  fn : Nat
  ctx : Nat
  buf : Nat
  write : Bool
  ext : Bool
  sbd : Bool
  at_ : Nat
  len : Nat
  bus : Nat
  deriving DecidableEq, Repr, Inhabited

/-- The next piece of a function's copy: up to the next multiple of 64. -/
def FnBlock.piece (b : FnBlock) (fn : Nat) : DcPiece :=
  let at_ := b.dcrun.getD 1 0 + b.dcdone
  let left := b.dcrun.getD 2 0 - b.dcdone
  { fn := fn, ctx := bitsAt b.dcctl 8 6, buf := bitsAt b.dcctl 16 12, write := !bitAt b.dcctl 1, ext := bitAt b.dcctl 2,
    sbd := bitAt b.dcctl 3, at_ := at_, len := min left (64 - at_ % 64),
    bus := b.dcrun.getD 0 0 + (if bitAt b.dcctl 3 then b.dcdone / 64 * 68 else b.dcdone) }

/-- The error code of a piece in a buffer, 0 where it can be performed. -/
def State.dcBufErr (s : State) (p : DcPiece) (start len : Nat) : Nat :=
  let c := s.ctx p.ctx
  let e := s.bufEntry p.ctx p.buf
  let x := s.pte copyDie p.ctx p.buf (p.at_ / e.page)
  if !c.live || c.fn != p.fn then 1
  else if (s.entryBursts p.ctx p.buf).any s.mem.burstBad then 6
  else if !e.valid || e.imp || e.remote || e.host || (p.write && e.vol) then 2
  else if p.sbd && (!e.mxsb || start % 64 != 0 || len % 64 != 0) then 8
  else if e.size < p.at_ + p.len then 3
  else if (s.walkBursts e (p.at_ / e.page)).any s.mem.burstBad then 6
  else if !bitAt x.2 63 || (!bitAt x.2 61 && !s.frameOk x.1 x.2) || (p.write && (!bitAt x.2 62 || bitAt x.2 61)) then 4
  else if !(p.write && p.len == 64) && (match s.burstAt copyDie p.ctx p.buf (p.at_ / 64) with | some u => s.mem.burstBad u | none => false) then 6
  else 0

/-- The error code of a piece in the private extent. -/
def State.dcExtErr (s : State) (p : DcPiece) (start len : Nat) : Nat :=
  let f := s.fnb p.fn
  if p.sbd then 8
  else if start < f.extBase ∨ f.extLim < start + len then 5
  else if !(p.write && p.len == 64) && s.devBad p.at_ p.len then 6
  else 0

/-- Write a burst's sideband word. -/
def State.sbPut (s : State) (l : Loc) (v : Nat) : State :=
  match l with
  | .dev a => s.modMem (fun m => { m with sb := fset m.sb 0 (a / 64) (BitVec.ofNat 32 v) })
  | _ => s

/-- `n` bytes of a function's host memory from a bus address on, little-endian. -/
def hostRd (m : Mem) (fn a n : Nat) : Nat :=
  match n with
  | 0 => 0
  | k + 1 => (rdByte m (hostKey fn a)).toNat + 256 * hostRd m fn (a + 1) k

/-- Write them. -/
def hostWr (m : Mem) (fn a n v : Nat) : Mem :=
  match n with
  | 0 => m
  | k + 1 => hostWr (wrByte m (hostKey fn a) (BitVec.ofNat 8 v)) fn (a + 1) k (v / 256)

/-- Perform a piece. -/
def State.dcMove (s : State) (p : DcPiece) : State :=
  let host (off n : Nat) : Nat := hostRd s.mem.host p.fn (p.bus + off) n
  let put (s : State) (off n v : Nat) : State := s.modMem (fun m => { m with host := hostWr m.host p.fn (p.bus + off) n v })
  let l := s.byteLoc copyDie p.ctx p.buf p.at_
  if p.ext then
    if p.write then (if p.len = 64 then s.burstFresh (p.at_ / 64) else s.burstTouch (p.at_ / 64)).devWr p.at_ p.len (host 0 p.len)
    else put (s.burstTouch (p.at_ / 64)) 0 p.len (s.devRd p.at_ p.len)
  else if p.write then
    let s1 := (s.bufPut copyDie p.ctx p.buf p.at_ p.len (host 0 p.len) (!p.sbd)).modEng (fun g => { g with tlb := s.eng.tlb })
    if p.sbd then s1.sbPut l (host 64 4) else s1
  else
    let v := s.bufRd copyDie p.ctx p.buf p.at_ p.len
    let w := (s.sbRd l).toNat
    let s := put (match s.burstAt copyDie p.ctx p.buf (p.at_ / 64) with | some u => s.burstTouch u | none => s) 0 p.len v
    if p.sbd then put s 64 4 (if bitAt (s.pte copyDie p.ctx p.buf (p.at_ / (s.bufEntry p.ctx p.buf).page)).2 61 then 0 else w) else s

/-- A piece that met an uncorrectable burst: what it read is poisoned and counted (R355, R356). -/
def State.dcSee (s : State) (p : DcPiece) : State :=
  let e := s.bufEntry p.ctx p.buf
  (if p.ext then [p.at_ / 64]
   else s.entryBursts p.ctx p.buf ++ s.walkBursts e (p.at_ / e.page) ++
     (match s.burstAt copyDie p.ctx p.buf (p.at_ / 64) with | some u => [u] | none => [])).foldl State.burstTouch s

/-- DRIVER_COPY_COMPLETE: the next piece of a copy performs; with the last one DCST reads done, with one that fails, at the device or at
the host (log entry 30), it reads the error. -/
def execDriverCopyComplete (fn : Nat) (s : State) : Res :=
  let b := s.fnb fn
  let p := b.piece fn
  let start := b.dcrun.getD 1 0
  let len := b.dcrun.getD 2 0
  let err := if p.ext then s.dcExtErr p start len else s.dcBufErr p start len
  let err := if err = 0 ∧ Config.hostFails s.free = true then 7 else err
  event s (decide (fn < 32) && b.dcst % 4 == 1 && decide (s.mod.pstate < 2))
    (if err ≠ 0 then (if err = 6 then s.dcSee p else s).modFn fn (fun b => { b with dcst := 3 + err * 2 ^ 8 })
     else (if p.ext && p.write then s.keepInits (s.dcMove p) else s.dcMove p).modFn fn (fun b => { b with dcdone := b.dcdone + p.len, dcst := if len ≤ b.dcdone + p.len then 2 else 1 }))

/-! ## Logs and plain registers (R362, R367) -/

/-- CTXMASK of a function: bit c is set when context c has its FN; a context whose descriptor nobody has written has none (R362). -/
def State.ctxMask (s : State) (fn : Nat) : DWord :=
  BitVec.ofNat 64 ((s.ctxs.filter (fun e => decide (e.1 < 64) && e.2.fn == fn)).foldl (fun a e => a ||| 2 ^ e.1) 0)

/-- FQDROP_CLEAR. -/
def execFqdropClear (r : Req) (s : State) : Res :=
  .next (s.fnWrite r (s.modFn r.fn (fun b => { b with fqdrop := 0 })))

/-- ERRLOG_CLEAR. -/
def execErrlogClear (r : Req) (s : State) : Res :=
  .next (s.fnWrite r (s.modFn r.fn (fun b => { b with errlog := 0 })))

/-- A register of the function block; a value outside its range is ignored. -/
def FnBlock.write (b : FnBlock) (off v : Nat) : FnBlock :=
  match off with
  | 0x000 => if v % 4096 = 0 then { b with fqbase := v } else b
  | 0x008 => if 4 ≤ v ∧ v ≤ 16 then { b with fqlog2 := v } else b
  | 0x010 => { b with fqhead := v % 2 ^ 32 }
  | 0x080 => { b with dcbus := v }
  | 0x088 => { b with dcdev := v }
  | 0x090 => if 1 ≤ v ∧ v < 2 ^ 32 then { b with dclen := v } else b
  | _ => b

/-- `v` if it lies in a range, else the old value (R367). -/
def ranged (old lo hi v : Nat) : Nat := if lo ≤ v ∧ v ≤ hi then v else old

/-- Replace 64 bits of a wide register. -/
def put64 {n : Nat} (old : BitVec n) (i v : Nat) : BitVec n :=
  (old &&& ~~~ (BitVec.ofNat n ((2 ^ 64 - 1) * 2 ^ (64 * i)))) ||| BitVec.ofNat n (v % 2 ^ 64 * 2 ^ (64 * i))

/-- A plain register of the module block. -/
def ModRegs.write (m : ModRegs) (off v : Nat) : ModRegs :=
  match off with
  | 0x1018 => { m with fwaddr := v }
  | 0x1020 => { m with fwlen := ranged m.fwlen 0 (2 ^ 28) v }
  | 0x1058 => { m with lease := ranged m.lease 1 60 v }
  | 0x1090 => { m with featreq := put64 m.featreq 0 v }
  | 0x1098 => { m with featreq := put64 m.featreq 1 v }
  | 0x1100 => { m with tslice := ranged m.tslice 100 100000 v }
  | 0x1108 => { m with bquant := ranged m.bquant 1 10000 v }
  | 0x1110 => { m with scrubper := ranged m.scrubper 1 168 v }
  | 0x1118 => { m with ltol := v }
  | 0x1128 => { m with plim := ranged m.plim 8000 24000 v }
  | 0x1208 => { m with porten := ranged m.porten 0 (2 ^ 18 - 1) v }
  | 0x1210 => { m with rtidx := ranged m.rtidx 0 (2 ^ 19 - 1) v }
  | 0x1640 => { m with attaddr := v }
  | o => if 0x1600 ≤ o ∧ o < 0x1640 ∧ o % 8 = 0 then { m with attnonce := put64 m.attnonce ((o - 0x1600) / 8) v } else m

/-- Ports follow PORTEN: one newly enabled trains while IDSET is 1, a disabled one is down (R370). -/
def State.enablePorts (s : State) : State :=
  (List.range 18).foldl (fun s k =>
    let q := fget s.ports default k
    let st := if !bitAt s.mod.porten k then 0 else if q.state = 0 ∧ s.mod.idset then 1 else q.state
    if st = q.state then s else { s with ports := finsert s.ports k { q with state := st } }) s

/-- RTPORT: the route of the module RTIDX names; accesses sent on the old route go before new ones (R370). -/
def State.setRoute (s : State) (v : Nat) : State :=
  if v ≤ 17 ∨ v = 0xFF then
    { s with route := fset s.route 0xFF s.mod.rtidx v,
             out := s.out.map (fun o => if o.access.toModule == s.mod.rtidx && fget s.route 0xFF s.mod.rtidx != v then { o with old := true } else o) }
  else s

/-- REGISTER_WRITE (R361, R362, R367): a register with no row of its own. -/
def execRegisterWrite (r : Req) (offset val : Nat) (s : State) : Res :=
  let v := val % 2 ^ 64
  .next (if offset < 0x1000 then s.fnWrite r (s.modFn r.fn (fun b => b.write offset v))
    else if offset < 0x10000 then s.modWrite r offset
      (if offset = 0x1218 then s.setRoute v
       else if offset = 0x1208 then { s with mod := s.mod.write offset v }.enablePorts
       else { s with mod := s.mod.write offset v })
    else s.fnWrite r s)

/-! ## The patrol scrubber (R356) -/

/-- SCRUB_BURST: the stack's next burst is read, corrected or poisoned; it pauses in P2 and P3 (R374). -/
def execScrubBurst (stack : Nat) (s : State) : Res :=
  let h := fget s.scrub default stack
  let s1 := s.burstTouch (stack * 2 ^ 30 + h.nextBurst)
  event s (decide (stack < 96) && s.mod.bootstat == 5 && decide (s.mod.pstate < 2))
    { s1 with scrub := finsert s1.scrub stack { fget s1.scrub default stack with nextBurst := (h.nextBurst + 1) % 2 ^ 30 } }

end Sys2Proof.Machine
end

