-- ==== Sys2Proof/Machine/Link.lean ====
section
/-! DEFINITION. Sys2Proof/Machine/Link.lean: Koerorn Link (R221, R323, R357, R370): flits in sequence, replay, accesses of other
modules performed here, answers, and time-outs. -/
namespace Sys2Proof.Machine

/-! ## An access performed at its memory port (R323) -/

/-- What the link's port holds for the requester of an access: it counts as one more die (R329), one for each requester, so that what has
passed its owner check is told from what has not (R323). -/
def linkDie (a : LinkAccess) : Nat := 24 + a.fromModule * 64 + a.fromCtx

/-- The owner check of a remote access, and that REMOTE is on here (R318, R323). -/
def State.remoteOwner (s : State) (a : LinkAccess) : Bool :=
  let e := s.bufEntry a.ctx a.buf
  s.eng.tlb.any (fun t => t.die == linkDie a && t.ctx == a.ctx && t.buf == a.buf) ||
  s.feat 1 && (s.ctx a.ctx).live && e.valid && !e.imp && !e.remote && bitAt e.expmask a.fromCtx && bitAt e.pg 2 &&
  (s.ctx a.ctx).sdom == a.sdom

/-- A part of an access as an access of its own. -/
def accessPart (a : LinkAccess) (p : LinkPart) : LinkAccess :=
  { a with off := p.off, len := p.len, data := p.data, amo := match p.kind with | 0 => 0 | 1 => 11 | _ => 10, parts := [] }

/-- The failing check of an access of one part, by kind. An atomic reads what it replaces. -/
def State.remoteFail1 (s : State) (a : LinkAccess) : Option PortErr :=
  if 1 ≤ a.amo ∧ a.amo ≤ 9 then s.atomicErr (linkDie a) a.ctx a.buf a.off a.len
  else if a.amo = 10 ∧ !(s.useEntry a.ctx a.buf).mxsb then some ⟨6, a.off, false, none⟩
  else s.portErr (linkDie a) a.ctx a.buf a.off a.len a.write

/-- The failing check of a remote access: of its parts, the first that fails, before any performs (R231). -/
def State.remoteFails (s : State) (a : LinkAccess) : Option PortErr :=
  if !s.remoteOwner a then some ⟨13, a.off, false, none⟩
  else if a.parts.isEmpty then s.remoteFail1 a
  else a.parts.findSome? (fun p => s.remoteFail1 (accessPart a p))

/-- Place of the scale byte of a block of `len` bytes: its burst, its byte (R102). -/
def State.scalePlace (s : State) (a : LinkAccess) : Loc × Nat :=
  (s.byteLoc (linkDie a) a.ctx a.buf (a.off / 64 * 64), a.off % 64 / max 1 a.len)

/-- Write a scale; the layout of 32-byte blocks writes the upper half of the word as zero. -/
def State.putScale (s : State) (a : LinkAccess) : State :=
  let x := s.scalePlace a
  let s := s.sbWrByte x.1 x.2 a.data
  if a.len = 32 then (s.sbWrByte x.1 2 0).sbWrByte x.1 3 0 else s

/-- The effect of an access of one part whose checks pass, and the data it returns: plain, an atomic (1 plus AOP), an optimizer step (9), a
scale (10), data whose scales follow (11). -/
def State.remoteAct1 (s : State) (a : LinkAccess) : State × Nat :=
  match a.amo with
  | 0 => if a.write then (s.bufPut (linkDie a) a.ctx a.buf a.off a.len a.data true, 0) else (s, s.bufRd (linkDie a) a.ctx a.buf a.off a.len)
  | 9 => s.optAt (linkDie a) a.ctx a.buf a.off a.data
  | 10 => if a.write then (s.putScale a, 0) else (s, bitsAt (s.sbRd (s.scalePlace a).1).toNat (8 * (s.scalePlace a).2) 8)
  | 11 => (s.bufPut (linkDie a) a.ctx a.buf a.off a.len a.data false, 0)
  | k => s.amoAt (linkDie a) a.ctx a.buf a.off a.len (k - 1) a.data

/-- The effect of an access whose checks pass, part by part. -/
def State.remoteAct (s : State) (a : LinkAccess) : State × Nat :=
  if a.parts.isEmpty then s.remoteAct1 a else (a.parts.foldl (fun s p => (s.remoteAct1 (accessPart a p)).1) s, 0)

/-- Perform an access at the remote port: the state, and its answer. -/
def State.remotePerform (s : State) (a : LinkAccess) : State × LinkAccess :=
  match s.remoteFails a with
  | some e => ((if e.replayable then s.holdEntry (linkDie a) a.ctx a.buf else s).errSeen e,
      { a with data := 0, off := e.off, fail := e.kind + 16 * b2n e.sys })
  | none =>
    let s := if a.parts.isEmpty then s.portTouch (linkDie a) a.ctx a.buf a.off a.len
      else a.parts.foldl (fun s p => s.portTouch (linkDie a) a.ctx a.buf p.off p.len) s
    let r := s.remoteAct a
    (r.1, { a with data := r.2, stack := s.stackOf (linkDie a) a.ctx a.buf a.off, fail := 0 })

/-- The answer to a sent access has come; it leaves if its command has. -/
def State.answered (s : State) (a : LinkAccess) : State :=
  let mine (o : Outstanding) : Bool := o.access.id == a.id && o.access.toModule == a.toModule && o.answer.isNone
  let out := s.out.map (fun o => if mine o then { o with answer := some a } else o)
  { s with out := out.filter (fun o => o.answer.isNone || (s.cmd? o.cmd).isSome) }

/-! ## Flits (R357, R370) -/

/-- Port `p`. -/
def State.port (s : State) (p : Nat) : LinkPort := fget s.ports default p

/-- Change port `p`. -/
def State.modPort (s : State) (p : Nat) (f : LinkPort → LinkPort) : State := { s with ports := finsert s.ports p (f (s.port p)) }

/-- 32-bit and 24-bit counters of a port saturate. -/
def bump (w n : Nat) : Nat := min (n + 1) (2 ^ w - 1)

/-- A flit taken in sequence: an answer reaches its access, an access waits to perform, and what is for another module goes on. -/
def State.takeFlit (s : State) (p : Nat) (f : Flit) : State :=
  let dest := if f.answer then f.access.fromModule else f.access.toModule
  if dest ≠ s.mod.modid then s.sendFlit dest f.answer f.access
  else if f.answer then s.answered f.access
  else s.modPort p (fun q => { q with inbox := q.inbox ++ [f.access] })

/-- FLIT_RECEIVE: a flit whose CRC holds and whose number is the next is taken; a bad one, and every one after it, is dropped, and
the port asks for a replay from its number (R357). In P2 a flit only starts the exit (R374). -/
def execFlitReceive (port : Nat) (flit : Flit) (s : State) : Res :=
  let q := s.port port
  let s1 := { s with mod := { s.mod with flitAt := s.ram.tick } }.wake
  event s (decide (port < 18) && q.state == 2 && !s.part.stopped && decide (s.mod.pstate ≤ 2))
    (if s.mod.pstate = 2 then s1
     else if !flit.crcOk then s1.modPort port (fun q => { q with crcfails := bump 64 q.crcfails, wire := q.wire ++ [.replay q.rxSeq] })
     else if flit.seq = q.rxSeq then (s1.modPort port (fun q => { q with rxSeq := (q.rxSeq + 1) % 4096 })).takeFlit port flit
     else s1)

/-- REPLAY_REQUEST: the sender replays the flits it keeps from the named one; after 8 replays of the same flit the port retrains
(R357). -/
def execReplayRequest (port seq : Nat) (s : State) : Res :=
  let q := s.port port
  let n := if q.againSeq = seq then q.again + 1 else 1
  event s (decide (port < 18) && q.state == 2 && q.kept.any (fun f => f.seq == seq))
    (s.modPort port (fun q =>
      let q := { q with wire := q.wire ++ (q.kept.dropWhile (fun (f : Flit) => f.seq != seq)).map LinkOut.flit }
      if 8 ≤ n then { q with replays := bump 64 q.replays, againSeq := seq, again := 0, state := 1, retrain := bump 24 q.retrain }
      else { q with replays := bump 64 q.replays, againSeq := seq, again := n }))

/-- REMOTE_ACCESS: the first access that waits at a port performs here, once, and its answer goes back; what brings the elements of a
collective's participant has none (R309). An access of this module to itself performs in the order sent (R221, R323). -/
def execRemoteAccess (a : LinkAccess) (s : State) : Res :=
  if s.part.stopped then .next s
  else match (List.range 18).find? (fun p => (s.port p).inbox.head? == some a) with
    | some p =>
      let s := s.modPort p (fun q => { q with inbox := q.inbox.drop 1 })
      match a.share with
      | some h => .next (s.takeShare h)
      | none =>
        let r := s.remotePerform a
        .next (r.1.sendFlit a.fromModule true r.2)
    | none =>
      match s.out.find? (fun o => o.access.toModule == s.mod.modid && o.answer.isNone) with
      | some o => event s (o.access == a) ((s.remotePerform a).1.answered (s.remotePerform a).2)
      | none => .next s

/-! ## Time-outs (R309, R357) -/

/-- The context of a command ends with 0xBE: its access has not performed in time. -/
def State.linkFault (s : State) (c : Cmd) (off buf : Nat) : State := s.endByFault c.ctx (c.faultRec (0xBE + 2 ^ 8) off buf)

/-- LINK_ACCESS_TIMEOUT: 10 ms after an access to another module was sent. Numbers from 2^64 on stand for what waits for the home
of a system domain: an arrival at a barrier, by its task, and from 2^65 on a collective, by its command, which waits for the home or for
the elements of other modules (R309). -/
def execLinkAccessTimeout (access : Nat) (s : State) : Res :=
  if access < 2 ^ 64 then
    match s.out.find? (fun o => o.access.id == access) with
    | none => .next s
    | some o =>
      let late := o.answer.isNone && o.access.toModule != s.mod.modid && decide (o.sentAt + 10000 ≤ s.ram.tick)
      match s.cmd? o.cmd with
      | none => event s late { s with out := s.out.filter (fun x => x.access.id != access) }
      | some c => event s late (s.linkFault c o.access.off o.buf)
  else if access < 2 ^ 65 then
    match fget? s.tasks (access - 2 ^ 64) with
    | none => .next s
    | some t => event s (t.ctl.arrived == some (3, 0) && (s.ctx t.id.ctx).shome != s.mod.modid)
        (s.endByFault t.id.ctx (t.faultRec (0xBE + 2 ^ 8) 0 t.ctl.pc 0))
  else
    match s.cmd? (access - 2 ^ 65) with
    | none => .next s
    | some c => event s (c.cls == 3 && c.level == 3 && c.st == .running &&
        (match c.acks with
          | [3, gen] => s.sharesAway c gen
          | l => l.isEmpty && (s.ctx c.ctx).shome != s.mod.modid))
        (s.linkFault c 0 0xFFFF)

end Sys2Proof.Machine
end

