-- ==== Sys2Proof/Machine/Module.lean ====
section
/-! DEFINITION. Sys2Proof/Machine/Module.lean: the module as a whole: ownership (R368), features (R318, R369), firmware (R373), attestation
(R376), link set-up (R370), bring-up (R371, R372), power (R374, R375) and module failure (R359). -/
namespace Sys2Proof.Machine

/-- Change the module block. -/
def State.modMod (s : State) (f : ModRegs → ModRegs) : State := { s with mod := f s.mod }

/-! ## Ownership (R368) -/

/-- Ownership may be set up: the module is READY, or waits for a reload (R371, R373). -/
def State.ownable (s : State) : Bool := s.mod.bootstat == 5 || s.mod.bootstat == 0x83

/-- CLAIM: the first write while no owner is valid. -/
def execClaim (r : Req) (s : State) : Res :=
  .next (s.fnWrite r (if r.fn = 0 ∧ s.ownable ∧ !s.mod.ownerValid
    then s.modMod (fun m => { m with ownerValid := true, owner := r.rid % 2 ^ 16, beat := s.ram.tick }) else s))

/-- HANDOVER. -/
def execHandover (r : Req) (newOwner : Nat) (s : State) : Res :=
  .next (s.modWrite r 0x1050 (s.modMod (fun m => { m with owner := newOwner % 2 ^ 16, beat := s.ram.tick })))

/-- BEAT. -/
def execBeat (r : Req) (s : State) : Res := .next (s.modWrite r 0x1060 (s.modMod (fun m => { m with beat := s.ram.tick })))

/-- LEASE_EXPIRE: no BEAT for LEASE seconds. -/
def execLeaseExpire (s : State) : Res :=
  event s (s.mod.ownerValid && decide (s.mod.beat + s.mod.lease * 1000000 ≤ s.ram.tick)) (s.modMod (fun m => { m with ownerValid := false }))

/-! ## Features, firmware, attestation (R367, R369, R373, R376) -/

/-- FEATGO: once per reset. -/
def execFeatgo (r : Req) (s : State) : Res :=
  .next (s.modWrite r 0x10B0 (if s.mod.featgo then s else s.modMod (fun m => { m with featneg := m.featoff &&& m.featreq, featgo := true })))

/-- End every context that lives, with CTXEND. -/
def State.endAll (s : State) : State := (s.ctxs.filter (fun e => e.2.live)).foldl (fun s e => s.endCtx e.1 2) s

/-- The image at FWADDR, read by DMA through PF 0 (R373). -/
def State.dmaImage (s : State) : FwImage := ⟨s.mod.fwlen, hostRd s.mem.host 0 s.mod.fwaddr s.mod.fwlen⟩

/-- The image the module runs (R373). -/
def ModRegs.theImage (m : ModRegs) : FwImage := m.image.getD Config.builtImage

/-- Step 2 accepts an image: its signature verifies, and its security version reaches the fused minimum (R373). -/
def FwImage.verified (i : FwImage) : Bool := Config.imageSigned i && decide (Config.minVersion ≤ Config.imageVersion i % 2 ^ 32)

/-- FWGO: the image is read again and bring-up starts over at step 2; every context ends. -/
def execFwgo (r : Req) (s : State) : Res :=
  .next (s.modWrite r 0x1028 (s.endAll.modMod (fun m => { m with bootstat := 2, image := some s.dmaImage })))

/-- ATTGO: ignored while an attestation runs. -/
def execAttgo (r : Req) (s : State) : Res :=
  .next (s.modWrite r 0x1648 (if s.mod.attbusy then s else s.modMod (fun m => { m with attbusy := true, attst := 0 })))

/-- The remap report as 32 bytes (R372). -/
def Part24.report (p : Part24) : Nat :=
  joinBits 8 ((List.range 24).map (fun d => p.diepos.getD d 0) ++ [p.hidden, p.longseam, p.via, 0]) + p.bist % 2 ^ 32 * 2 ^ 224

/-- The signed part of an attestation report, 256 bytes (R376). -/
def State.attReport (s : State) : Nat :=
  s.mod.attnonce.toNat + Config.imageDigest s.mod.theImage % 2 ^ 512 * 2 ^ 512 + s.mod.fwver.toNat * 2 ^ 1024 +
  s.mod.serial.toNat * 2 ^ 1088 + s.mod.modid % 2 ^ 32 * 2 ^ 1152 + s.mod.featneg.toNat * 2 ^ 1280 + s.part.report * 2 ^ 1408

/-- ATTESTATION_COMPLETE: the report with its signature stands at ATTADDR of PF 0, or the attestation fails. -/
def execAttestationComplete (s : State) : Res :=
  let body := s.attReport
  let put := s.modMem (fun m => { m with host := hostWr m.host 0 s.mod.attaddr 768 (body + Config.signature body % 2 ^ 4096 * 2 ^ 2048) })
  event s s.mod.attbusy
    (if Config.attestFails s.free then s.modMod (fun m => { m with attst := 2, attbusy := false })
     else put.modMod (fun m => { m with attst := 1, attbusy := false }))

/-! ## Koerorn Link set-up (R370) -/

/-- MODID_WRITE: while no port is enabled. -/
def execModidWrite (r : Req) (val : Nat) (s : State) : Res :=
  .next (s.modWrite r 0x1200
    (if s.mod.porten = 0 ∧ val % 2 ^ 63 < 2 ^ 19 then s.modMod (fun m => { m with modid := val % 2 ^ 19, idset := true }) else s))

/-- PORT_TRAINING: an enabled port that is not up comes up with its peer, or is down. -/
def execPortTraining (port : Nat) (p : Peer) (s : State) : Res :=
  let q := fget s.ports default port
  let q1 := if p.up then { q with state := 2, peerMod := p.module % 2 ^ 19, peerPort := p.port % 2 ^ 5 } else { q with state := 0 }
  event s (decide (port < 18) && s.mod.idset && bitAt s.mod.porten port && q.state != 2) { s with ports := finsert s.ports port q1 }

/-! ## Bring-up (R371, R372) -/

/-- Two coded positions are neighbours. -/
def neighbours (a b : Nat) : Bool :=
  (a / 16 == b / 16 && (a % 16 + 1 == b % 16 || b % 16 + 1 == a % 16)) ||
  (a % 16 == b % 16 && (a / 16 + 1 == b / 16 || b / 16 + 1 == a / 16))

/-- The steps of the order that join no neighbours (R20). -/
def brokenSteps (pos : List Nat) : List Nat := (List.range 23).filter (fun d => !neighbours (pos.getD d 0) (pos.getD (d + 1) 0))

/-- The long seam: the step of the order that joins no neighbours, 0xFF for none (R20, R372). -/
def longSeam (pos : List Nat) : Nat := (brokenSteps pos).headD 0xFF

/-- The coded positions of the 5×5 placement (R18, R372). -/
def placement : List Nat := (List.range 25).map (fun i => i / 5 * 16 + i % 5)

/-- Die `via` lies between the two dies of a long seam `d`, which are two steps apart (R20). -/
def Remap.viaOk (m : Remap) (d : Nat) : Bool :=
  decide (m.via < 24) && neighbours (m.pos.getD d 0) (m.pos.getD m.via 0) && neighbours (m.pos.getD m.via 0) (m.pos.getD (d + 1) 0)

/-- The conditions of R18 and R20: 24 logical dies and the hidden one fill the placement, and there is a long seam exactly when the
hidden die's x + y is odd. -/
def Remap.ok (m : Remap) : Bool :=
  decide (m.pos.length = 24) && placement.all (fun p => (m.hidden :: m.pos).contains p) &&
  match brokenSteps m.pos with
  | [] => decide ((m.hidden / 16 + m.hidden % 16) % 2 = 0)
  | [d] => decide ((m.hidden / 16 + m.hidden % 16) % 2 = 1) && m.viaOk d
  | _ => false

/-- The part of R20 whose hidden die is (4,4): the plain snake. -/
def snake : Remap :=
  ⟨(List.range 24).map (fun i => (if i / 5 % 2 = 0 then i % 5 else 4 - i % 5) * 16 + i / 5), 0x44, 0xFF⟩

/-- The remap of the part: the fused table, which keeps the conditions of R20 (log entry 66). -/
def theRemap : Remap := if Config.fusedRemap.ok then Config.fusedRemap else snake

/-- `$seamlatN` (R21). -/
def seamLatency (long n : Nat) : Nat := if n = 0 then 0 else if n % 2 = 1 then 2 else if n / 2 - 1 = long then 80 else 36

/-- The remap report of the part (R372). -/
def Part24.written (p : Part24) (m : Remap) : Part24 :=
  let l := longSeam m.pos
  { p with diepos := m.pos, hidden := m.hidden, longseam := l, via := if l = 0xFF then 0xFF else m.via }

/-- The latencies published in `$seamlat0` to `$seamlat47` (R21). -/
def Part24.measured (p : Part24) (m : Remap) : Part24 := { p with seamlat := (List.range 48).map (seamLatency (longSeam m.pos)) }

/-- The module after a host reset, in step 1 of bring-up: registers at their reset values; HBM4E and the hosts' memory are not the
reset's (log entry 3), and the image stays (log entry 66). -/
def State.hostReset (s : State) : State :=
  { State.reset with
    mem := { Mems.reset with hbm := s.mem.hbm, host := s.mem.host, sb := s.mem.sb, err := s.mem.err, poison := s.mem.poison }
    mod := { ModRegs.reset with bootstat := 1, serial := BitVec.ofNat 64 Config.serial, image := s.mod.image }
    script := s.script, free := s.free }

/-- BOOTSTAT. -/
def State.bootAt (s : State) (n : Nat) : State := s.modMod (fun m => { m with bootstat := n })

/-- The step of bring-up that BOOTSTAT reports ends (R371): the self-test (a die that fails it is named in the report, R359), the
image's verification, the training of mesh and HBM4E, the clearing. -/
def State.bootStep (s : State) (b : BootResult) : State :=
  match s.mod.bootstat with
  | 1 =>
    if b.bist % 2 ^ 24 = 0 then s.bootAt 2
    else { s.bootAt 0x81 with part := { s.part.written theRemap with bist := b.bist % 2 ^ 24 } }
  | 2 =>
    if s.mod.theImage.verified then
      s.modMod (fun m => { m with bootstat := 3, fwver := BitVec.ofNat 64 (Config.imageVersion m.theImage) })
    else s.bootAt 0x83
  | 3 =>
    if !b.meshOk then s.bootAt 0x84
    else if !b.hbmOk then s.bootAt 0x82
    else { s.bootAt 4 with part := s.part.measured theRemap }
  | 4 =>
    { (s.modMem (fun m => { m with sram := [], ws := [], sramErr := [], wsErr := [] })).bootAt 5 with
      part := s.part.written theRemap, scrub := [] }
  | _ => s

/-- RESET_RELEASE: reset is released, or a step of bring-up ends. -/
def execResetRelease (b : BootResult) (s : State) : Res := .next (if b.fresh then s.hostReset else s.bootStep b)

/-! ## Power (R374, R375) -/

/-- P1's condition: no task bound, no engine command outstanding. -/
def State.idle (s : State) : Bool := s.tasks.all (fun e => !e.2.ctl.bound) && s.eng.cmds.isEmpty

/-- P2's condition, DEEPIDLE and LTOL among it. -/
def State.deepIdle (s : State) : Bool :=
  s.idle && s.ctxs.all (fun e => !e.2.live || e.2.queues.all (fun q => q.2.cmpl == q.2.tail)) && s.feat 6 &&
  decide (s.mod.flitAt + 1000 ≤ s.ram.tick ∧ 40 ≤ s.mod.ltol)

/-- POWER_STATE_ENTER: the lowest state whose condition holds and whose exit latency LTOL allows, while no exit has been started. -/
def execPowerStateEnter (p : Nat) (s : State) : Res :=
  event s (decide (s.mod.pstate < p) && !s.mod.waking &&
      (if p = 2 then s.deepIdle else p == 1 && s.idle && decide (2 ≤ s.mod.ltol) && !s.deepIdle))
    (s.modMod (fun m => { m with pstate := p }))

/-- POWER_STATE_EXIT: a BAR0 access, a TAIL write or a link flit has started it. A BAR0 read is an input that leaves nothing else
behind (log 42). -/
def execPowerStateExit (s : State) : Res :=
  event s ((s.mod.pstate == 1 || s.mod.pstate == 2) && (s.mod.waking || Config.barRead s.free)) (s.modMod (fun m => { m with pstate := 0, waking := false }))

/-- PSTATE_OFF: everything the module holds is lost. -/
def execPstateOff (r : Req) (s : State) : Res :=
  .next (s.modWrite r 0x1120
    { State.reset with
      mem := { Mems.reset with host := s.mem.host }, mod := { ModRegs.reset with pstate := 3, image := s.mod.image },
      script := s.script, free := s.free })

/-- POWER_THROTTLE: the heads inject bubbles. -/
def execPowerThrottle (s : State) : Res := .next { s with part := { s.part with throttle := true } }.heated

/-- POWER_FALLS_BACK: they stop, and no junction is at 105 °C any more. -/
def execPowerFallsBack (s : State) : Res := .next { s with part := { s.part with throttle := false } }.heated

/-! ## Module failure (R359, R375) -/

/-- The record each host receives: no context, no task, no die named. -/
def stopRec (code : Nat) : FaultRec := ⟨code + 2 ^ 8, 0xFF, 0xFF, 0xFF, 0xFF, 0xFF, 2 ^ 32 - 1, 0, 0, 0xFFFF, 0, 0⟩

/-- The module stops: a record to every function that has set up a fault queue, then every context ends with CTXEND. -/
def State.stopModule (s : State) (code : Nat) : State :=
  let s := (s.fns.filter (fun f => f.2.fqbase != 0)).foldl (fun s f => s.postRecord f.1 0xFF (stopRec code)) s
  { s.endAll with part := { s.endAll.part with stopped := true } }

/-- MODULE_STOP: an uncorrectable error in state no context owns (0xBB), or a die that stops answering (0xBE). -/
def execModuleStop (code : Nat) (s : State) : Res := event s ((code == 0xBB || code == 0xBE) && !s.part.stopped) (s.stopModule code)

/-- OVERTEMP_STOP: a junction at 115 °C. -/
def execOvertempStop (s : State) : Res :=
  event s (!s.part.stopped) ((s.stopModule 0xBE).modMod (fun m => { m with temp := max 115 (Config.freeTemp s.free) }))

end Sys2Proof.Machine
end

