-- ==== Sys2Proof/Machine/Dispatch.lean ====
section
/-! DEFINITION. Sys2Proof/Machine/Dispatch.lean: one arm per row of the opcode table, each a call of its meaning. -/
namespace Sys2Proof.Machine

def exec (i : Instr) (s : State) : Host.Outcome State Fault Refusal :=
  match i with
  | .selection p c r => Sys2Proof.Machine.execSelection p c r s
  | .nopSeq u => Sys2Proof.Machine.execNopSeq u s
  | .add u f => Sys2Proof.Machine.execAdd u f s
  | .sub u f => Sys2Proof.Machine.execSub u f s
  | .mul u f => Sys2Proof.Machine.execMul u f s
  | .mulh u f => Sys2Proof.Machine.execMulh u f s
  | .div u f => Sys2Proof.Machine.execDiv u f s
  | .rem u f => Sys2Proof.Machine.execRem u f s
  | .and u f => Sys2Proof.Machine.execAnd u f s
  | .or u f => Sys2Proof.Machine.execOr u f s
  | .xor u f => Sys2Proof.Machine.execXor u f s
  | .shl u f => Sys2Proof.Machine.execShl u f s
  | .shr u f => Sys2Proof.Machine.execShr u f s
  | .min u f => Sys2Proof.Machine.execMin u f s
  | .max u f => Sys2Proof.Machine.execMax u f s
  | .clz u f => Sys2Proof.Machine.execClz u f s
  | .popc u f => Sys2Proof.Machine.execPopc u f s
  | .sel u f => Sys2Proof.Machine.execSel u f s
  | .addsc u f => Sys2Proof.Machine.execAddsc u f s
  | .cmp u f => Sys2Proof.Machine.execCmp u f s
  | .bfx u f => Sys2Proof.Machine.execBfx u f s
  | .bfi u f => Sys2Proof.Machine.execBfi u f s
  | .addi u f => Sys2Proof.Machine.execAddi u f s
  | .muli u f => Sys2Proof.Machine.execMuli u f s
  | .andi u f => Sys2Proof.Machine.execAndi u f s
  | .ori u f => Sys2Proof.Machine.execOri u f s
  | .xori u f => Sys2Proof.Machine.execXori u f s
  | .shli u f => Sys2Proof.Machine.execShli u f s
  | .shri u f => Sys2Proof.Machine.execShri u f s
  | .movi u f => Sys2Proof.Machine.execMovi u f s
  | .movh u f => Sys2Proof.Machine.execMovh u f s
  | .cmpi u f => Sys2Proof.Machine.execCmpi u f s
  | .qand u f => Sys2Proof.Machine.execQand u f s
  | .qor u f => Sys2Proof.Machine.execQor u f s
  | .qxor u f => Sys2Proof.Machine.execQxor u f s
  | .qnot u f => Sys2Proof.Machine.execQnot u f s
  | .sld u f => Sys2Proof.Machine.execSld u f s
  | .sst u f => Sys2Proof.Machine.execSst u f s
  | .samo u f => Sys2Proof.Machine.execSamo u f s
  | .br f => Sys2Proof.Machine.execBr f s
  | .call f => Sys2Proof.Machine.execCall f s
  | .ret f => Sys2Proof.Machine.execRet f s
  | .brx f => Sys2Proof.Machine.execBrx f s
  | .bagg f => Sys2Proof.Machine.execBagg f s
  | .loop f => Sys2Proof.Machine.execLoop f s
  | .loopi f => Sys2Proof.Machine.execLoopi f s
  | .mfs f => Sys2Proof.Machine.execMfs f s
  | .mts f => Sys2Proof.Machine.execMts f s
  | .ftset f => Sys2Proof.Machine.execFtset f s
  | .mskset f => Sys2Proof.Machine.execMskset f s
  | .rot f => Sys2Proof.Machine.execRot f s
  | .stage f => Sys2Proof.Machine.execStage f s
  | .fpclr f => Sys2Proof.Machine.execFpclr f s
  | .dset f => Sys2Proof.Machine.execDset f s
  | .trap f => Sys2Proof.Machine.execTrap f s
  | .brk f => Sys2Proof.Machine.execBrk f s
  | .eret f => Sys2Proof.Machine.execEret f s
  | .done f => Sys2Proof.Machine.execDone f s
  | .twait f => Sys2Proof.Machine.execTwait f s
  | .tstat f => Sys2Proof.Machine.execTstat f s
  | .rwait f => Sys2Proof.Machine.execRwait f s
  | .rfree f => Sys2Proof.Machine.execRfree f s
  | .radv f => Sys2Proof.Machine.execRadv f s
  | .semw f => Sys2Proof.Machine.execSemw f s
  | .semsig f => Sys2Proof.Machine.execSemsig f s
  | .bar f => Sys2Proof.Machine.execBar f s
  | .fence f => Sys2Proof.Machine.execFence f s
  | .rel f => Sys2Proof.Machine.execRel f s
  | .acq f => Sys2Proof.Machine.execAcq f s
  | .launch f => Sys2Proof.Machine.execLaunch f s
  | .trig f => Sys2Proof.Machine.execTrig f s
  | .evpop f => Sys2Proof.Machine.execEvpop f s
  | .nopV u => Sys2Proof.Machine.execNopV u s
  | .vadd u f => Sys2Proof.Machine.execVadd u f s
  | .vsub u f => Sys2Proof.Machine.execVsub u f s
  | .vmul u f => Sys2Proof.Machine.execVmul u f s
  | .vmulh u f => Sys2Proof.Machine.execVmulh u f s
  | .vmad u f => Sys2Proof.Machine.execVmad u f s
  | .vand u f => Sys2Proof.Machine.execVand u f s
  | .vor u f => Sys2Proof.Machine.execVor u f s
  | .vxor u f => Sys2Proof.Machine.execVxor u f s
  | .vshl u f => Sys2Proof.Machine.execVshl u f s
  | .vshr u f => Sys2Proof.Machine.execVshr u f s
  | .vsar u f => Sys2Proof.Machine.execVsar u f s
  | .vmin u f => Sys2Proof.Machine.execVmin u f s
  | .vmax u f => Sys2Proof.Machine.execVmax u f s
  | .vabs u f => Sys2Proof.Machine.execVabs u f s
  | .vclz u f => Sys2Proof.Machine.execVclz u f s
  | .vpopc u f => Sys2Proof.Machine.execVpopc u f s
  | .vadds u f => Sys2Proof.Machine.execVadds u f s
  | .vsubs u f => Sys2Proof.Machine.execVsubs u f s
  | .vcmp u f => Sys2Proof.Machine.execVcmp u f s
  | .vfadd u f => Sys2Proof.Machine.execVfadd u f s
  | .vfsub u f => Sys2Proof.Machine.execVfsub u f s
  | .vfmul u f => Sys2Proof.Machine.execVfmul u f s
  | .vfma u f => Sys2Proof.Machine.execVfma u f s
  | .vfmin u f => Sys2Proof.Machine.execVfmin u f s
  | .vfmax u f => Sys2Proof.Machine.execVfmax u f s
  | .vfabs u f => Sys2Proof.Machine.execVfabs u f s
  | .vfneg u f => Sys2Proof.Machine.execVfneg u f s
  | .vfcmp u f => Sys2Proof.Machine.execVfcmp u f s
  | .vfclass u f => Sys2Proof.Machine.execVfclass u f s
  | .vrcp u f => Sys2Proof.Machine.execVrcp u f s
  | .vrsq u f => Sys2Proof.Machine.execVrsq u f s
  | .vsqrt u f => Sys2Proof.Machine.execVsqrt u f s
  | .vexp2 u f => Sys2Proof.Machine.execVexp2 u f s
  | .vlog2 u f => Sys2Proof.Machine.execVlog2 u f s
  | .vtanh u f => Sys2Proof.Machine.execVtanh u f s
  | .vcvt u f => Sys2Proof.Machine.execVcvt u f s
  | .vcvti u f => Sys2Proof.Machine.execVcvti u f s
  | .vcvtf u f => Sys2Proof.Machine.execVcvtf u f s
  | .vpack u f => Sys2Proof.Machine.execVpack u f s
  | .vmxs u f => Sys2Proof.Machine.execVmxs u f s
  | .vunpk u f => Sys2Proof.Machine.execVunpk u f s
  | .vcmpr u f => Sys2Proof.Machine.execVcmpr u f s
  | .vmov u f => Sys2Proof.Machine.execVmov u f s
  | .vmovi u f => Sys2Proof.Machine.execVmovi u f s
  | .vsel u f => Sys2Proof.Machine.execVsel u f s
  | .vperm u f => Sys2Proof.Machine.execVperm u f s
  | .vshuf u f => Sys2Proof.Machine.execVshuf u f s
  | .vbcast u f => Sys2Proof.Machine.execVbcast u f s
  | .vred u f => Sys2Proof.Machine.execVred u f s
  | .vcoord u f => Sys2Proof.Machine.execVcoord u f s
  | .pand u f => Sys2Proof.Machine.execPand u f s
  | .por u f => Sys2Proof.Machine.execPor u f s
  | .pxor u f => Sys2Proof.Machine.execPxor u f s
  | .pnot u f => Sys2Proof.Machine.execPnot u f s
  | .pset u f => Sys2Proof.Machine.execPset u f s
  | .pflag u f => Sys2Proof.Machine.execPflag u f s
  | .nopM => Sys2Proof.Machine.execNopM s
  | .mma f => Sys2Proof.Machine.execMma f s
  | .mmas f => Sys2Proof.Machine.execMmas f s
  | .mmaz f => Sys2Proof.Machine.execMmaz f s
  | .aclr f => Sys2Proof.Machine.execAclr f s
  | .ald f => Sys2Proof.Machine.execAld f s
  | .ast f => Sys2Proof.Machine.execAst f s
  | .adrn f => Sys2Proof.Machine.execAdrn f s
  | .ascl f => Sys2Proof.Machine.execAscl f s
  | .aadd f => Sys2Proof.Machine.execAadd f s
  | .nopX => Sys2Proof.Machine.execNopX s
  | .ldv f => Sys2Proof.Machine.execLdv f s
  | .stv f => Sys2Proof.Machine.execStv f s
  | .ldt f => Sys2Proof.Machine.execLdt f s
  | .movx f => Sys2Proof.Machine.execMovx f s
  | .movxp f => Sys2Proof.Machine.execMovxp f s
  | .ldsp f => Sys2Proof.Machine.execLdsp f s
  | .stsp f => Sys2Proof.Machine.execStsp f s
  | .gthl f => Sys2Proof.Machine.execGthl f s
  | .sctl f => Sys2Proof.Machine.execSctl f s
  | .ldb f => Sys2Proof.Machine.execLdb f s
  | .rbpop => Sys2Proof.Machine.execRbpop s
  | .rotCc => Sys2Proof.Machine.execRotCc s
  | .sshift n => Sys2Proof.Machine.execSshift n s
  | .nopLd => Sys2Proof.Machine.execNopLd s
  | .eldw f => Sys2Proof.Machine.execEldw f s
  | .eldn f => Sys2Proof.Machine.execEldn f s
  | .eldwr f => Sys2Proof.Machine.execEldwr f s
  | .eldnr f => Sys2Proof.Machine.execEldnr f s
  | .ews f => Sys2Proof.Machine.execEws f s
  | .ewin f => Sys2Proof.Machine.execEwin f s
  | .eldt f => Sys2Proof.Machine.execEldt f s
  | .eldb f => Sys2Proof.Machine.execEldb f s
  | .nopSt => Sys2Proof.Machine.execNopSt s
  | .ests f => Sys2Proof.Machine.execEsts f s
  | .este f => Sys2Proof.Machine.execEste f s
  | .estsr f => Sys2Proof.Machine.execEstsr f s
  | .epop f => Sys2Proof.Machine.execEpop f s
  | .epopr f => Sys2Proof.Machine.execEpopr f s
  | .estsa f => Sys2Proof.Machine.execEstsa f s
  | .nopE => Sys2Proof.Machine.execNopE s
  | .dqatt f => Sys2Proof.Machine.execDqatt f s
  | .dqdet f => Sys2Proof.Machine.execDqdet f s
  | .cpy f => Sys2Proof.Machine.execCpy f s
  | .cpy2 f => Sys2Proof.Machine.execCpy2 f s
  | .cpyt f => Sys2Proof.Machine.execCpyt f s
  | .cpyp f => Sys2Proof.Machine.execCpyp f s
  | .fill f => Sys2Proof.Machine.execFill f s
  | .wsld f => Sys2Proof.Machine.execWsld f s
  | .gth2 f => Sys2Proof.Machine.execGth2 f s
  | .sct2 f => Sys2Proof.Machine.execSct2 f s
  | .gthr f => Sys2Proof.Machine.execGthr f s
  | .sctr f => Sys2Proof.Machine.execSctr f s
  | .idec f => Sys2Proof.Machine.execIdec f s
  | .rsc f => Sys2Proof.Machine.execRsc f s
  | .agt f => Sys2Proof.Machine.execAgt f s
  | .ard f => Sys2Proof.Machine.execArd f s
  | .bcs f => Sys2Proof.Machine.execBcs f s
  | .nmadd f => Sys2Proof.Machine.execNmadd f s
  | .nmamo f => Sys2Proof.Machine.execNmamo f s
  | .nmgs f => Sys2Proof.Machine.execNmgs f s
  | .nmdot f => Sys2Proof.Machine.execNmdot f s
  | .nmopt f => Sys2Proof.Machine.execNmopt f s
  | .nmfence f => Sys2Proof.Machine.execNmfence f s
  | .pksel f => Sys2Proof.Machine.execPksel f s
  | .pkfwd f => Sys2Proof.Machine.execPkfwd f s
  | .pkbwd f => Sys2Proof.Machine.execPkbwd f s
  | .pkmrg f => Sys2Proof.Machine.execPkmrg f s
  | .vxget f => Sys2Proof.Machine.execVxget f s
  | .vxput f => Sys2Proof.Machine.execVxput f s
  | .vxadd f => Sys2Proof.Machine.execVxadd f s
  | .vxinv f => Sys2Proof.Machine.execVxinv f s
  | .vxtile f => Sys2Proof.Machine.execVxtile f s
  | .vxpoolInit f => Sys2Proof.Machine.execVxpoolInit f s
  | .vxpoolAddt f => Sys2Proof.Machine.execVxpoolAddt f s
  | .vxpoolAddn f => Sys2Proof.Machine.execVxpoolAddn f s
  | .bubble head => Sys2Proof.Machine.execBubble head s
  | .cellExecute head pos row col => Sys2Proof.Machine.execCellExecute head pos row col s
  | .edgeSegmentAct head pos store seg => Sys2Proof.Machine.execEdgeSegmentAct head pos store seg s
  | .edgeStorePerform head pos => Sys2Proof.Machine.execEdgeStorePerform head pos s
  | .ringProducerPublish head ring => Sys2Proof.Machine.execRingProducerPublish head ring s
  | .ringConsumerPublish head ring => Sys2Proof.Machine.execRingConsumerPublish head ring s
  | .aggregateComplete head => Sys2Proof.Machine.execAggregateComplete head s
  | .randomWordRefill head => Sys2Proof.Machine.execRandomWordRefill head s
  | .weightStoreRefresh bank => Sys2Proof.Machine.execWeightStoreRefresh bank s
  | .engineStart head cls die => Sys2Proof.Machine.execEngineStart head cls die s
  | .engineElementPerform cmd => Sys2Proof.Machine.execEngineElementPerform cmd s
  | .engineComplete cmd => Sys2Proof.Machine.execEngineComplete cmd s
  | .dqDetachComplete head dq => Sys2Proof.Machine.execDqDetachComplete head dq s
  | .drainRowPopEngine cmd => Sys2Proof.Machine.execDrainRowPopEngine cmd s
  | .collectivePerform coll => Sys2Proof.Machine.execCollectivePerform coll s
  | .idecPatchPublish cmd => Sys2Proof.Machine.execIdecPatchPublish cmd s
  | .pkfwdRingOutput cmd => Sys2Proof.Machine.execPkfwdRingOutput cmd s
  | .nmoptGuardRead cmd => Sys2Proof.Machine.execNmoptGuardRead cmd s
  | .returnFreeAddPerform add => Sys2Proof.Machine.execReturnFreeAddPerform add s
  | .allocTrapTake head => Sys2Proof.Machine.execAllocTrapTake head s
  | .shootdownAck die cmd => Sys2Proof.Machine.execShootdownAck die cmd s
  | .contextEndFault ctx => Sys2Proof.Machine.execContextEndFault ctx s
  | .schedule => Sys2Proof.Machine.execSchedule s
  | .timeSliceExpire head => Sys2Proof.Machine.execTimeSliceExpire head s
  | .blockingQuantumExpire head => Sys2Proof.Machine.execBlockingQuantumExpire head s
  | .preempt head => Sys2Proof.Machine.execPreempt head s
  | .resume task => Sys2Proof.Machine.execResume task s
  | .systemBarArrival m => Sys2Proof.Machine.execSystemBarArrival m s
  | .systemBarCompletion m => Sys2Proof.Machine.execSystemBarCompletion m s
  | .flitReceive port flit => Sys2Proof.Machine.execFlitReceive port flit s
  | .replayRequest port seq => Sys2Proof.Machine.execReplayRequest port seq s
  | .linkAccessTimeout access => Sys2Proof.Machine.execLinkAccessTimeout access s
  | .remoteAccess a => Sys2Proof.Machine.execRemoteAccess a s
  | .scrubBurst stack => Sys2Proof.Machine.execScrubBurst stack s
  | .migrationCommit ctx => Sys2Proof.Machine.execMigrationCommit ctx s
  | .invalidationComplete ctx => Sys2Proof.Machine.execInvalidationComplete ctx s
  | .driverCopyComplete fn => Sys2Proof.Machine.execDriverCopyComplete fn s
  | .tailWrite r ctx queue tail => Sys2Proof.Machine.execTailWrite r ctx queue tail s
  | .qdescWrite r ctx queue d => Sys2Proof.Machine.execQdescWrite r ctx queue d s
  | .cdescWrite r ctx d => Sys2Proof.Machine.execCdescWrite r ctx d s
  | .contextCreate r ctx => Sys2Proof.Machine.execContextCreate r ctx s
  | .contextEnd r ctx => Sys2Proof.Machine.execContextEnd r ctx s
  | .invalidate r ctx val => Sys2Proof.Machine.execInvalidate r ctx val s
  | .migrationStart r ctx d => Sys2Proof.Machine.execMigrationStart r ctx d s
  | .migrationAbort r ctx => Sys2Proof.Machine.execMigrationAbort r ctx s
  | .faultResume r ctx val => Sys2Proof.Machine.execFaultResume r ctx val s
  | .faultEndContext r ctx val => Sys2Proof.Machine.execFaultEndContext r ctx val s
  | .debugAttach r ctx on => Sys2Proof.Machine.execDebugAttach r ctx on s
  | .debugStop r ctx head => Sys2Proof.Machine.execDebugStop r ctx head s
  | .debugRelease r ctx => Sys2Proof.Machine.execDebugRelease r ctx s
  | .partitionWrite r ctx die d0 d1 => Sys2Proof.Machine.execPartitionWrite r ctx die d0 d1 s
  | .privextWrite r ext base limit => Sys2Proof.Machine.execPrivextWrite r ext base limit s
  | .driverCopyToDevice r ctl => Sys2Proof.Machine.execDriverCopyToDevice r ctl s
  | .driverCopyToHost r ctl => Sys2Proof.Machine.execDriverCopyToHost r ctl s
  | .fqdropClear r => Sys2Proof.Machine.execFqdropClear r s
  | .errlogClear r => Sys2Proof.Machine.execErrlogClear r s
  | .claim r => Sys2Proof.Machine.execClaim r s
  | .handover r newOwner => Sys2Proof.Machine.execHandover r newOwner s
  | .beat r => Sys2Proof.Machine.execBeat r s
  | .leaseExpire => Sys2Proof.Machine.execLeaseExpire s
  | .featgo r => Sys2Proof.Machine.execFeatgo r s
  | .fwgo r => Sys2Proof.Machine.execFwgo r s
  | .attgo r => Sys2Proof.Machine.execAttgo r s
  | .attestationComplete => Sys2Proof.Machine.execAttestationComplete s
  | .pstateOff r => Sys2Proof.Machine.execPstateOff r s
  | .modidWrite r val => Sys2Proof.Machine.execModidWrite r val s
  | .registerWrite r offset val => Sys2Proof.Machine.execRegisterWrite r offset val s
  | .portTraining port p => Sys2Proof.Machine.execPortTraining port p s
  | .resetRelease b => Sys2Proof.Machine.execResetRelease b s
  | .powerStateEnter p => Sys2Proof.Machine.execPowerStateEnter p s
  | .powerStateExit => Sys2Proof.Machine.execPowerStateExit s
  | .powerThrottle => Sys2Proof.Machine.execPowerThrottle s
  | .overtempStop => Sys2Proof.Machine.execOvertempStop s
  | .moduleStop code => Sys2Proof.Machine.execModuleStop code s
  | .powerFallsBack => Sys2Proof.Machine.execPowerFallsBack s

end Sys2Proof.Machine
end

