-- ==== Sys2Proof/Machine/Turn.lean ====
section
/-! DEFINITION. Sys2Proof/Machine/Turn.lean: whose turn it is: the script and the free moves (log entry 1), which rows of the
table are steps of their own, and the placing of one bundle. -/
namespace Sys2Proof.Machine

/-- The rows of the table that are steps of their own, not operations of a slot. -/
def isEvent (i : Instr) : Bool :=
  match i with
  | .selection .. | .nopSeq .. | .add .. | .sub .. | .mul .. | .mulh .. | .div .. | .rem .. | .and .. | .or .. |
    .xor .. | .shl .. | .shr .. | .min .. | .max .. | .clz .. | .popc .. | .sel .. | .addsc .. | .cmp .. | .bfx .. |
    .bfi .. | .addi .. | .muli .. | .andi .. | .ori .. | .xori .. | .shli .. | .shri .. | .movi .. | .movh .. |
    .cmpi .. | .qand .. | .qor .. | .qxor .. | .qnot .. | .sld .. | .sst .. | .samo .. | .br .. | .call .. | .ret .. |
    .brx .. | .bagg .. | .loop .. | .loopi .. | .mfs .. | .mts .. | .ftset .. | .mskset .. | .rot .. | .stage .. |
    .fpclr .. | .dset .. | .trap .. | .brk .. | .eret .. | .done .. | .twait .. | .tstat .. | .rwait .. | .rfree .. |
    .radv .. | .semw .. | .semsig .. | .bar .. | .fence .. | .rel .. | .acq .. | .launch .. | .trig .. | .evpop .. |
    .nopV .. | .vadd .. | .vsub .. | .vmul .. | .vmulh .. | .vmad .. | .vand .. | .vor .. | .vxor .. | .vshl .. |
    .vshr .. | .vsar .. | .vmin .. | .vmax .. | .vabs .. | .vclz .. | .vpopc .. | .vadds .. | .vsubs .. | .vcmp .. |
    .vfadd .. | .vfsub .. | .vfmul .. | .vfma .. | .vfmin .. | .vfmax .. | .vfabs .. | .vfneg .. | .vfcmp .. |
    .vfclass .. | .vrcp .. | .vrsq .. | .vsqrt .. | .vexp2 .. | .vlog2 .. | .vtanh .. | .vcvt .. | .vcvti .. |
    .vcvtf .. | .vpack .. | .vmxs .. | .vunpk .. | .vcmpr .. | .vmov .. | .vmovi .. | .vsel .. | .vperm .. |
    .vshuf .. | .vbcast .. | .vred .. | .vcoord .. | .pand .. | .por .. | .pxor .. | .pnot .. | .pset .. | .pflag .. |
    .nopM | .mma .. | .mmas .. | .mmaz .. | .aclr .. | .ald .. | .ast .. | .adrn .. | .ascl .. | .aadd .. | .nopX |
    .ldv .. | .stv .. | .ldt .. | .movx .. | .movxp .. | .ldsp .. | .stsp .. | .gthl .. | .sctl .. | .ldb .. | .rbpop |
    .rotCc | .sshift .. | .nopLd | .eldw .. | .eldn .. | .eldwr .. | .eldnr .. | .ews .. | .ewin .. | .eldt .. |
    .eldb .. | .nopSt | .ests .. | .este .. | .estsr .. | .epop .. | .epopr .. | .estsa .. | .nopE | .dqatt .. |
    .dqdet .. | .cpy .. | .cpy2 .. | .cpyt .. | .cpyp .. | .fill .. | .wsld .. | .gth2 .. | .sct2 .. | .gthr .. |
    .sctr .. | .idec .. | .rsc .. | .agt .. | .ard .. | .bcs .. | .nmadd .. | .nmamo .. | .nmgs .. | .nmdot .. |
    .nmopt .. | .nmfence .. | .pksel .. | .pkfwd .. | .pkbwd .. | .pkmrg .. | .vxget .. | .vxput .. | .vxadd .. |
    .vxinv .. | .vxtile .. | .vxpoolInit .. | .vxpoolAddt .. | .vxpoolAddn .. => false
  | .bubble .. | .cellExecute .. | .edgeSegmentAct .. | .edgeStorePerform .. | .ringProducerPublish .. |
    .ringConsumerPublish .. | .aggregateComplete .. | .randomWordRefill .. | .weightStoreRefresh .. | .engineStart .. |
    .engineElementPerform .. | .engineComplete .. | .dqDetachComplete .. | .drainRowPopEngine .. |
    .collectivePerform .. | .idecPatchPublish .. | .pkfwdRingOutput .. | .nmoptGuardRead .. |
    .returnFreeAddPerform .. | .allocTrapTake .. | .shootdownAck .. | .contextEndFault .. | .schedule |
    .timeSliceExpire .. | .blockingQuantumExpire .. | .preempt .. | .resume .. | .systemBarArrival .. |
    .systemBarCompletion .. | .flitReceive .. | .replayRequest .. | .linkAccessTimeout .. | .remoteAccess .. |
    .scrubBurst .. | .migrationCommit .. | .invalidationComplete .. | .driverCopyComplete .. | .tailWrite .. |
    .qdescWrite .. | .cdescWrite .. | .contextCreate .. | .contextEnd .. | .invalidate .. | .migrationStart .. |
    .migrationAbort .. | .faultResume .. | .faultEndContext .. | .debugAttach .. | .debugStop .. | .debugRelease .. |
    .partitionWrite .. | .privextWrite .. | .driverCopyToDevice .. | .driverCopyToHost .. | .fqdropClear .. |
    .errlogClear .. | .claim .. | .handover .. | .beat .. | .leaseExpire | .featgo .. | .fwgo .. | .attgo .. |
    .attestationComplete | .pstateOff .. | .modidWrite .. | .registerWrite .. | .portTraining .. | .resetRelease .. |
    .powerStateEnter .. | .powerStateExit | .powerThrottle | .overtempStop | .moduleStop .. | .powerFallsBack => true

/-- The next move. -/
def State.nextMove (s : State) : Move :=
  match s.script with
  | m :: _ => m
  | [] => Config.freeMove s.free

/-- The state once the next move has been taken from the script, or a free one used up; the counter of the free values advances. -/
def State.taken (s : State) : State :=
  match s.script with
  | _ :: rest => { s with script := rest, free := s.free + 1 }
  | [] => { s with free := s.free + 1 }

/-- A header for one bundle of code in latency class 2, on a chain of one array. -/
def bareHeader : Header :=
  { (default : Header) with latcls := 2, chain := 1, vregs := 1536, atiles := 16, crows := 1984, spill := 64, codesz := 1,
                            stkbuf := 0xFFFF }

/-- A task of context 0 at array 0 whose code is the bundle `b`. -/
def bareTask (b : Bundle) : Task :=
  { (default : Task) with
    prog := ⟨bareHeader, [b]⟩
    ctl := { (default : TaskCtl) with bound := true, running := true }
    sys := { (default : SysRegs) with depth := 4 }
    rng := ⟨0, 0, 0, [dandelion 0 0]⟩ }

/-- `s` with such a task alone, its head to move next. -/
def State.withBundle (s : State) (b : Bundle) : State :=
  { s with tasks := [(0, bareTask b)], script := [.issue 0], mod := { s.mod with bootstat := 5 } }

/-- The bundle that holds an instruction of the table (R67): a header below 0x1000 or a cell-control word above it (16 bits),
an operation of SB (48 bits) or V0 (64 bits), or a whole bundle. -/
def tableBundle (nbits w : Nat) : Bundle :=
  BitVec.ofNat 512 (if nbits = 16 then (if w < 2 ^ 12 then w else w % 2 ^ 16 * 2 ^ 352)
    else if nbits = 48 then w % 2 ^ 48 * 2 ^ 64
    else if nbits = 64 then w % 2 ^ 64 * 2 ^ 176
    else w)

end Sys2Proof.Machine
end

