-- ==== Sys2Proof/Machine/Step.lean ====
section
/-! DEFINITION. Sys2Proof/Machine/Step.lean: one step of the module: the next move happens (R2, R15). -/
namespace Sys2Proof.Machine

/-- A move happens: a head issues its next bundle, a committed sequencer store performs, or an event row of the table takes
place. -/
def act (m : Move) (s : State) : Host.Outcome State Fault Refusal :=
  match m with
  | .issue h => issueBundle exec h s
  | .store h i => .next (storeMove h i s)
  | .event i => if isEvent i then exec i s else .fault .slotOperationAsEvent

/-- One step: the first move of the script, or a free one when the script is empty. -/
def step (s : State) : Host.Outcome State Fault Refusal := act s.nextMove s.taken

/-- `s` with a task bound at array 0 whose code is one bundle that holds an instruction of the table, and its head to move
next. The module is past bring-up, and the head has a random word for `rbpop`. -/
def State.withFetchWord (s : State) (nbits w : Nat) : State := s.withBundle (tableBundle nbits w)

end Sys2Proof.Machine
end

