-- ==== Sys2Proof/Safety.lean ====
section
/-! DEFINITION. Sys2Proof/Safety.lean: what the statements call a good state: the forms every state of a run keeps. -/
namespace Sys2Proof.Machine

/-- The four memories are in canonical form: addresses rise, and no zero byte is listed. -/
def State.MemOk (s : State) : Prop :=
  s.mem.sram.wf = true ∧ s.mem.ws.wf = true ∧ s.mem.hbm.wf = true ∧ s.mem.host.wf = true

/-- Every feature bit negotiated is one the device offers (R367, R369). -/
def State.FeatOk (s : State) : Prop := s.mod.featneg &&& s.mod.featoff = s.mod.featneg

/-- The registers of the module block that have a stated range hold a value in it (R367). -/
def State.RangesOk (s : State) : Prop :=
  1 ≤ s.mod.lease ∧ s.mod.lease ≤ 60 ∧ 100 ≤ s.mod.tslice ∧ s.mod.tslice ≤ 100000 ∧ 1 ≤ s.mod.bquant ∧ s.mod.bquant ≤ 10000 ∧
  1 ≤ s.mod.scrubper ∧ s.mod.scrubper ≤ 168 ∧ 8000 ≤ s.mod.plim ∧ s.mod.plim ≤ 24000 ∧ s.mod.modid < 2 ^ 19

end Sys2Proof.Machine
end

