-- ==== Sys2Proof/Certificates/Slice0/Obligations.lean ====
section
/-! DEFINITION. Sys2Proof/Certificates/Slice0/Obligations.lean: the statements about the model. Each is a Prop with the rule of the
spec it comes from; the vocabulary they share stands first. -/
namespace Sys2Proof.Spec
open Sys2Proof Sys2Proof.Machine

/-! ## Words the statements share -/

/-- Instruction `i` at state `s` completes, and leaves `t`. -/
abbrev Completes (i : Instr) (s t : State) : Prop := exec i s = .next t

/-- The bundle at issue commits, and the guard q[qp] XOR qn, read at issue, is 1 (R71, R161). -/
def Performed (s : State) (qp qn : Nat) : Prop :=
  s.phase = .commit ∧ (s.iss.t0.qReg qp ^^ decide (qn = 1)) = true

/-- `s` with nothing changed but one more result in the head's holding buffer: value `v` for `d`, due `lat` bundles after
the one at issue, in the count of its own mode (R34, R173 to R175), ready `lat` core cycles after. No register changes before the
result lands. -/
def later (s : State) (lat : Nat) (d : SDst) (v : DWord) : State :=
  { s with t := { s.t with held := s.t.held ++
    [{ due := (if s.t.sys.tm then s.t.ctl.hcnt else s.t.ctl.bcnt) + lat, handler := s.t.sys.tm, dst := d, val := v,
       ready := s.t.ctl.cyc + lat, pend := none }] } }

/-- SV after a stage shift (R61), `z` being lc0 after the bundle's own effects. -/
def stagesAfter (sv shift : Nat) (z : Word) : Nat :=
  let in_ := if z = 0 then 0 else 1
  if shift = 0 then sv else if shift = 1 then (2 * sv + in_) % 16 else if shift = 2 then in_ else 0

/-- What results `l`, in issue order, leave of a destination: the value of the last that names it. -/
def lastFor (l : List SHeld) (d : SDst) : Option DWord := ((l.filter (fun h => decide (h.dst = d))).getLast?).map (·.val)

/-- `u` is `t` with the results `l` in the registers they name, and nothing of its registers changed besides; q15 keeps reading 1. -/
def Lands (t u : Task) (l : List SHeld) : Prop :=
  (∀ i, u.sReg i = (lastFor l (.s i)).getD (t.sReg i)) ∧
  (∀ i, i ≠ 15 → u.qReg i = match lastFor l (.q i) with | some v => v.getLsbD 0 | none => t.qReg i) ∧
  u.qReg 15 = true ∧
  (∀ i, u.lcReg i = match lastFor l (.lc i) with | some v => v.setWidth 32 | none => t.lcReg i) ∧
  u.r = { t.r with s := u.r.s, q := u.r.q, lc := u.r.lc }

/-- A truth value as a doubleword. -/
def bit (b : Bool) : DWord := if b then 1 else 0

/-- The 23-bit constant of an immediate operation, sign-extended (R164). -/
def sext23 (imm : Nat) : DWord := (BitVec.ofNat 23 imm).signExtend 64
/-- The same, zero-extended. -/
def zext23 (imm : Nat) : DWord := (BitVec.ofNat 23 imm).setWidth 64

/-- Smaller, read signed or unsigned. -/
def below (sgn : Bool) (a b : DWord) : Bool := if sgn then a.slt b else a.ult b

/-- The conditions of R73: eq, ne, lt, le, gt, ge by number. -/
def condition (c : Nat) (sgn : Bool) (a b : DWord) : Prop :=
  (c = 0 ∧ a = b) ∨ (c = 1 ∧ a ≠ b) ∨ (c = 2 ∧ below sgn a b) ∨ (c = 3 ∧ ¬ below sgn b a) ∨ (c = 4 ∧ below sgn b a) ∨
  (5 ≤ c ∧ ¬ below sgn a b)

end Sys2Proof.Spec

open Sys2Proof Sys2Proof.Machine Sys2Proof.Spec

/-! ## The sequencer's arithmetic -/

/-- R163, with the latencies of R173: what every register ALU operation delivers, and that it changes nothing else. -/
def Obligations.RegisterAluResults : Prop :=
  ∀ (u : SeqSlot) (f : FmtSR) (s : State), Performed s f.qp f.qn →
    let A := s.iss.t0.sReg f.a
    let B := s.iss.t0.sReg f.b
    let D := s.iss.t0.sReg f.d
    let signed : Bool := f.k % 2 == 1
    let by_ := B.toNat % 64
    let gives (i : Instr) (lat : Nat) (v : DWord) : Prop := Completes i s (later s lat (.s f.d) v)
    gives (.add u f) 1 (A + B) ∧ gives (.sub u f) 1 (A - B) ∧ gives (.mul u f) 3 (A * B) ∧
    gives (.mulh u f) 3 (if signed then (A.signExtend 128 * B.signExtend 128).extractLsb' 64 64
      else (A.setWidth 128 * B.setWidth 128).extractLsb' 64 64) ∧
    gives (.div u f) 12 (if B = 0 then BitVec.allOnes 64 else if signed then A.sdiv B else A.udiv B) ∧
    gives (.rem u f) 12 (if signed then A.srem B else A.umod B) ∧
    gives (.and u f) 1 (A &&& B) ∧ gives (.or u f) 1 (A ||| B) ∧ gives (.xor u f) 1 (A ^^^ B) ∧
    gives (.shl u f) 1 (A * BitVec.ofNat 64 (2 ^ by_)) ∧
    gives (.shr u f) 1 (if signed then A.sshiftRight by_ else BitVec.ofNat 64 (A.toNat / 2 ^ by_)) ∧
    gives (.min u f) 1 (if below signed B A then B else A) ∧ gives (.max u f) 1 (if below signed B A then A else B) ∧
    (∃ v, gives (.clz u f) 1 v ∧ (A = 0 → v = 64) ∧ (A ≠ 0 → v.toNat < 64 ∧ A.toNat / 2 ^ (63 - v.toNat) = 1)) ∧
    gives (.popc u f) 1 (BitVec.ofNat 64 ((List.range 64).countP (fun i => A.getLsbD i))) ∧
    gives (.sel u f) 1 (if (s.iss.t0.qReg (f.k % 16) ^^ bitAt f.k 4) then A else B) ∧ ((Instr.sel u f).wf = true → bitAt f.k 5 = false) ∧
    gives (.addsc u f) 1 (A + B * BitVec.ofNat 64 (2 ^ f.k)) ∧
    (∃ v, gives (.bfx u f) 1 v ∧ ∀ i < 64, v.getLsbD i = (decide (i < f.k + 1) && A.getLsbD (by_ + i))) ∧
    (∃ v, gives (.bfi u f) 1 v ∧
      ∀ i < 64, v.getLsbD i = if by_ ≤ i ∧ i < by_ + (f.k + 1) then A.getLsbD (i - by_) else D.getLsbD i)

/-- R164, with the latencies of R173: what every immediate ALU operation delivers, and that it changes nothing else. -/
def Obligations.ImmediateAluResults : Prop :=
  ∀ (u : SeqSlot) (f : FmtSI) (s : State), Performed s f.qp f.qn →
    let A := s.iss.t0.sReg f.a
    let by_ := f.imm % 64
    let gives (i : Instr) (lat : Nat) (v : DWord) : Prop := Completes i s (later s lat (.s f.d) v)
    gives (.addi u f) 1 (A + sext23 f.imm) ∧ gives (.muli u f) 3 (A * sext23 f.imm) ∧ gives (.andi u f) 1 (A &&& sext23 f.imm) ∧
    gives (.ori u f) 1 (A ||| zext23 f.imm) ∧ gives (.xori u f) 1 (A ^^^ zext23 f.imm) ∧
    gives (.shli u f) 1 (A * BitVec.ofNat 64 (2 ^ by_)) ∧
    gives (.shri u f) 1 (if f.imm / 64 % 2 = 1 then A.sshiftRight by_ else BitVec.ofNat 64 (A.toNat / 2 ^ by_)) ∧
    gives (.movi u f) 1 (sext23 f.imm) ∧ gives (.movh u f) 1 (A * BitVec.ofNat 64 (2 ^ 23) + zext23 f.imm)

/-- R165, with the latency of R173: compares and predicate logic. What lands in q15 takes no effect. -/
def Obligations.CompareAndPredicateResults : Prop :=
  ∀ (u : SeqSlot) (f : FmtSR) (g : FmtSI) (s : State),
    (Performed s f.qp f.qn →
      let q (i : Nat) : Bool := s.iss.t0.qReg i
      let gives (i : Instr) (v : Bool) : Prop := Completes i s (later s 1 (.q f.d) (bit v))
      (∃ v, gives (.cmp u f) v ∧ (v = true ↔ condition (f.k % 8) (bitAt f.k 3) (s.iss.t0.sReg f.a) (s.iss.t0.sReg f.b))) ∧
      gives (.qand u f) (q f.a && q f.b) ∧ gives (.qor u f) (q f.a || q f.b) ∧ gives (.qxor u f) (q f.a ^^ q f.b) ∧
      gives (.qnot u f) (!q f.a)) ∧
    ((Instr.cmp u f).wf = true → f.d < 16 ∧ f.k / 16 = 0) ∧ ((Instr.cmpi u g).wf = true → g.d < 16) ∧
    (∀ t : Task, t.land.qReg 15 = true) ∧
    (Performed s g.qp g.qn →
      let sgn := bitAt g.imm 19
      let I : DWord := if sgn then (BitVec.ofNat 19 g.imm).signExtend 64 else (BitVec.ofNat 19 g.imm).setWidth 64
      ∃ v, Completes (.cmpi u g) s (later s 1 (.q g.d) (bit v)) ∧
        (v = true ↔ condition (g.imm / 2 ^ 20 % 8) sgn (s.iss.t0.sReg g.a) I))

namespace Sys2Proof.Spec

/-- The guard fields of an operation of SA or SB (R70, R71). -/
def guardFields (i : Instr) : Option (Nat × Nat) :=
  match i with
  | .add _ f | .sub _ f | .mul _ f | .mulh _ f | .div _ f | .rem _ f | .and _ f | .or _ f | .xor _ f | .shl _ f | .shr _ f |
    .min _ f | .max _ f | .clz _ f | .popc _ f | .sel _ f | .addsc _ f | .cmp _ f | .bfx _ f | .bfi _ f | .qand _ f |
    .qor _ f | .qxor _ f | .qnot _ f => some (f.qp, f.qn)
  | .addi _ f | .muli _ f | .andi _ f | .ori _ f | .xori _ f | .shli _ f | .shri _ f | .movi _ f | .movh _ f | .cmpi _ f =>
    some (f.qp, f.qn)
  | .sld _ f | .sst _ f => some (f.qp, f.qn)
  | .samo _ f => some (f.qp, f.qn)
  | .br f | .call f | .ret f | .brx f | .bagg f | .loop f => some (f.qp, f.qn)
  | .loopi f | .mfs f | .mts f | .ftset f | .mskset f | .rot f | .stage f | .fpclr f | .dset f | .trap f | .brk f | .eret f |
    .done f | .twait f | .tstat f | .rwait f | .rfree f | .radv f | .semw f | .semsig f | .bar f | .fence f | .rel f | .acq f |
    .launch f | .trig f | .evpop f => some (f.qp, f.qn)
  | _ => none

/-- The operations of the slots whose effect lies in the cells (R24). -/
def inCells (i : Instr) : Bool :=
  match i with
  | .vadd .. | .vsub .. | .vmul .. | .vmulh .. | .vmad .. | .vand .. | .vor .. | .vxor .. | .vshl .. | .vshr .. | .vsar .. |
    .vmin .. | .vmax .. | .vabs .. | .vclz .. | .vpopc .. | .vadds .. | .vsubs .. | .vcmp .. | .vfadd .. | .vfsub .. |
    .vfmul .. | .vfma .. | .vfmin .. | .vfmax .. | .vfabs .. | .vfneg .. | .vfcmp .. | .vfclass .. | .vrcp .. | .vrsq .. |
    .vsqrt .. | .vexp2 .. | .vlog2 .. | .vtanh .. | .vcvt .. | .vcvti .. | .vcvtf .. | .vpack .. | .vmxs .. | .vunpk .. |
    .vcmpr .. | .vmov .. | .vmovi .. | .vsel .. | .vperm .. | .vshuf .. | .vbcast .. | .vred .. | .vcoord .. | .pand .. |
    .por .. | .pxor .. | .pnot .. | .pset .. | .pflag .. | .mma .. | .mmas .. | .mmaz .. | .aclr .. | .ald .. | .ast .. |
    .adrn .. | .ascl .. | .aadd .. | .ldv .. | .stv .. | .ldt .. | .movx .. | .movxp .. | .ldsp .. | .stsp .. | .gthl .. |
    .sctl .. | .ldb .. => true
  | _ => false

/-- The drain, which also fills a row at the edge. -/
def isDrain (i : Instr) : Bool := match i with | .adrn _ => true | _ => false

/-- A result in the holding buffer falls due at the bundle a task issues next (R34, R175). -/
abbrev due (t : Task) (h : SHeld) : Prop :=
  h.handler = t.sys.tm ∧ h.due ≤ if t.sys.tm then t.ctl.hcnt else t.ctl.bcnt

/-- No running head stands at an earlier core cycle than the head of `t`: one clock runs them all (R188; log entry 7). -/
abbrev InStep (s : State) (t : Task) : Prop := ∀ e ∈ s.tasks, e.2.ctl.running = true → t.ctl.now ≤ e.2.ctl.now

/-- The head at array `h` issues bundle `b` of task `t` in the step from `s`: every result due is there, and no word of the sequencer's
state has an error. -/
def Issues (s : State) (h : Nat) (t : Task) (b : Bundle) : Prop :=
  s.nextMove = .issue h ∧ s.taken.taskAt h = some t ∧ InStep s t ∧ s.part.throttle = false ∧ s.taken.mayIssue t = true ∧
  (∀ x ∈ t.held, due t x → x.pend = none) ∧ t.errs = [] ∧ t.prog.code[t.ctl.pc]? = some b

/-- The issue of a bundle opens: results due land, and what the other checks take from the header and cell control is noted, whether or not
these fail for their reserved bits: the masks and the stage shift (R29, R30, R61, R86). -/
def opened (s : State) (t : Task) (b : Bundle) : State :=
  let o := s.taken.openIssue t
  let H := slotBits b .h
  { o with iss := { o.iss with
      fl := { o.iss.fl with rm := t.land.rmReg (bitsAt H 0 4), cm := t.land.cmReg (bitsAt H 4 4), pm := t.land.pmReg (bitsAt H 8 4) }
      sshift := bitsAt (slotBits b .cc) 12 2 } }

end Sys2Proof.Spec

open Sys2Proof Sys2Proof.Machine Sys2Proof.Spec

/-! ## Issue: checks, waits, traps, and the landing of results -/

/-- R161: an operation whose guard is 0 has no effect; it neither waits nor changes anything. -/
def Obligations.GuardOffHasNoEffect : Prop :=
  ∀ (i : Instr) (s : State) (qp qn : Nat), guardFields i = some (qp, qn) →
    (s.iss.t0.qReg qp ^^ decide (qn = 1)) = false → s.phase ≠ .check → Completes i s s

/-- R86, R87, R211: the checks of a bundle change nothing but their own notes, and while a bundle waits no operation of it writes a
register, a cell, a ring, a token, a random word or a byte of the memories of the device; an arrival at a barrier, which SA's access of the
bundle goes before (R208), is stated apart (BarriersCountArrivals). -/
def Obligations.ChecksAndWaitsTakeNoEffect : Prop :=
  (∀ (i : Instr) (s : State), isEvent i = false → s.phase = .check → ∃ q : Issue, Completes i s { s with iss := q }) ∧
  (∀ (i : Instr) (s s' : State), isEvent i = false → s.phase = .wait → (∀ f, i = .bar f → s.iss.sstA = none) → exec i s = .next s' →
      s'.t.r = s.t.r ∧ s'.t.held = s.t.held ∧ s'.t.sys = s.t.sys ∧ s'.t.rng = s.t.rng ∧ s'.t.tok = s.t.tok ∧
      s'.t.evq = s.t.evq ∧ s'.t.rings = s.t.rings ∧ s'.t.dq = s.t.dq ∧ s'.t.pstores = s.t.pstores ∧ s'.t.cells = s.t.cells ∧
      s'.t.pos = s.t.pos ∧ s'.t.flights = s.t.flights ∧ s'.t.ctl.pc = s.t.ctl.pc ∧ s'.t.ctl.bcnt = s.t.ctl.bcnt ∧
      s'.mem.sram = s.mem.sram ∧ s'.mem.ws = s.mem.ws ∧ s'.mem.hbm = s.mem.hbm ∧ s'.eng = s.eng ∧ s'.ram = s.ram)

/-- R24, R27: in a cell that executes a bundle, an operation changes that cell and the flags of the bundle alone; what stands
in the other slots does nothing there; and what the cell performs is the operation's own meaning. -/
def Obligations.CellPartStaysInItsCell : Prop :=
  ∀ (i : Instr) (s : State), isEvent i = false → s.phase = .cell →
    (inCells i = true → isDrain i = false → ∃ (c : Cell) (fl : Flight), Completes i s { s with cr := { s.cr with cell := c, fl := fl } }) ∧
    (isDrain i = true → ∃ (c : Cell) (fl : Flight) (p : FMap Pos),
      Completes i s { s with t := { s.t with pos := p }, cr := { s.cr with cell := c, fl := fl } }) ∧
    (inCells i = false → Completes i s s) ∧ cellPart i s = exec i s

/-- R34, R174, R175: at the bundle a task issues next, exactly the results due land, the last of them in issue order for each
register; q15 keeps reading 1; the results not due stay, and the masks, the format table and everything else of the task
stand. -/
def Obligations.ResultsLandWhenDue : Prop :=
  ∀ t : Task,
    Lands t t.land (t.held.filter (fun h => decide (due t h))) ∧
    (∀ h, h ∈ t.land.held ↔ h ∈ t.held ∧ ¬ due t h) ∧ (∀ e ∈ t.land.errs, e ∈ t.errs) ∧
    t.land = { t with r := t.land.r, held := t.land.held, errs := t.land.errs }

/-- R87: of several failing checks the lowest source is reported, with its lowest kind; the mask names every failing source. -/
def Obligations.TrapNamesTheLowestSource : Prop :=
  ∀ l : List Fail, l ≠ [] → (∀ g ∈ l, g.source ≤ 8 ∧ g.kind ≤ 15) →
    ∃ (f : Fail) (mask : Nat), chooseTrap l = some (f, mask) ∧ f ∈ l ∧ (∀ g ∈ l, f.source ≤ g.source) ∧
      (∀ g ∈ l, g.source = f.source → f.kind ≤ g.kind) ∧ mask < 2 ^ 9 ∧
      ∀ i < 9, (mask.testBit i = true ↔ ∃ g ∈ l, g.source = i)

/-- R87, R338: a bundle with a failing check traps as a whole. The task's count stands, no slot takes effect, `$cause`, `$tval`,
`$fmask` and `$epc` name the failure, and the handler's first bundle is next. How the module's cycle follows the heads' is the model's
choice (log entry 7). -/
def Obligations.FailedBundleTrapsAsAWhole : Prop :=
  ∀ (s : State) (h : Nat) (t : Task) (b : Bundle) (c : State), Issues s h t b → t.sys.tm = false → t.prog.hdr.trapv = true →
    runOps exec (bundleOps t.land b issueOrder) (opened s t b) = .next c →
    let l := bundleFails b false ++ decodeFails b ++ c.iss.fails
    l ≠ [] → (∀ g ∈ l, g.source ≤ 8 ∧ g.kind ≤ 15) →
    ∃ (f : Fail) (mask : Nat), chooseTrap l = some (f, mask) ∧
      step s = .next { s.taken with
        cycle := max s.cycle (t.ctl.now + 1)
        tasks := finsert s.tasks t.id.uid { t.land with
          sys := { t.sys with cause := BitVec.ofNat 64 (f.kind + 16 * f.source + if f.repl then 512 else 0), tval := f.tval,
                              fmask := BitVec.ofNat 64 mask, epc := BitVec.ofNat 64 t.ctl.pc, tm := true }
          ctl := { t.ctl with pc := t.prog.hdr.trapvec, cyc := t.ctl.cyc + 1, now := t.ctl.now + 1, early := none } }
        t := default, iss := default, cr := default, phase := .check }

/-- R338, R341: taking a trap saves the address and the cause, sets the fault mask and trap mode, and goes to the handler; a task
without a handler, or in trap mode already, ends its context by the fault instead, and nothing else changes. `eret` lands every handler
result, leaves trap mode and resumes at `$epc`; where `$epc` lies outside the code, the context ends, still in trap mode. -/
def Obligations.TrapEntryAndReturn : Prop :=
  (∀ (s : State) (code : Nat) (repl : Bool) (tval : DWord) (fmask epc : Nat),
      (s.t.sys.tm = false → s.t.prog.hdr.trapv = true →
        s.takeTrap code repl tval fmask epc = { s with t := { s.t with
          sys := { s.t.sys with cause := BitVec.ofNat 64 (code + if repl then 512 else 0), tval := tval, fmask := BitVec.ofNat 64 fmask,
                                epc := BitVec.ofNat 64 epc, tm := true }
          ctl := { s.t.ctl with pc := s.t.prog.hdr.trapvec, early := none } } }) ∧
      ((s.t.sys.tm = true ∨ s.t.prog.hdr.trapv = false) →
        ∃ c : Ctx, s.takeTrap code repl tval fmask epc = { s with ctxs := finsert s.ctxs s.t.id.ctx c } ∧
          c = { s.ctx s.t.id.ctx with ffault := c.ffault } ∧ c.ffault.isSome ∧
          ((s.ctx s.t.id.ctx).ffault = none →
            c.ffault.map (·.epc) = some (if s.t.sys.tm then s.iss.addr else epc) ∧
            c.ffault.map (·.cause) = some (code + if repl then 512 else 0) ∧ c.ffault.map (·.fmask) = some fmask))) ∧
  (∀ s : State,
      let t := s.t.landHandler
      Lands s.t t (s.t.held.filter (·.handler)) ∧ t.held = s.t.held.filter (fun h => !h.handler) ∧ (∀ e ∈ t.errs, e ∈ s.t.errs) ∧
      t = { s.t with r := t.r, held := t.held, errs := t.errs } ∧
      (s.t.sys.epc.toNat < s.t.prog.hdr.codesz →
        s.leaveTrap = { s with t := { t with sys := { s.t.sys with tm := false }, ctl := { s.t.ctl with pc := s.t.sys.epc.toNat } } }) ∧
      (s.t.prog.hdr.codesz ≤ s.t.sys.epc.toNat →
        s.leaveTrap.t = t ∧ ((s.leaveTrap.ctx s.t.id.ctx).ffault).isSome ∧ s.leaveTrap.mem = s.mem))

/-! ## The step -/

/-- R25, R86, R211: a step in which a head issues reads the bundle at the program counter, decodes every slot, and performs
exactly the operations decoded, in issue order: their checks, then, if none fails, their waits, then, if none waits, their
effects, after which the bundle is closed. A bundle that must wait, for an operation of its own, for a result due that is not ready or for
an edge load that is late (R35, R177, R206), issues nothing: one core cycle passes. What a load of SA reads while SB waits is log entry 8. -/
def Obligations.StepRunsTheDecodedBundle : Prop :=
  ∀ (s : State) (h : Nat) (t : Task) (b : Bundle) (is : Slot → List Instr) (c w : State), Issues s h t b →
    (∀ k, slotOps b k = .ok (is k)) →
    let o := opened s t b
    let ops := issueOrder.flatMap (fun k => (is k).map (fun i => (BitVec.ofNat 64 (slotBits b k), resolveOp t.land i)))
    (∀ k ∈ issueOrder, k ≠ .cc → ∃ i, decodeSlot k (slotBits b k) = .ok i ∧ is k = [i]) ∧ is .cc = ccOps (slotBits b .cc) ∧
    (runOps exec ops o = .next c → bundleFails b t.sys.tm = [] → c.iss.fails = [] →
      runOps exec ops { c with phase := .wait } = .next w →
      let notReady : Prop := w.t.sys.tm = false ∧
        ((∃ r ∈ w.t.ready, r.1 ≤ w.t.ctl.bcnt ∧ w.t.ctl.cyc < r.2) ∨
         ∃ e ∈ w.t.pos, ∃ x ∈ e.2.ld, x.inst.n + (if w.t.prog.hdr.latcls = 1 then 4 else 6) ≤ w.t.ctl.bcnt)
      (w.iss.stall = true ∨ notReady → step s = .next w.noteEarly.bubble.finishStep ∧
        w.noteEarly = { w with t := { w.t with ctl := { w.t.ctl with early := w.noteEarly.t.ctl.early } } }) ∧
      (w.iss.stall = false → ¬ notReady → w.iss.fails = [] →
        ∀ d, runOps exec ops { w with phase := .commit } = .next d →
          step s = .next (if d.iss.ended then d.closeIssue.endTask else d.closeIssue.finishStep)) ∧
      (w.iss.stall = false → ¬ notReady → w.iss.fails ≠ [] → step s = .next (w.trapBundle w.iss.fails).finishStep)) ∧
    (∀ (x : DWord) (i : Instr) (r : List (DWord × Instr)) (u v : State),
      exec i { u with iss := { u.iss with slot := x } } = .next v → runOps exec ((x, i) :: r) u = runOps exec r v)

/-- R15: a step in which another agent moves is the row of the table itself. The script is the model's own (log entry 1); a
slot operation offered as such a step is no step of the device, and the model stops on it by name. -/
def Obligations.StepPerformsTheEvent : Prop :=
  ∀ (s : State) (i : Instr), s.nextMove = .event i →
    step s = (if isEvent i then exec i s.taken else .fault .slotOperationAsEvent) ∧
    (∀ m rest, s.script = m :: rest → s.taken = { s with script := rest, free := s.free + 1 } ∧ s.nextMove = m)

/-- R33, R60, R61, R166, R340: what closing a bundle does to its task: the next address, the counts, the rotation base of a CC `rot` or the
size that `rot` sets, and SV after the stage shift. A handler bundle does not count. `eret` then lands every handler result, leaves trap mode
and goes on at `$epc`, or ends the context where that lies outside the code. How the module's cycle follows the heads' is the
model's choice (log entry 7). -/
def Obligations.ClosingABundle : Prop :=
  (∀ s : State, s.iss.after = none → s.iss.eret = true →
    let d := ({ s with iss := { s.iss with eret := false } } : State).closeIssue.t
    ∃ u : Task, Lands d u (d.held.filter (·.handler)) ∧ u.held = d.held.filter (fun h => !h.handler) ∧
      u = { d with r := u.r, held := u.held, errs := u.errs } ∧
      (d.sys.epc.toNat < d.prog.hdr.codesz →
        s.closeIssue.t = { u with sys := { d.sys with tm := false }, ctl := { d.ctl with pc := d.sys.epc.toNat } }) ∧
      (d.prog.hdr.codesz ≤ d.sys.epc.toNat → s.closeIssue.t = u ∧ ((s.closeIssue.ctx d.id.ctx).ffault).isSome) ∧
      s.closeIssue.mem = s.mem ∧ s.closeIssue.eng = s.eng) ∧
  ∀ s : State, s.iss.after = none → s.iss.eret = false →
    let i := s.iss
    let tm := i.t0.sys.tm
    let y := s.t.sys
    s.closeIssue.t = { s.t with
      sys := { y with
        rotsz := match i.rotTo with | some n => n | none => y.rotsz
        rotbase := match i.rotTo with
          | some _ => 0
          | none => if i.rotcc = true ∧ y.rotsz ≠ 0 then (y.rotbase + y.rotsz - 1) % y.rotsz else y.rotbase
        sv := stagesAfter y.sv i.sshift i.z }
      flights := if tm then s.t.flights else s.t.flights ++ [i.fl]
      ready := if tm then s.t.ready else s.t.ready.filter (fun r => decide (i.n < r.1))
      ctl := { s.t.ctl with
        waiting := .none, yieldable := false, early := none, pc := i.target.getD (i.addr + 1)
        cyc := s.t.ctl.cyc + 1, now := s.t.ctl.now + 1
        bcnt := if tm then s.t.ctl.bcnt else s.t.ctl.bcnt + 1, hcnt := if tm then s.t.ctl.hcnt + 1 else s.t.ctl.hcnt } } ∧
    s.closeIssue.cycle = max s.cycle (s.t.ctl.now + 1) ∧ s.closeIssue.mem = s.mem ∧ s.closeIssue.ctxs = s.ctxs ∧ s.closeIssue.eng = s.eng

namespace Sys2Proof.Spec

/-- The sum of a register, unsigned, and an offset (R74). -/
def plus (s : State) (base : Nat) (off : Int) : Int := ((s.iss.t0.sReg base).toNat : Int) + off

/-- No word among `n` bytes of the head die's shared SRAM has a storage error (R354, R355). -/
def soundAt (s : State) (die off n : Nat) : Prop :=
  ∀ x ∈ s.mem.sramErr, ¬ (die * 2 ^ 27 + off < 8 * x.1 + 8 ∧ 8 * x.1 < die * 2 ^ 27 + off + n)

/-- `s` with one more result held for s[d], which a load numbered `tag` delivers once it performs (R173, R183). -/
def laterLoad (s : State) (d tag : Nat) : State :=
  { s with t := { s.t with held := s.t.held ++
    [{ due := (if s.t.sys.tm then s.t.ctl.hcnt else s.t.ctl.bcnt) + 5, handler := s.t.sys.tm, dst := .s d, val := 0,
       ready := s.t.ctl.cyc + 5, pend := some tag }] } }

/-- What SA's access of the bundle at issue has read, where it performed with the bundle's arrival at a barrier (R208, R308). -/
def arrivedValue (s : State) (u : SeqSlot) : Option DWord :=
  match s.t.ctl.own with
  | some d => if u = .sa ∧ d.at_ = s.iss.addr ∧ d.hand = s.t.sys.tm then some d.val else none
  | none => none

/-- `u` is `s` after the load `p` of SA of the bundle at issue has performed: the result that waits for it has its bytes, zero-extended. -/
def SaLoaded (s u : State) (p : PStore) : Prop :=
  ∃ v : DWord, (∀ i < 8, v.extractLsb' (8 * i) 8 = if i < p.size then rdByte s.mem.sram (s.t.die * 2 ^ 27 + p.addr + i) else 0) ∧
    u = { s with t := { s.t with
      pstores := s.t.pstores.filter (fun q => q.ld != p.ld)
      held := s.t.held.map (fun h => if h.pend = p.ld then { h with val := v, pend := none } else h) } }

/-- SA of the bundle at issue holds a load that an earlier access of the task comes before (R205). -/
def SaHeldBack (s : State) : Prop :=
  ∃ p, s.iss.sstA = some p ∧ p.ld ≠ none ∧
    ((∃ q ∈ s.t.pstores, q.oc = p.oc ∨ (q.addr < p.addr + p.size ∧ p.addr < q.addr + q.size)) ∨
     ∃ e ∈ s.t.pos, s.t.dieAt e.1 = s.t.die ∧ ∃ w, (w ∈ e.2.ld ∨ w ∈ e.2.st) ∧ w.inst.n < s.iss.n ∧ (∀ h, w.inst.op ≠ .ews h) ∧
       w.inst.oc = p.oc)

/-- Byte `b` of shared SRAM once `p`, a store of the head of die `die`, has performed. -/
def stored (m : Mem) (die : Nat) (p : PStore) (b : Nat) : Byte :=
  if p.ld = none ∧ die * 2 ^ 27 + p.addr ≤ b ∧ b < die * 2 ^ 27 + p.addr + p.size
  then BitVec.ofNat 8 (p.val.toNat / 256 ^ (b - (die * 2 ^ 27 + p.addr))) else rdByte m b

/-- Byte `b` of shared SRAM once SA's access of the bundle at issue has performed (R71). -/
def afterSa (s : State) (b : Nat) : Byte :=
  match s.iss.sstA with | some p => stored s.mem.sram s.t.die p b | none => rdByte s.mem.sram b

/-- Z of R168: bytes of a task's overflow region. -/
def overflowRegion (s : State) (t : Task) : Nat := (s.useEntry t.id.ctx t.prog.hdr.stkbuf).size / t.id.setsize / 8 * 8

/-- SAMO of R183. -/
def atomicNew (amo : Nat) (old d v : DWord) : DWord :=
  if amo = 0 then old + v else if amo = 1 then old &&& v else if amo = 2 then old ||| v else if amo = 3 then old ^^^ v
  else if amo = 4 then (if old.slt v then old else v) else if amo = 5 then (if old.slt v then v else old)
  else if amo = 6 then (if old.ult v then old else v) else if amo = 7 then (if old.ult v then v else old)
  else if amo = 8 then v else if old = d then v else old

/-- The next bundle is at address `T`. -/
def goesTo (s : State) (T : Int) : State := { s with iss := { s.iss with target := some T.toNat } }

/-- What `mfs` of register `n` reads (R56 to R58), as the machine stands at issue. -/
def systemRegister (s : State) (n : Nat) : DWord :=
  let t := s.iss.t0
  let y := t.sys
  let k (v : Nat) : DWord := BitVec.ofNat 64 v
  let flag (b : Bool) (at_ : Nat) : Nat := if b then 2 ^ at_ else 0
  if n = 0 then k t.id.taskid else if n = 1 then k t.id.idx else if n = 2 then k t.id.setsize else if n = 3 then k t.id.head
  else if n = 4 then k (t.id.head / 2) else if n = 5 then 0 else if n = 6 then k t.prog.hdr.chain else if n = 7 then t.id.dom
  else if n = 8 then k (t.prog.hdr.latcls + flag y.il 8) else if n = 9 then k t.ctl.cyc else if n = 0xA then k t.ctl.bcnt
  else if n = 0xB then y.fpf else if n = 0xC then y.fpev else if n = 0x10 then y.cause else if n = 0x11 then y.epc
  else if n = 0x12 then y.tval else if n = 0x13 then y.fmask
  else if n = 0x14 then k (flag y.tm 0 + flag y.il 1 + flag y.sm 2 + flag y.feven 3 + flag y.stovf 4 + flag y.evovf 5 +
    y.sv * 2 ^ 8 + y.rotbase * 2 ^ 22 + y.rotsz * 2 ^ 33)
  else if n = 0x18 then k (t.id.ctx + (s.ctx t.id.ctx).fn * 2 ^ 8 + (s.ctx t.id.ctx).pcap * 2 ^ 16)
  else if n = 0x19 then s.mod.featneg.extractLsb' 0 64 else if n = 0x1A then s.mod.featneg.extractLsb' 64 64
  else if n = 0x1C then k (t.ctl.now % 16384 + t.ctl.now % 16384 / 256 * 2 ^ 18 + 32 * 2 ^ 24)
  else if 0x40 ≤ n then k (s.part.seamlat.getD (n - 0x40) 0) else 0

/-- The system registers of the task after a change. -/
def withSys (s : State) (y : SysRegs) : State := { s with t := { s.t with sys := y } }

end Sys2Proof.Spec

open Sys2Proof Sys2Proof.Machine Sys2Proof.Spec

/-! ## The sequencer's memory operations -/

/-- R71, R183, R205, R211: `sld` leaves a result due after 5 bundles and an access that performs in a step of its own, which reads its
1, 2, 4 or 8 bytes, zero-extended; a load of SA that SB does not order may have read while SB waited (log entry 8). `samo` reads and writes a
doubleword in one step, the old value due after 8; it waits for the task's earlier accesses to its bytes or of its class. Where SA of the
same bundle accesses memory, every earlier access is waited for, and SA's performs first. Every other byte of shared SRAM, and everything
else, stands. An access of SA that performed with its bundle's arrival at a barrier is not made again. Storage errors are another statement's
matter. -/
def Obligations.SequencerLoadsAndAtomics : Prop :=
  ∀ (u : SeqSlot) (f : FmtSM) (g : FmtSA) (s : State),
    (s.iss.sstA = none → s.performOwn = s) ∧
    (∀ q p, s.iss.sstA = some q → s.t.pstores = [p] → soundAt s s.t.die p.addr p.size →
      ∃ (m : Mem) (l : List SHeld), s.performOwn = { s with mem := { s.mem with sram := m }, t := { s.t with pstores := [], held := l } } ∧
        (∀ b, rdByte m b = stored s.mem.sram s.t.die p b) ∧ (p.ld = none → l = s.t.held)) ∧
    ((s.iss.t0.qReg f.qp ^^ decide (f.qn = 1)) = true →
      let a := (plus s f.base (BitVec.ofNat 17 f.off).toInt).toNat
      let p : PStore :=
        { n := s.iss.n, at_ := s.iss.addr, src := if u = .sa then 0 else 1, addr := a, size := 2 ^ f.size, oc := f.oc, val := 0,
          ld := some s.t.ctl.accNo, rmw := false, hand := s.iss.t0.sys.tm }
      (s.phase = .wait → Completes (.sld u f) s
        (if u = .sa ∧ arrivedValue s u = none then { s with iss := { s.iss with sstA := some p } } else s)) ∧
      (s.phase = .commit → arrivedValue s u = none → s.t.ctl.early = none ∨ u = .sb →
        Completes (.sld u f) s { s with t := { (laterLoad s f.d s.t.ctl.accNo).t with
          pstores := s.t.pstores ++ [p], ctl := { s.t.ctl with accNo := s.t.ctl.accNo + 1 } } }) ∧
      (s.phase = .commit → ∀ v, (arrivedValue s u = some v ∨ (arrivedValue s u = none ∧ u = .sa ∧ s.t.ctl.early = some v)) →
        Completes (.sld u f) s (later s 5 (.s f.d) v))) ∧
    (∀ (head idx : Nat) (t : Task) (p : PStore) (tag : Nat), s.taskAt head = some t → t.pstores[idx]? = some p → p.ld = some tag →
      t.storeReady idx = true → soundAt s t.die p.addr p.size → p.size ≤ 8 → s.t = default →
      ∃ v : DWord, storeMove head idx s = { s with tasks := finsert s.tasks t.id.uid { t with
          pstores := t.pstores.eraseIdx idx
          held := t.held.map (fun h => if h.pend = some tag then { h with val := v, pend := none } else h) } } ∧
        ∀ i < 8, v.extractLsb' (8 * i) 8 = if i < p.size then rdByte s.mem.sram (t.die * 2 ^ 27 + p.addr + i) else 0) ∧
    ((s.iss.t0.qReg g.qp ^^ decide (g.qn = 1)) = true → s.phase = .wait → u = .sb →
      let a := (plus s g.base ((BitVec.ofNat 9 g.off).toInt * 8)).toNat
      let sa : Prop := s.iss.sstA.isSome = true
      ∃ q : Bool, Completes (.samo u g) s { s with iss := { s.iss with stall := q } } ∧ (q = true ↔ s.iss.stall = true ∨
        (∃ p ∈ s.t.pstores, sa ∨ p.oc = g.oc ∨ (p.addr < a + 8 ∧ a < p.addr + p.size)) ∨
        ∃ e ∈ s.t.pos, s.t.dieAt e.1 = s.t.die ∧ ∃ w, (w ∈ e.2.ld ∨ w ∈ e.2.st) ∧ w.inst.n < s.iss.n ∧ (∀ h, w.inst.op ≠ .ews h) ∧
          (sa ∨ w.inst.oc = g.oc))) ∧
    (Performed s g.qp g.qn → ∀ v, arrivedValue s u = some v → Completes (.samo u g) s (later s 8 (.s g.d) v)) ∧
    (Performed s g.qp g.qn → arrivedValue s u = none →
      let a := (plus s g.base ((BitVec.ofNat 9 g.off).toInt * 8)).toNat
      let k := s.iss.t0.die * 2 ^ 27 + a
      let p := s.performOwn
      soundAt p s.iss.t0.die a 8 →
      ∃ (old : DWord) (m : Mem) (e : FMap Nat),
        Completes (.samo u g) s (later { p with mem := { p.mem with sram := m, sramErr := e } } 8 (.s g.d) old) ∧
        (∀ i < 8, old.extractLsb' (8 * i) 8 = rdByte p.mem.sram (k + i)) ∧
        (∀ i < 8, rdByte m (k + i) = (atomicNew g.amo old (s.iss.t0.sReg g.d) (s.iss.t0.sReg g.value)).extractLsb' (8 * i) 8) ∧
        (∀ b, b < k ∨ k + 8 ≤ b → rdByte m b = rdByte p.mem.sram b))

/-- R71, R183, R204: `sst` commits the low bytes of s[d], read at issue, for the address s[base] + SEXT(off, 17); it stores nothing yet,
and nothing else changes; in SA it tells SB of itself, and so does `samo`, which SB meets as the store it makes; one that has performed with its bundle's arrival at a barrier
does neither again. When the store performs,
in a step of its own, it writes exactly those bytes of the head die's shared SRAM: every other byte of every memory stands, and the store
leaves the list. -/
def Obligations.SequencerStoresCommitThenPerform : Prop :=
  (∀ (u : SeqSlot) (f : FmtSM) (s : State), (s.iss.t0.qReg f.qp ^^ decide (f.qn = 1)) = true →
    let p : PStore :=
      { n := s.iss.n, at_ := s.iss.addr, src := if u = .sa then 0 else 1,
        addr := (plus s f.base (BitVec.ofNat 17 f.off).toInt).toNat, size := 2 ^ f.size, oc := f.oc, val := s.iss.t0.sReg f.d, ld := none,
        rmw := false, hand := s.iss.t0.sys.tm }
    (s.phase = .commit → Completes (.sst u f) s (if arrivedValue s u = none then { s with t := { s.t with pstores := s.t.pstores ++ [p] } } else s)) ∧
    (s.phase = .wait → Completes (.sst u f) s
      (if u = .sa ∧ arrivedValue s u = none then { s with iss := { s.iss with sstA := some p } } else s))) ∧
  (∀ (g : FmtSA) (s : State), (s.iss.t0.qReg g.qp ^^ decide (g.qn = 1)) = true → s.phase = .wait →
    (arrivedValue s .sa ≠ none → Completes (.samo .sa g) s s) ∧
    (arrivedValue s .sa = none →
      let a := (plus s g.base ((BitVec.ofNat 9 g.off).toInt * 8)).toNat
      ∃ (old : DWord) (q : Bool), (∀ i < 8, old.extractLsb' (8 * i) 8 = rdByte s.mem.sram (s.iss.t0.die * 2 ^ 27 + a + i)) ∧
      Completes (.samo .sa g) s { s with iss := { s.iss with
        stall := q
        sstA := some ⟨s.iss.n, s.iss.addr, 0, a, 8, g.oc, atomicNew g.amo old (s.iss.t0.sReg g.d) (s.iss.t0.sReg g.value), none,
          true, s.iss.t0.sys.tm⟩ } })) ∧
  (∀ (s : State) (head idx : Nat) (t : Task) (p : PStore), s.taskAt head = some t → t.pstores[idx]? = some p → p.ld = none →
    t.storeReady idx = true → soundAt s t.die p.addr p.size →
    let k := t.die * 2 ^ 27 + p.addr
    let r := storeMove head idx s
    (∀ b, rdByte r.mem.sram b = if k ≤ b ∧ b < k + p.size then BitVec.ofNat 8 (p.val.toNat / 256 ^ (b - k))
      else rdByte s.mem.sram b) ∧
    r.mem.ws = s.mem.ws ∧ r.mem.hbm = s.mem.hbm ∧ r.mem.host = s.mem.host ∧
    r.tasks = finsert s.tasks t.id.uid { t with pstores := t.pstores.eraseIdx idx } ∧ r.eng = s.eng ∧ r.ctxs = s.ctxs)

/-! ## Control flow -/

/-- R167, R169, R171: where the branch operations go, what `loop` and `loopi` count, and that nothing else changes. -/
def Obligations.BranchesAndLoops : Prop :=
  ∀ (f : FmtSB) (g : FmtSY) (s : State),
    let rel : Int := (s.iss.addr : Int) + (BitVec.ofNat 29 f.imm).toInt
    (Performed s f.qp f.qn →
      Completes (.br f) s (goesTo s rel) ∧
      Completes (.brx f) s (goesTo s (((s.iss.t0.sReg f.a).toNat : Int) + (BitVec.ofNat 29 f.imm).toInt)) ∧
      (let take := (if f.a % 2 = 1 then s.t.ctl.aggAll else s.t.ctl.aggAny) ^^ decide (f.a / 2 % 2 = 1)
       Completes (.bagg f) s (if take then goesTo s rel else s)) ∧
      (let N := f.a % 4
       let old := s.iss.t0.lcReg N
       let new : Word := if old ≠ 0 then old - 1 else 0
       let SVn := stagesAfter s.iss.t0.sys.sv s.iss.sshift (if N = 0 then new else s.iss.t0.lcReg 0)
       let take := new ≠ 0 ∨ (s.iss.t0.sys.sm = true ∧ SVn % 2 ^ s.iss.t0.sys.depth ≠ 0)
       let counted := later s 1 (.lc N) (new.setWidth 64)
       let noted := { counted with iss := { s.iss with z := if N = 0 then new else s.iss.z } }
       (take → Completes (.loop f) s (goesTo noted rel)) ∧ (¬ take → Completes (.loop f) s noted))) ∧
    (Performed s g.qp g.qn →
      let v : Word := if g.func = 0 then BitVec.ofNat 32 (g.imm % 2 ^ 16) else (s.iss.t0.sReg g.a).extractLsb' 0 32
      Completes (.loopi g) s { later s 1 (.lc (g.d % 4)) (v.setWidth 64) with
        iss := { s.iss with z := if g.d % 4 = 0 then v else s.iss.z } })

/-- R74, R86, R166 to R168, R171, R182: every sequencer access must be a multiple of its size and lie in the partition of the head's die, the
alignment first; that the sum is an exact integer, not reduced, is log entry 47. A branch whose target lies outside the code fails with the
range kind, source SB, the target in `$tval`: `br`, `brx` and `call` always, `loop` only when it is taken, `bagg` after its wait when it is
taken, `ret` once it can read its frame. `call` without room for a frame and `ret` without a frame fail likewise. -/
def Obligations.SequencerChecks : Prop :=
  (∀ (u : SeqSlot) (f : FmtSM) (s : State), s.phase = .check → (s.iss.t0.qReg f.qp ^^ decide (f.qn = 1)) = true →
      let a := plus s f.base (BitVec.ofNat 17 f.off).toInt
      let n : Int := 2 ^ f.size
      let p := s.partOf s.iss.t0.id.ctx s.iss.t0.die
      let src := if u = .sa then 0 else 1
      let aligned := n ∣ a
      let inside := (p.ssbase : Int) ≤ a ∧ a + n ≤ (p.sslim : Int)
      ∀ i, i = .sld u f ∨ i = .sst u f → ∃ l : List Fail, Completes i s { s with iss := { s.iss with fails := s.iss.fails ++ l } } ∧
        (l = [] ↔ aligned ∧ inside) ∧
        (¬ aligned → l.head? = some ⟨src, 3, BitVec.ofInt 64 a, false⟩) ∧
        (aligned → ¬ inside → l = [⟨src, 4, BitVec.ofInt 64 a, false⟩])) ∧
  (∀ (u : SeqSlot) (g : FmtSA) (s : State), s.phase = .check → (s.iss.t0.qReg g.qp ^^ decide (g.qn = 1)) = true →
      let a := plus s g.base ((BitVec.ofNat 9 g.off).toInt * 8)
      let p := s.partOf s.iss.t0.id.ctx s.iss.t0.die
      let src := if u = .sa then 0 else 1
      let inside := (p.ssbase : Int) ≤ a ∧ a + 8 ≤ (p.sslim : Int)
      ∃ l : List Fail, Completes (.samo u g) s { s with iss := { s.iss with fails := s.iss.fails ++ l } } ∧
        (l = [] ↔ 8 ∣ a ∧ inside) ∧ (¬ 8 ∣ a → l.head? = some ⟨src, 3, BitVec.ofInt 64 a, false⟩) ∧
        (8 ∣ a → ¬ inside → l = [⟨src, 4, BitVec.ofInt 64 a, false⟩])) ∧
  (∀ (f : FmtSB) (s : State), (s.iss.t0.qReg f.qp ^^ decide (f.qn = 1)) = true →
      let bad (T : Int) : List Fail := if 0 ≤ T ∧ T < (s.iss.t0.prog.hdr.codesz : Int) then [] else [⟨1, 4, BitVec.ofInt 64 T, false⟩]
      let fails (l : List Fail) : State := { s with iss := { s.iss with fails := s.iss.fails ++ l } }
      let rel : Int := (s.iss.addr : Int) + (BitVec.ofNat 29 f.imm).toInt
      (s.phase = .check → Completes (.br f) s (fails (bad rel)) ∧
        Completes (.brx f) s (fails (bad (((s.iss.t0.sReg f.a).toNat : Int) + (BitVec.ofNat 29 f.imm).toInt))) ∧
        Completes (.bagg f) s (fails []) ∧
        (let N := f.a % 4
         let old := s.iss.t0.lcReg N
         let new : Word := if old ≠ 0 then old - 1 else 0
         let SVn := stagesAfter s.iss.t0.sys.sv s.iss.sshift (if N = 0 then new else s.iss.t0.lcReg 0)
         let take := new ≠ 0 ∨ (s.iss.t0.sys.sm = true ∧ SVn % 2 ^ s.iss.t0.sys.depth ≠ 0)
         (take → Completes (.loop f) s (fails (bad rel))) ∧ (¬ take → Completes (.loop f) s (fails []))) ∧
        (let c := s.iss.t0.ctl
         let room : Prop := c.sp < s.iss.t0.prog.hdr.stack ∨ (s.iss.t0.prog.hdr.stkbuf ≠ 0xFFFF ∧ c.ovp + 8 ≤ overflowRegion s s.iss.t0)
         (room → Completes (.call f) s (fails (bad rel))) ∧
         (¬ room → Completes (.call f) s (fails (bad rel ++ [⟨1, 4, BitVec.ofNat 64 (c.sp + c.ovp), false⟩]))) ∧
         Completes (.ret f) s (fails (if c.sp = 0 ∧ c.ovp = 0 then [⟨1, 4, 0, false⟩] else [])))) ∧
      (s.phase = .wait → s.iss.stall = false → s.t = s.iss.t0 → s.t.ctl.ovp = 0 → 0 < s.t.ctl.sp → s.t.pstores = [] →
        (∀ e ∈ s.t.pos, e.2.ld = [] ∧ e.2.st = []) →
        let k := s.t.id.stackBase + s.t.ctl.sp - 8
        soundAt s s.t.die k 8 →
        ∃ T : Word, (∀ i < 4, T.extractLsb' (8 * i) 8 = afterSa s (s.t.die * 2 ^ 27 + k + i)) ∧
          Completes (.ret f) s (fails (bad T.toNat))) ∧
      (s.phase = .wait → s.t.ctl.aggPend = none → s.t.ctl.aggAt ≤ s.t.ctl.cyc →
        Completes (.bagg f) s (if (if f.a % 2 = 1 then s.t.ctl.aggAll else s.t.ctl.aggAny) ^^ decide (f.a / 2 % 2 = 1)
          then fails (bad rel) else s)) ∧
      (s.phase = .wait → s.t.ctl.aggPend.isSome ∨ s.t.ctl.cyc < s.t.ctl.aggAt → Completes (.bagg f) s { s with iss := { s.iss with stall := true } }))

/-- R168: `call` pushes the next address, into the carve-out while it has room, else into the overflow region; `ret` goes to the frame
it pops, the overflow region's first. In the carve-out the frame's eight bytes are the only bytes that change, and a `ret` that finds them as
`call` left them goes to the bundle after the `call`, with the stack pointer as it was. A frame of the overflow region lies at the task's
share of the stack buffer, and is written and read as every access of the port is; STOVF is set. -/
def Obligations.CallsAndReturnsMatch : Prop :=
  (∀ (f g : FmtSB) (s : State),
    let t := s.t
    let Z := overflowRegion s t
    let at_ (ovp : Nat) : Nat := t.id.idx * Z + ovp
    let rel : Int := (s.iss.addr : Int) + (BitVec.ofNat 29 f.imm).toInt
    (Performed s f.qp f.qn → t.prog.hdr.stack ≤ t.ctl.sp → t.prog.hdr.stkbuf ≠ 0xFFFF → t.ctl.ovp + 8 ≤ Z →
      let x := s.bufPut t.die t.id.ctx t.prog.hdr.stkbuf (at_ t.ctl.ovp) 8 ((s.iss.addr + 1) % 2 ^ 32) true
      Completes (.call f) s (goesTo { x with t := { x.t with
        sys := { x.t.sys with stovf := true }, ctl := { x.t.ctl with ovp := t.ctl.ovp + 8, frameFault := false } } } rel)) ∧
    (Performed s g.qp g.qn → s.iss.sstA = none → s.t = s.iss.t0 → 0 < t.ctl.ovp →
      let x := s.portTouch t.die t.id.ctx t.prog.hdr.stkbuf (at_ t.ctl.ovp - 8) 8
      Completes (.ret g) s (goesTo { x with t := { x.t with ctl := { x.t.ctl with ovp := t.ctl.ovp - 8, frameFault := false } } }
        ((s.bufRd t.die t.id.ctx t.prog.hdr.stkbuf (at_ t.ctl.ovp - 8) 8 % 2 ^ 32 : Nat) : Int)))) ∧
  ∀ (f g : FmtSB) (s : State), Performed s f.qp f.qn → s.iss.sstA = none → s.mem.sramErr = [] →
    s.t.ctl.sp < s.t.prog.hdr.stack → s.t.ctl.ovp = 0 → s.iss.addr + 1 < 2 ^ 32 →
    let k := s.t.die * 2 ^ 27 + (s.t.id.stackBase + s.t.ctl.sp)
    ∃ (m : Mem) (e : FMap Nat),
      Completes (.call f) s (goesTo { s with mem := { s.mem with sram := m, sramErr := e },
                                             t := { s.t with ctl := { s.t.ctl with sp := s.t.ctl.sp + 8 } } }
        ((s.iss.addr : Int) + (BitVec.ofNat 29 f.imm).toInt)) ∧
      (∀ b, b < k ∨ k + 8 ≤ b → rdByte m b = rdByte s.mem.sram b) ∧
      ∀ r : State, Performed r g.qp g.qn → r.iss.sstA = none → r.mem.sram = m → r.mem.sramErr = [] → r.t = r.iss.t0 → r.t.ctl.sp = s.t.ctl.sp + 8 → r.t.ctl.ovp = 0 →
        r.t.die = s.t.die → r.t.id.stackBase = s.t.id.stackBase →
        Completes (.ret g) r { r with iss := { r.iss with target := some (s.iss.addr + 1) },
                                      t := { r.t with ctl := { r.t.ctl with sp := s.t.ctl.sp } } }

/-! ## System registers and sequencer state -/

/-- R56 to R58, R111: what `mfs` reads, due after one bundle (the phase of `$refcal` is that of the head's own cycle, log entry 7); that it and `mts` of the flag registers wait for the flags of every bundle in
flight; and that `mts` writes exactly the register it names, of `$status` FEVEN and
EVOVF alone, the latter only to 0, and of `$fmask` nine bits (log entry 46); outside trap mode registers other than the three that always may be written fail with the
privilege kind, whatever the guard. -/
def Obligations.SystemRegisters : Prop :=
  (∀ (f : FmtSY) (s : State), Performed s f.qp f.qn → f.imm < 0x70 →
      Completes (.mfs f) s (later s 1 (.s f.d) (systemRegister s f.imm))) ∧
  (∀ (f : FmtSY) (s : State), s.phase = .wait → (s.iss.t0.qReg f.qp ^^ decide (f.qn = 1)) = true →
      let waits (i : Instr) (flag : Prop) : Prop := ∃ q : Bool, Completes i s { s with iss := { s.iss with stall := q } } ∧
        (q = true ↔ s.iss.stall = true ∨ (flag ∧ s.t.flights ≠ []))
      waits (.mfs f) (f.imm = 0xB ∨ f.imm = 0xC) ∧ waits (.mts f) (f.imm = 0xB ∨ f.imm = 0xC) ∧ waits (.fpclr f) True) ∧
  (∀ (f : FmtSY) (s : State),
      let v := s.iss.t0.sReg f.a
      let y := s.t.sys
      let free := f.imm = 0xB ∨ f.imm = 0xC ∨ f.imm = 0x14
      let inTrap := 0x10 ≤ f.imm ∧ f.imm ≤ 0x13
      (Performed s f.qp f.qn →
        (f.imm = 0xB → Completes (.mts f) s (withSys s { y with fpf := v &&& 0x1F1F1F1F })) ∧
        (f.imm = 0xC → Completes (.mts f) s (withSys s { y with fpev := v &&& 0xFFFFF000FFFFFFFF })) ∧
        (f.imm = 0x10 → Completes (.mts f) s (withSys s { y with cause := v &&& 0x3FF })) ∧
        (f.imm = 0x11 → Completes (.mts f) s (withSys s { y with epc := v })) ∧
        (f.imm = 0x12 → Completes (.mts f) s (withSys s { y with tval := v })) ∧
        (f.imm = 0x13 → Completes (.mts f) s (withSys s { y with fmask := v &&& 0x1FF })) ∧
        (f.imm = 0x14 → Completes (.mts f) s (withSys s { y with feven := v.getLsbD 3, evovf := y.evovf && v.getLsbD 5 }))) ∧
      (s.phase = .check → Completes (.mts f) s { s with iss := { s.iss with fails := s.iss.fails ++
        (if free ∨ (inTrap ∧ s.iss.t0.sys.tm = true) then [] else [⟨1, 2, s.iss.slot, false⟩]) } }))

/-- R60, R111, R170, R172: what the other system operations change, and that they change nothing else. That bit i of the immediate of `fpclr`
clears byte i of `$fpf` is log entry 44. -/
def Obligations.SequencerStateOperations : Prop :=
  ∀ (f : FmtSY) (s : State), Performed s f.qp f.qn →
    let v := s.iss.t0.sReg f.a
    let t := s.t
    let errsBut (p : SeqPlace) : List SeqErr := t.errs.filter (fun e => e.place != p)
    Completes (.ftset f) s { s with t := { t with r := { t.r with ft := fset t.r.ft 0 f.d (v.extractLsb' 0 32) }, errs := errsBut (.ft f.d) } } ∧
    Completes (.mskset f) s { s with t :=
      if f.func = 0 then { t with r := { t.r with rm := fset t.r.rm (BitVec.allOnes 32) f.d (v.extractLsb' 0 32) }, errs := errsBut (.rm f.d) }
      else if f.func = 1 then
        { t with r := { t.r with cm := fset t.r.cm (BitVec.allOnes 32) f.d (v.extractLsb' 0 32) }, errs := errsBut (.cm f.d) }
      else { t with r := { t.r with pm := fset t.r.pm (BitVec.allOnes 64) f.d v }, errs := errsBut (.pm f.d) } } ∧
    Completes (.rot f) s { s with iss := { s.iss with rotTo := some f.imm } } ∧
    Completes (.stage f) s (withSys s { t.sys with
      sm := decide (f.func % 2 = 1), sv := f.imm % 16, depth := if f.func / 2 % 4 = 0 then 4 else f.func / 2 % 4 }) ∧
    Completes (.dset f) s { s with t := { t with rng := { t.rng with key := v, n := 0, queue := [] } } } ∧
    ∃ y : SysRegs, Completes (.fpclr f) s (withSys s { t.sys with fpf := y.fpf, fpev := y.fpev }) ∧
      (∀ i < 64, y.fpf.getLsbD i = (t.sys.fpf.getLsbD i && decide (i < 32) && !f.imm.testBit (i / 8))) ∧
      (∀ i < 64, y.fpev.getLsbD i = (t.sys.fpev.getLsbD i && !(decide (i = 63) && f.imm.testBit 4)))

/-- R175, R339, R341, R353: `trap` and `brk` commit and leave a trap for the end of the bundle, `brk` under a debugger halts the task
instead; `eret` fails outside trap mode with the privilege kind, waits for every handler result, that of a load in SA of its own bundle among
them, and returns at the end of the bundle. -/
def Obligations.TrapBreakAndReturn : Prop :=
  ∀ (f : FmtSY) (s : State),
    let after (v : Nat) : State := { s with iss := { s.iss with after := some (BitVec.ofNat 64 v) } }
    (Performed s f.qp f.qn →
      Completes (.trap f) s (after (f.imm % 2 ^ 16)) ∧
      ((s.ctx s.t.id.ctx).attach = false → Completes (.brk f) s (after (f.imm % 2 ^ 16 + 2 ^ 16))) ∧
      ((s.ctx s.t.id.ctx).attach = true → Completes (.brk f) s { s with t := { s.t with
        sys := { s.t.sys with cause := 0x1F }, ctl := { s.t.ctl with halted := true, stopReq := true } } }) ∧
      (s.iss.sstA = none → Completes (.eret f) s { s with iss := { s.iss with eret := true } }) ∧
      (∀ p, s.iss.sstA = some p → p.ld ≠ none → p.size ≤ 8 → (∃ x ∈ s.t.pstores, x.ld = p.ld) → soundAt s s.t.die p.addr p.size →
        ∃ u : State, SaLoaded s u p ∧ Completes (.eret f) s { u with iss := { s.iss with eret := true } })) ∧
    (s.phase = .check → Completes (.eret f) s { s with iss := { s.iss with
      fails := s.iss.fails ++ if s.iss.t0.sys.tm then [] else [⟨1, 2, s.iss.slot, false⟩] } }) ∧
    (s.phase = .wait → (s.iss.t0.qReg f.qp ^^ decide (f.qn = 1)) = true → ∃ q : Bool,
      Completes (.eret f) s { s with iss := { s.iss with stall := q } } ∧
      (q = true ↔ s.iss.stall = true ∨ (∃ h ∈ s.t.held, h.handler = true ∧ (h.pend.isSome ∨ s.t.ctl.cyc < h.ready)) ∨ SaHeldBack s)) ∧
    (∀ v, s.iss.after = some v → s.iss.eret = false → s.iss.t0.sys.tm = false → s.t.sys.tm = false → s.t.prog.hdr.trapv = true →
      s.closeIssue.t.sys.tm = true ∧ s.closeIssue.t.sys.tval = v ∧ s.closeIssue.t.sys.cause = 0x1F ∧
      s.closeIssue.t.sys.fmask = 2 ∧ s.closeIssue.t.sys.epc = BitVec.ofNat 64 (s.iss.addr + 1) ∧
      s.closeIssue.t.ctl.pc = s.t.prog.hdr.trapvec ∧ s.closeIssue.t.ctl.bcnt = s.t.ctl.bcnt + 1)

/-- R29, R30, R60 to R62, R69, R72, R108: the header names the masks of its bundle, read at issue; cell control pops a random word,
rotates, or notes a stage shift; every `nop` changes nothing. A popped word is the word of the key and the count that stood before, and
the queue refills with the words that follow, up to 64. How the module's cycle follows the heads' is the model's choice (log entry 7). -/
def Obligations.CellControlNopsAndRandomWords : Prop :=
  (∀ (s : State) (p c r n : Nat) (u : SeqSlot) (v : VSlot),
      (s.phase = .check →
        Completes (.selection p c r) s { s with iss := { s.iss with fl := { s.iss.fl with
          rm := if r = 0 then BitVec.allOnes 32 else fget s.iss.t0.r.rm (BitVec.allOnes 32) r
          cm := if c = 0 then BitVec.allOnes 32 else fget s.iss.t0.r.cm (BitVec.allOnes 32) c
          pm := if p = 0 then BitVec.allOnes 64 else fget s.iss.t0.r.pm (BitVec.allOnes 64) p } } } ∧
        Completes (.sshift n) s { s with iss := { s.iss with sshift := n } }) ∧
      (s.phase = .commit →
        Completes .rotCc s { s with iss := { s.iss with rotcc := true } } ∧
        (∀ w rest, s.iss.t0.rng.queue = w :: rest → s.t.rng = s.iss.t0.rng →
          Completes .rbpop s { s with
            t := { s.t with rng := { s.t.rng with w := w, n := s.t.rng.n + 1, queue := rest } }
            iss := { s.iss with fl := { s.iss.fl with w := w } } }) ∧
        Completes (.selection p c r) s s ∧ Completes (.sshift n) s s ∧ Completes (.nopSeq u) s s ∧ Completes (.nopV v) s s ∧
        Completes .nopM s s ∧ Completes .nopX s s ∧ Completes .nopLd s s ∧ Completes .nopSt s s ∧ Completes .nopE s s) ∧
      (s.phase = .wait → Completes .rbpop s { s with iss := { s.iss with stall := s.iss.stall || s.iss.t0.rng.queue.isEmpty } })) ∧
  (∀ (s : State) (head : Nat) (t : Task), s.taskAt head = some t →
      (t.rng.queue.length < 64 → Completes (.randomWordRefill head) s { s with
        tasks := finsert s.tasks t.id.uid
          { t with rng := { t.rng with queue := t.rng.queue ++ [dandelion t.rng.key (t.rng.n + t.rng.queue.length)] } } }) ∧
      (64 ≤ t.rng.queue.length → Completes (.randomWordRefill head) s s) ∧
      (¬ InStep s t → Completes (.bubble head) s s) ∧
      (InStep s t → Completes (.bubble head) s { s with
        tasks := finsert s.tasks t.id.uid { t with ctl := { t.ctl with cyc := t.ctl.cyc + 1, now := t.ctl.now + 1 } }
        cycle := max s.cycle (t.ctl.now + 1)
        t := default }))

namespace Sys2Proof.Spec

/-- An access of the task in a class that mask `m` names has committed and not performed (R208, R213). -/
def StillToPerform (t : Task) (m : Nat) : Prop :=
  (∃ p ∈ t.pstores, m.testBit p.oc = true) ∨
  (∃ e ∈ t.pos, (∃ w ∈ e.2.ld, m.testBit w.inst.oc = true) ∨ (∃ w ∈ e.2.st, m.testBit w.inst.oc = true))

/-- A read of the task has committed and not performed. -/
def ReadOutstanding (t : Task) : Prop :=
  (∃ p ∈ t.pstores, p.ld.isSome = true) ∨ ∃ e ∈ t.pos, e.2.ld ≠ [] ∨ ∃ w ∈ e.2.st, ∃ f, w.inst.op = .estsa f

/-- Nothing the task has committed is waiting to perform. -/
def Settled (t : Task) : Prop := t.pstores = [] ∧ ∀ e ∈ t.pos, e.2.ld = [] ∧ e.2.st = []

/-- Filled entries of a ring (R55). -/
def fill (r : Ring) : Nat := (r.p.toNat + 2 ^ 32 - r.c.toNat) % 2 ^ 32

/-- The ring a synchronisation operation names. -/
def ringOf (s : State) (f : FmtSY) : Option Ring := fget? s.iss.t0.rings (f.func % 32)

/-- `s` stalls. -/
def stalled (s : State) : State := { s with iss := { s.iss with stall := true } }

end Sys2Proof.Spec

open Sys2Proof Sys2Proof.Machine Sys2Proof.Spec

/-! ## Synchronisation -/

/-- R213: `fence` and `rel` wait while an earlier access in a class of the mask has not performed, and where SA of their bundle accesses memory,
while any has not; `acq` waits while an earlier read has not, SA's load of its own bundle among them. None of them changes anything when it
commits, apart from the access of its own bundle's SA, which has performed by then. -/
def Obligations.FencesWaitForTheirClasses : Prop :=
  ∀ (f : FmtSY) (s : State), (s.iss.t0.qReg f.qp ^^ decide (f.qn = 1)) = true →
    (s.phase = .commit →
      Completes (.fence f) s s.performOwn ∧ Completes (.rel f) s s.performOwn ∧
      (s.iss.sstA = none → s.performOwn = s ∧ Completes (.acq f) s s) ∧
      (∀ p, s.iss.sstA = some p → p.ld = none → Completes (.acq f) s s) ∧
      (∀ p, s.iss.sstA = some p → p.ld ≠ none → p.size ≤ 8 → (∃ x ∈ s.t.pstores, x.ld = p.ld) → soundAt s s.t.die p.addr p.size →
        ∃ u : State, SaLoaded s u p ∧ Completes (.acq f) s u)) ∧
    (s.phase = .wait → s.iss.stall = false → ∃ q : Bool, ∃ r : Bool,
      Completes (.fence f) s { s with iss := { s.iss with stall := q } } ∧
      Completes (.rel f) s { s with iss := { s.iss with stall := q } } ∧
      (q = true ↔ StillToPerform s.t f.imm ∨ (s.iss.sstA ≠ none ∧ ¬ Settled s.t)) ∧
      Completes (.acq f) s { s with iss := { s.iss with stall := r } } ∧ (r = true ↔ ReadOutstanding s.t ∨ SaHeldBack s))

/-- R212, R216: what `twait` and `tstat` read: `twait` frees the slot it reads, the null slot apart, and waits while it is BUSY; `tstat`
changes nothing. `evpop` takes the oldest record, its halves due in s[d] and s[d + 1] and a 1 in the predicate; on an empty queue it
delivers zeros. -/
def Obligations.TokensAndEvents : Prop :=
  (∀ (f : FmtSY) (s : State),
      let n := f.func % 64
      let k : TokSlot := if n = 63 then ⟨.complete, 0, 0, 0, 0⟩ else fget s.iss.t0.tok ⟨.free, 0, 0, 0, 0⟩ n
      (Performed s f.qp f.qn → k.st ≠ .busy →
        Completes (.twait f) s
          (let r := later s 1 (.s f.d) (BitVec.ofNat 64 (if k.st = .free then 0xFF else k.status))
           { r with t := if n = 63 then r.t else { r.t with tok := fset r.t.tok ⟨.free, 0, 0, 0, 0⟩ n ⟨.free, 0, 0, 0, 0⟩ } })) ∧
      (Performed s f.qp f.qn → Completes (.tstat f) s (later s 1 (.s f.d) (BitVec.ofNat 64 (
        if k.st = .free then 0x0FF else if k.st = .busy then 0x1FF else if k.st = .complete then 0x200 + k.status
        else 0x300 + k.status)))) ∧
      (s.phase = .wait → (s.iss.t0.qReg f.qp ^^ decide (f.qn = 1)) = true → k.st = .busy →
        ∃ r : State, Completes (.twait f) s r ∧ r.iss.stall = true ∧ r = { stalled s with t := { s.t with ctl := r.t.ctl } })) ∧
  (∀ (f : FmtSY) (s : State), Performed s f.qp f.qn → s.t.evq = s.iss.t0.evq →
      let three (lo hi : DWord) (q : Bool) : State := later (later (later s 1 (.s f.d) lo) 1 (.s (f.d + 1)) hi) 1 (.q (f.func % 16)) (bit q)
      (∀ r rest, s.t.evq = r :: rest → Completes (.evpop f) s
        { three (r.extractLsb' 0 64) (r.extractLsb' 64 64) true with
          t := { (three (r.extractLsb' 0 64) (r.extractLsb' 64 64) true).t with evq := rest } }) ∧
      (s.t.evq = [] → Completes (.evpop f) s (three 0 0 false)))

/-- R214: when the ring operations wait, when `radv` fails, and how it moves the ring's counts and cursors, modulo 2^32. `radv` waits for
every earlier access, those of the edges among them; that it waits for the advances the ring still owes is log entry 73. -/
def Obligations.RingOperations : Prop :=
  ∀ (f : FmtSY) (s : State) (r : Ring), ringOf s f = some r → s.iss.sstA = none →
    (s.iss.t0.qReg f.qp ^^ decide (f.qn = 1)) = true → fill r ≤ r.count →
    let n := f.imm
    let cons := f.func / 32 % 2 = 1
    (s.phase = .wait → s.iss.stall = false →
      Completes (.rwait f) s (if fill r < n then stalled s else s) ∧
      Completes (.rfree f) s (if r.count - fill r < n then stalled s else s) ∧
      (StillToPerform s.t (2 ^ 16 - 1) ∨ (∃ u ∈ s.t.pubs, u.ring = f.func % 32) → Completes (.radv f) s (stalled s)) ∧
      (Settled s.t → (∀ u ∈ s.t.pubs, u.ring ≠ f.func % 32) →
        Completes (.radv f) s (if cons then (if fill r < n then
            { s with iss := { s.iss with fails := s.iss.fails ++ [⟨1, 10, BitVec.ofNat 64 (f.func % 32), true⟩] } } else
            { s with iss := { s.iss with fails := s.iss.fails ++ [] } })
          else (if r.count < fill r + n then
            { s with iss := { s.iss with fails := s.iss.fails ++ [⟨1, 9, BitVec.ofNat 64 (f.func % 32), true⟩] } } else
            { s with iss := { s.iss with fails := s.iss.fails ++ [] } })))) ∧
    (s.phase = .commit → fget? s.t.rings (f.func % 32) = some r →
      Completes (.rwait f) s s ∧ Completes (.rfree f) s s ∧
      Completes (.radv f) s { s with t := { s.t with
        rings := finsert s.t.rings (f.func % 32)
          (if cons then { r with c := r.c + BitVec.ofNat 32 n, ic := r.ic + BitVec.ofNat 32 n }
           else { r with p := r.p + BitVec.ofNat 32 n, ip := r.ip + BitVec.ofNat 32 n }) } })

/-- R215: `semsig` adds and `semw` subtracts the amount in bits 31:0 of s[a]; `semw` waits unless it heads the wait list and the value
reaches its amount; an addition past 2^32 - 1 and a semaphore that does not exist fail. Nothing else changes. -/
def Obligations.SemaphoreOperations : Prop :=
  ∀ (f : FmtSY) (s : State), s.iss.sstA = none → (s.iss.t0.qReg f.qp ^^ decide (f.qn = 1)) = true →
    let c := s.t.id.ctx
    let n := f.imm % 2 ^ 12
    let amount := (s.iss.t0.sReg f.a).toNat % 2 ^ 32
    let put (m : Sem) : State := { s with ctxs := finsert s.ctxs c { s.ctx c with sems := finsert (s.ctx c).sems n m } }
    let fails (l : List Fail) : State := { s with iss := { s.iss with fails := s.iss.fails ++ l } }
    (s.phase = .check → ∀ i, i = .semw f ∨ i = .semsig f →
      Completes i s (fails (if (fget? (s.ctx s.iss.t0.id.ctx).sems n).isSome then [] else [⟨1, 4, BitVec.ofNat 64 n, false⟩]))) ∧
    (∀ m, fget? (s.ctx c).sems n = some m →
      (s.phase = .commit →
        Completes (.semsig f) s (put { m with val := m.val + amount }) ∧
        Completes (.semw f) s (put { val := m.val - amount, waiters := m.waiters.tail })) ∧
      (s.phase = .wait → s.iss.stall = false →
        (Settled s.t → Completes (.semsig f) s
          (fails (if m.val + amount < 2 ^ 32 then [] else [⟨1, 9, BitVec.ofNat 64 n, true⟩]))) ∧
        (let joined := if m.waiters.any (fun w => w.1 == s.t.id.uid) then m.waiters else m.waiters ++ [(s.t.id.uid, amount)]
         ∃ r : State, Completes (.semw f) s r ∧ r.ctxs = (put { m with waiters := joined }).ctxs ∧
          (r.iss.stall = false ↔ ∃ w rest, joined = w :: rest ∧ w.1 = s.t.id.uid ∧ w.2 ≤ m.val) ∧
          r.t.r = s.t.r ∧ r.mem = s.mem ∧ r.eng = s.eng)))

/-- R304 to R307: `launch` fails for an offset that is no multiple of 256 or a record outside the partition, waits for every earlier access, and
enters the record into a shared entry of the die's pool while one of the 256 is free, then into the task's own
entry, with 0 in the predicate; otherwise it changes nothing and delivers 1. A record that holds an uncorrectable error ends the context and enters nothing (R355). `trig` marks the task as triggered, once; `done` waits
for the task's accesses, tokens and return-free atomics, and ends the task when its bundle closes. -/
def Obligations.LaunchTrigAndDone : Prop :=
  (∀ (f : FmtSY) (s : State), s.iss.sstA = none → (s.iss.t0.qReg f.qp ^^ decide (f.qn = 1)) = true →
      let o := (s.iss.t0.sReg f.a).toNat
      let p := s.partOf s.iss.t0.id.ctx s.iss.t0.die
      let inside := p.ssbase ≤ o ∧ o + 256 ≤ p.sslim
      (s.phase = .check → ∃ l : List Fail, Completes (.launch f) s { s with iss := { s.iss with fails := s.iss.fails ++ l } } ∧
        (l = [] ↔ o % 256 = 0 ∧ inside) ∧ (o % 256 ≠ 0 → l.head? = some ⟨1, 3, BitVec.ofNat 64 o, false⟩) ∧
        (o % 256 = 0 → ¬ inside → l = [⟨1, 4, BitVec.ofNat 64 o, false⟩])) ∧
      (s.phase = .wait → s.iss.stall = false → StillToPerform s.t (2 ^ 16 - 1) → Completes (.launch f) s (stalled s)) ∧
      (s.phase = .wait → s.iss.stall = false → Settled s.t → Completes (.launch f) s s)) ∧
  (∀ (f : FmtSY) (s : State), Performed s f.qp f.qn → s.iss.sstA = none → s.t.id = s.iss.t0.id →
      let die := s.iss.t0.die
      let uid := s.iss.t0.id.uid
      let shared := s.ram.pool.countP (fun p => decide (p.die = die) && p.owner.isNone)
      let own := s.ram.pool.any (fun p => decide (p.owner = some uid))
      let q (v : Bool) (s : State) : State := later s 1 (.q (f.d % 16)) (bit v)
      let o := (s.iss.t0.sReg f.a).toNat
      (256 ≤ shared → own = true → Completes (.launch f) s (q true s)) ∧
      (shared < 256 ∨ own = false →
        (∃ x ∈ s.mem.sramErr, x.2 = 2 ∧ die * 2 ^ 27 + o < 8 * x.1 + 8 ∧ 8 * x.1 < die * 2 ^ 27 + o + 256) →
        ∃ c : Ctx, c.ffault.isSome ∧ Completes (.launch f) s { s with ctxs := finsert s.ctxs s.iss.t0.id.ctx c }) ∧
      (shared < 256 ∨ own = false → soundAt s die o 256 → ∃ l : LaunchSet,
        Completes (.launch f) s (q false { s with ram := { s.ram with
          sets := s.ram.sets ++ [l]
          pool := s.ram.pool ++ [⟨s.t.die, s.ram.nextSet, if shared < 256 then none else some uid⟩]
          nextSet := s.ram.nextSet + 1 } }) ∧
        l.id = s.ram.nextSet ∧ l.ctx = s.t.id.ctx ∧ l.queue = s.t.id.queue ∧ l.prog = none ∧ l.next = 0 ∧
        l.src = .pool s.t.die o s.t.id.set s.t.id.idx ∧
        l.rec_.hoff = s.sramRd s.t.die o 8 ∧ l.rec_.setsize = s.sramRd s.t.die (o + 0xC) 4)) ∧
  (∀ (f : FmtSY) (s : State), s.iss.sstA = none → (s.iss.t0.qReg f.qp ^^ decide (f.qn = 1)) = true →
      (s.phase = .commit →
        Completes (.trig f) s { s with
          t := { s.t with ctl := { s.t.ctl with triggered := true } }
          ram := { s.ram with sets := s.ram.sets.map (fun l =>
              if l.id == s.t.id.set then (if s.t.id.idx ∈ l.trigd then l else { l with trigd := l.trigd ++ [s.t.id.idx] }) else l) } } ∧
        Completes (.done f) s { s with iss := { s.iss with ended := true } }) ∧
      (s.phase = .wait → s.iss.stall = false → Settled s.t → ∃ q : Bool,
        Completes (.done f) s { s with iss := { s.iss with stall := q } } ∧
        (q = true ↔ (∃ e ∈ s.t.tok, e.2.st = .busy) ∨ (∃ a ∈ s.eng.adds, a.task = s.t.id.uid) ∨
          ∃ c ∈ s.eng.cmds, c.task = s.t.id.uid ∧ c.st ≠ .done ∧ ((∃ h, c.op = .nmadd h) ∨
            ((∃ h, c.op = .pkbwd h) ∧ (c.pack.getD 5 0).toNat / 2 ^ 12 % 2 = 1)))))

/-- R308: the first time a `bar` reaches issue it arrives, which sets the generation's count, and the last arrival starts the next
generation; a member waits while its generation stands, and the commit clears its arrival. No group, or a count of 0, waits for
nothing. An arrival that disagrees fails with the range kind and does not arrive. A `bar` that has not arrived waits for every earlier access,
and the access of SA of its own bundle performs with the arrival (R208; log entry 8). At level 3 an arrival is on its way first. -/
def Obligations.BarriersCountArrivals : Prop :=
  ∀ (f : FmtSY) (s : State), (s.iss.t0.qReg f.qp ^^ decide (f.qn = 1)) = true → s.t.id = s.iss.t0.id →
    let k := f.func % 4
    let G := (s.t.id.dom.extractLsb' (16 * k) 16).toNat
    let N := (s.t.id.barn.extractLsb' (16 * k) 16).toNat
    let c := s.t.id.ctx
    let g := s.barFind c k G
    let die := s.t.die
    (s.phase = .commit → s.iss.sstA = none →
      Completes (.bar f) s { s with t := { s.t with ctl := { s.t.ctl with arrived := none, own := none } } }) ∧
    (s.phase = .wait → s.iss.stall = false → Settled s.t → G = 0xFFFF ∨ N = 0 → Completes (.bar f) s s) ∧
    (s.phase = .wait → s.iss.stall = false → StillToPerform s.t (2 ^ 16 - 1) → G = 0xFFFF ∨ N = 0 ∨ s.t.ctl.arrived = none →
      Completes (.bar f) s (stalled s)) ∧
    (s.phase = .wait → s.iss.stall = false → Settled s.t → G ≠ 0xFFFF → N ≠ 0 → s.t.ctl.arrived = none →
      ∀ p, s.iss.sstA = some p → p.ld = none → soundAt s die p.addr p.size →
      k = 3 ∨ ¬ ((g.arrived ≠ 0 ∧ g.need ≠ N) ∨ (k = 0 ∧ N ≠ 1) ∨ (k = 1 ∧ g.arrived ≠ 0 ∧ g.die ≠ die)) →
      ∃ r : State, Completes (.bar f) s r ∧ r.t.ctl.arrived = some (k, if k = 3 then 0 else g.gen) ∧
        (∀ b, rdByte r.mem.sram b = stored s.mem.sram die p b) ∧
        ∃ v, r.t.ctl.own = some ⟨s.iss.addr, s.t.sys.tm, v⟩ ∧
          ∀ i < p.size, i < 8 → v.extractLsb' (8 * i) 8 = rdByte s.mem.sram (die * 2 ^ 27 + p.addr + i)) ∧
    (s.phase = .wait → s.iss.stall = false → Settled s.t → G ≠ 0xFFFF → N ≠ 0 → k = 3 → s.t.ctl.arrived = none → s.iss.sstA = none →
      ∃ r : State, Completes (.bar f) s r ∧ r.t.ctl.arrived = some (3, 0) ∧ r.iss.stall = true ∧ r.ctxs = s.ctxs ∧ r.mem = s.mem) ∧
    (s.phase = .wait → s.iss.stall = false → Settled s.t → G ≠ 0xFFFF → N ≠ 0 → k ≠ 3 → s.t.ctl.arrived = none → s.iss.sstA = none →
      let disagrees := (g.arrived ≠ 0 ∧ g.need ≠ N) ∨ (k = 0 ∧ N ≠ 1) ∨ (k = 1 ∧ g.arrived ≠ 0 ∧ g.die ≠ die)
      (disagrees → Completes (.bar f) s
        { s with iss := { s.iss with fails := s.iss.fails ++ [⟨1, 4, BitVec.ofNat 64 N, false⟩] } }) ∧
      (¬ disagrees → ∃ r : State, Completes (.bar f) s r ∧ r.t.ctl.arrived = some (k, g.gen) ∧
        (r.iss.stall = true ↔ g.arrived + 1 < N) ∧
        r.ctxs = finsert s.ctxs c { s.ctx c with
          groups := (if g.arrived + 1 < N
              then { level := g.level, grp := g.grp, arrived := g.arrived + 1, need := N,
                     die := if g.arrived = 0 then die else g.die, gen := g.gen }
              else { level := g.level, grp := g.grp, arrived := 0, need := 0, die := if g.arrived = 0 then die else g.die, gen := g.gen + 1 })
            :: (s.ctx c).groups.filter (fun h => h.level != g.level || h.grp != g.grp) })) ∧
    (s.phase = .wait → s.iss.stall = false → G ≠ 0xFFFF → N ≠ 0 → k ≠ 3 → ∀ l gen, s.t.ctl.arrived = some (l, gen) →
      ∃ r : State, Completes (.bar f) s r ∧ r.t.ctl.arrived = s.t.ctl.arrived ∧ r.ctxs = s.ctxs ∧
        (r.iss.stall = true ↔ g.gen = gen))

namespace Sys2Proof.Spec

/-! ## Cells -/

/-- The lowest bit of the part a V operation acts on, and its width in bits (R76). -/
def low (f : FmtV) : Nat := f.part * (256 * 2 ^ f.width)
/-- The width of the part. -/
def wide (f : FmtV) : Nat := 256 * 2 ^ f.width
/-- Elements of width `w` in the part (R132). -/
def many (f : FmtV) (w : Nat) : Nat := wide f / w
/-- The part lies in the register (R76). -/
def inRegister (f : FmtV) : Prop := f.width < 3 ∧ low f + wide f ≤ 1024

/-- Element `e` of the part of a register (R132). -/
def el (f : FmtV) (v : VecReg) (w e : Nat) : BitVec w := v.extractLsb' (low f + w * e) w

/-- Predicate `i` of the executing cell (R61). -/
def predicate (c : CellRun) (i : Nat) : Word :=
  if c.fl.sm = true ∧ 20 ≤ i ∧ i ≤ 23 then (if c.fl.sv.testBit (i - 20) then BitVec.allOnes 32 else 0) else fget c.cell.p 0 i

/-- Lane `l` is enabled under a predicate field (R133). -/
def laneOn (c : CellRun) (pred pneg l : Nat) : Prop :=
  pred = 31 ∨ (l < 32 ∧ ((predicate c pred).getLsbD l ^^ decide (pneg = 1)) = true)

/-- Element `e` of width `w` is enabled: the lane of its lowest bit is (R133). -/
def elOn (c : CellRun) (f : FmtV) (w e : Nat) : Prop := laneOn c f.pred f.pneg ((low f + w * e) / 32)

/-- The register a name means in the executing cell (R60). -/
def renamed (c : CellRun) (n : Nat) : Nat :=
  if c.fl.rotsz ≠ 0 ∧ n < c.fl.rotsz then (n + c.fl.rotbase) % c.fl.rotsz else n

/-- `s` with one more result in the executing cell's holding buffer: the bits of `m` of register name `d` take those of `v`, `lat`
bundles after the one that executes (R35, R59, R132); the name `zero` discards it. -/
def delivers (s : State) (d lat : Nat) (m v : VecReg) : State :=
  if d = 2047 then s
  else { s with cr := { s.cr with cell := { s.cr.cell with held := s.cr.cell.held ++
    [{ due := s.cr.fl.n + lat, dst := if d = 2040 then .x else .v (renamed s.cr d), mask := m, val := v }] } } }

/-- The same for a predicate. -/
def deliversP (s : State) (i lat : Nat) (m v : Word) : State :=
  { s with cr := { s.cr with cell := { s.cr.cell with held := s.cr.cell.held ++
    [{ due := s.cr.fl.n + lat, dst := .p i, mask := m.setWidth 1024, val := v.setWidth 1024 }] } } }

/-- `s` with the flags `F` of an operation of slot `k` noted in the bundle: OR'd into the slot's byte, and the event that stands lowest
kept (R58, R110). -/
def flagged (s : State) (k : FlagSlot) (F : Nat) : State :=
  { s with cr := { s.cr with fl :=
    if F = 0 then s.cr.fl
    else
      let fl := s.cr.fl
      let key := (match k with | .seq => 0 | .m => 1 | .v0 => 2 | .v1 => 3) * 2 ^ 17 + s.cr.pos * 2 ^ 11 + s.cr.row * 2 ^ 6 + s.cr.col * 2
      { fl with ev := some (match fl.ev with | none => key | some e => min e key)
                fSeq := if k = .seq then fl.fSeq ||| F else fl.fSeq
                fM := if k = .m then fl.fM ||| F else fl.fM
                fV0 := if k = .v0 then fl.fV0 ||| F else fl.fV0
                fV1 := if k = .v1 then fl.fV1 ||| F else fl.fV1 } } }

/-- The flag byte of a vector slot. -/
def byteOf (u : VSlot) : FlagSlot := match u with | .v0 => .v0 | .v1 => .v1

/-- Mask `m` and value `v` write exactly the enabled elements among those `idx` holds of, each with the value `g` gives it. -/
def Writes (c : CellRun) (f : FmtV) (w : Nat) (idx : Nat → Prop) (m v : VecReg) (g : Nat → BitVec w) : Prop :=
  (∀ i < 1024, (m.getLsbD i = true ↔ ∃ e, idx e ∧ elOn c f w e ∧ low f + w * e ≤ i ∧ i < low f + w * e + w)) ∧
  (∀ e, idx e → elOn c f w e → el f v w e = g e)

/-- `F` holds the flags of the enabled elements. -/
def Flags (c : CellRun) (f : FmtV) (w : Nat) (idx : Nat → Prop) (F : Nat) (g : Nat → Nat) : Prop :=
  ∀ i, F.testBit i = true ↔ ∃ e, idx e ∧ elOn c f w e ∧ (g e).testBit i = true

/-- The sum, difference or value `x` held within the limits of a type (R107). -/
def clamp (x lo hi : Int) : Int := if x < lo then lo else if hi < x then hi else x

/-- The magnitude of a real. -/
def size (q : Rat) : Rat := if q < 0 then -q else q

/-- A value lies below another that is no NaN either, −0 below +0 (R140). -/
def under (x y : Rv) : Prop :=
  match x, y with
  | .inf true, .inf false => True
  | .inf true, .fin _ _ => True
  | .fin _ _, .inf false => True
  | .fin p s, .fin q t => p < q ∨ (p = 0 ∧ q = 0 ∧ s = true ∧ t = false)
  | _, _ => False

/-- A subnormal pattern: exponent field 0, fraction not 0. -/
def subnormal (F : FpFmt) (v : Nat) : Prop := v / 2 ^ F.mbits % 2 ^ F.ebits = 0 ∧ v % 2 ^ F.mbits ≠ 0

/-- Leading zeros of a pattern. -/
def zerosAbove {w : Nat} (a : BitVec w) : Nat := ((List.range w).takeWhile (fun k => !a.getLsbD (w - 1 - k))).length

end Sys2Proof.Spec

open Sys2Proof Sys2Proof.Machine Sys2Proof.Spec

/-! ## The vector slots -/

/-- R132, R133, R137: every integer operation writes exactly the enabled elements of its part, with the result the table gives,
after the latency of R135; it sets no flag and changes nothing else. -/
def Obligations.IntegerVectorResults : Prop :=
  ∀ (u : VSlot) (f : FmtV) (s : State), s.phase = .cell → inRegister f → f.type < 8 →
    let c := s.cr
    let w := typeWidth f.type
    let signed : Bool := decide (f.type < 4)
    let gives (i : Instr) (lat : Nat) (g : BitVec w → BitVec w → BitVec w → BitVec w) : Prop :=
      ∃ m v, Completes i s (delivers s f.d lat m v) ∧
        Writes c f w (· < many f w) m v (fun e => g (el f (c.src f.a) w e) (el f (c.src f.b) w e) (el f (c.src f.d) w e))
    gives (.vadd u f) 1 (fun A B _ => A + B) ∧ gives (.vsub u f) 1 (fun A B _ => A - B) ∧
    gives (.vmul u f) 2 (fun A B _ => A * B) ∧
    gives (.vmulh u f) 2 (fun A B _ => if signed then (A.signExtend (2 * w) * B.signExtend (2 * w)).extractLsb' w w
      else (A.setWidth (2 * w) * B.setWidth (2 * w)).extractLsb' w w) ∧
    gives (.vmad u f) 2 (fun A B D => A * B + D) ∧
    gives (.vand u f) 1 (fun A B _ => A &&& B) ∧ gives (.vor u f) 1 (fun A B _ => A ||| B) ∧
    gives (.vxor u f) 1 (fun A B _ => A ^^^ B) ∧
    gives (.vshl u f) 1 (fun A B _ => A <<< (B.toNat % w)) ∧ gives (.vshr u f) 1 (fun A B _ => A >>> (B.toNat % w)) ∧
    gives (.vsar u f) 1 (fun A B _ => A.sshiftRight (B.toNat % w)) ∧
    gives (.vmin u f) 1 (fun A B _ => if (if signed then B.slt A else B.ult A) then B else A) ∧
    gives (.vmax u f) 1 (fun A B _ => if (if signed then A.slt B else A.ult B) then B else A) ∧
    gives (.vabs u f) 1 (fun A _ _ => if A.msb then -A else A) ∧
    gives (.vclz u f) 2 (fun A _ _ => BitVec.ofNat w (zerosAbove A)) ∧
    gives (.vpopc u f) 2 (fun A _ _ => BitVec.ofNat w ((List.range w).countP (fun i => A.getLsbD i))) ∧
    gives (.vadds u f) 1 (fun A B _ => if signed then BitVec.ofInt w (clamp (A.toInt + B.toInt) (-2 ^ (w - 1)) (2 ^ (w - 1) - 1))
      else BitVec.ofNat w (min (A.toNat + B.toNat) (2 ^ w - 1))) ∧
    gives (.vsubs u f) 1 (fun A B _ => if signed then BitVec.ofInt w (clamp (A.toInt - B.toInt) (-2 ^ (w - 1)) (2 ^ (w - 1) - 1))
      else BitVec.ofNat w (A.toNat - B.toNat))

/-- R139, R140, R142: the floating operations round the exact result once, give the canonical NaN without a flag for NaN operands, and
set the flags of the enabled elements in the byte of their slot; `vfmin` and `vfmax`, `vfabs`, `vfneg` and `vfclass` set none. -/
def Sys2Proof.Spec.FloatOperations : Prop :=
  ∀ (u : VSlot) (f : FmtV) (s : State), s.phase = .cell → inRegister f → 8 ≤ f.type → f.type ≤ 13 →
    let c := s.cr
    let w := typeWidth f.type
    let F := typeFmt f.type
    let ftz := f.aux.testBit 3
    let mode := rndNoSr (f.aux % 8)
    let X (v : Nat) : Rv := decFtz F ftz v
    let once (xs : List Rv) (r : Rv × Bool) : Nat × Nat :=
      if .nan ∈ xs then (F.nanBits, 0)
      else ((round r.1 F mode false ftz).1, (round r.1 F mode false ftz).2 ||| if r.2 then flNV else 0)
    let gives (i : Instr) (lat : Nat) (g : (A B D : Nat) → Nat × Nat) : Prop :=
      let r (e : Nat) : Nat × Nat :=
        g (el f (c.src f.a) w e).toNat (el f (c.src f.b) w e).toNat (el f (c.src f.d) w e).toNat
      ∃ m v G, Completes i s (delivers (flagged s (byteOf u) G) f.d lat m v) ∧
        Writes c f w (· < many f w) m v (fun e => BitVec.ofNat w (r e).1) ∧ Flags c f w (· < many f w) G (fun e => (r e).2)
    gives (.vfadd u f) 4 (fun A B _ => once [X A, X B] (addRv (X A) (X B) mode.isDn)) ∧
    gives (.vfsub u f) 4 (fun A B _ => once [X A, X B] (addRv (X A) (negRv (X B)) mode.isDn)) ∧
    gives (.vfmul u f) 4 (fun A B _ => once [X A, X B] (mulRv (X A) (X B))) ∧
    gives (.vfma u f) 4 (fun A B D => once [X A, X B, X D]
      ((addRv (mulRv (X A) (X B)).1 (X D) mode.isDn).1, (mulRv (X A) (X B)).2 || (addRv (mulRv (X A) (X B)).1 (X D) mode.isDn).2)) ∧
    gives (.vfmin u f) 4 (fun A B _ => (minMaxBits F ftz false A B, 0)) ∧
    gives (.vfmax u f) 4 (fun A B _ => (minMaxBits F ftz true A B, 0)) ∧
    gives (.vfabs u f) 1 (fun A _ _ => (A % 2 ^ (w - 1), 0)) ∧
    gives (.vfneg u f) 1 (fun A _ _ => ((A + 2 ^ (w - 1)) % 2 ^ w, 0)) ∧
    gives (.vfclass u f) 4 (fun A _ _ => (2 ^ classBit F A, 0)) ∧
    (f.type = 8 →
      gives (.vrcp u f) 8 (fun A _ _ => specFn .rcp (X A) ftz) ∧ gives (.vrsq u f) 8 (fun A _ _ => specFn .rsq (X A) ftz) ∧
      gives (.vsqrt u f) 8 (fun A _ _ => specFn .sqrt (X A) ftz) ∧ gives (.vexp2 u f) 8 (fun A _ _ => specFn .exp2 (X A) ftz) ∧
      gives (.vlog2 u f) 8 (fun A _ _ => specFn .log2 (X A) ftz) ∧ gives (.vtanh u f) 8 (fun A _ _ => specFn .tanh (X A) ftz))

/-- R140 to R142: the special values. `vfmin` and `vfmax` with NaNs, signed zeros and flushed subnormals; the class bits; and of the special
functions NaN, zeros, infinities and negative values, the reciprocal, a root to within 2^-1200 before the one rounding, and the powers of
two of `vexp2` and `vlog2`. -/
def Sys2Proof.Spec.SpecialValues : Prop :=
  (∀ (F : FpFmt) (ftz : Bool) (A B : Nat), F = .fp32 ∨ F = .fp16 ∨ F = .bf16 → A < 2 ^ F.width → B < 2 ^ F.width →
    let read (v c : Nat) : Prop := (ftz = true ∧ subnormal F v → c = v / 2 ^ (F.width - 1) * 2 ^ (F.width - 1)) ∧
      (¬ (ftz = true ∧ subnormal F v) → c = v)
    let X := decFtz F ftz A
    let Y := decFtz F ftz B
    let lo := minMaxBits F ftz false A B
    let hi := minMaxBits F ftz true A B
    (X = .nan → Y = .nan → lo = F.nanBits ∧ hi = F.nanBits) ∧ (X = .nan → Y ≠ .nan → read B lo ∧ read B hi) ∧
    (X ≠ .nan → Y = .nan → read A lo ∧ read A hi) ∧
    (X ≠ .nan → Y ≠ .nan → (under X Y → read A lo ∧ read B hi) ∧ (under Y X → read B lo ∧ read A hi) ∧
      (¬ under X Y → ¬ under Y X → read A lo ∧ read A hi ∧ read B lo))) ∧
  (∀ (F : FpFmt) (v : Nat), F = .fp32 ∨ F = .fp16 ∨ F = .bf16 → v < 2 ^ F.width →
    let neg : Bool := v.testBit (F.width - 1)
    classBit F v = match dec F v with
      | .nan => 8
      | .inf n => if n = true then 0 else 7
      | .fin _ _ =>
        if v % 2 ^ (F.width - 1) = 0 then (if neg = true then 3 else 4)
        else if v / 2 ^ F.mbits % 2 ^ F.ebits = 0 then (if neg = true then 2 else 5) else if neg = true then 1 else 6) ∧
  (∀ (ftz z : Bool),
    let inf := 0x7F800000
    let nan := 0x7FC00000
    let sgn (n : Bool) (v : Nat) : Nat := if n = true then v + 2 ^ 31 else v
    let NV := 1
    let DZ := 2
    (∀ f : SpecFn, specFn f .nan ftz = (nan, 0)) ∧
    specFn .rcp (.fin 0 z) ftz = (sgn z inf, DZ) ∧ specFn .rsq (.fin 0 z) ftz = (sgn z inf, DZ) ∧ specFn .sqrt (.fin 0 z) ftz = (sgn z 0, 0) ∧
    specFn .exp2 (.fin 0 z) ftz = (0x3F800000, 0) ∧ specFn .log2 (.fin 0 z) ftz = (sgn true inf, DZ) ∧ specFn .tanh (.fin 0 z) ftz = (sgn z 0, 0) ∧
    specFn .rcp (.inf z) ftz = (sgn z 0, 0) ∧ specFn .rsq (.inf z) ftz = (if z then (nan, NV) else (0, 0)) ∧
    specFn .sqrt (.inf z) ftz = (if z then (nan, NV) else (inf, 0)) ∧ specFn .exp2 (.inf z) ftz = (if z then 0 else inf, 0) ∧
    specFn .log2 (.inf z) ftz = (if z then (nan, NV) else (inf, 0)) ∧ specFn .tanh (.inf z) ftz = (sgn z 0x3F800000, 0) ∧
    (∀ q : Rat, q < 0 → specFn .rsq (.fin q z) ftz = (nan, NV) ∧ specFn .sqrt (.fin q z) ftz = (nan, NV) ∧ specFn .log2 (.fin q z) ftz = (nan, NV)) ∧
    (∀ q : Rat, q ≠ 0 → specFn .rcp (.fin q z) ftz = round (.fin (1 / q) (decide (q < 0))) .fp32 .rne false ftz) ∧
    (∀ q : Rat, 0 < q → q < pow2 400 → ∃ h : Rat, 0 ≤ h ∧ specFn .sqrt (.fin q z) ftz = round (.fin h false) .fp32 .rne false ftz ∧
      (h < pow2 (-1200) ∨ (h - pow2 (-1200)) * (h - pow2 (-1200)) < q) ∧ q < (h + pow2 (-1200)) * (h + pow2 (-1200))) ∧
    (∀ q : Rat, 0 < q → 1 < q * pow2 400 → ∃ h : Rat, 0 ≤ h ∧ specFn .rsq (.fin q z) ftz = round (.fin h false) .fp32 .rne false ftz ∧
      (h < pow2 (-1200) ∨ (h - pow2 (-1200)) * (h - pow2 (-1200)) * q < 1) ∧ 1 < (h + pow2 (-1200)) * (h + pow2 (-1200)) * q) ∧
    (∀ k : Int, -400 ≤ k → k ≤ 400 → k ≠ 0 → specFn .exp2 (.fin (k : Rat) z) ftz = round (.fin (pow2 k) false) .fp32 .rne false ftz) ∧
    (∀ k : Int, specFn .log2 (.fin (pow2 k) z) ftz = round (.fin (k : Rat) false) .fp32 .rne false ftz))

/-- R106, R140: what the sums and products are before their one rounding. Of finite values they are the reals' own; an exact zero sum is
−0 where both operands are, else +0, or −0 under RDN from operands of opposite sign; a zero product has the sign of its factors; a NaN
operand gives NaN without NV; opposite infinities in a sum, and zero times infinity, give NaN with it. -/
def Sys2Proof.Spec.ExactArithmetic : Prop :=
  (∀ (x y : Rv) (dn : Bool), x = .nan ∨ y = .nan → addRv x y dn = (.nan, false) ∧ mulRv x y = (.nan, false)) ∧
  (∀ (p q : Rat) (a b dn : Bool), (p = 0 ∨ a = decide (p < 0)) → (q = 0 ∨ b = decide (q < 0)) →
    (∃ z, addRv (.fin p a) (.fin q b) dn = (.fin (p + q) z, false) ∧
      (p + q = 0 → (p = 0 ∧ q = 0 ∧ a = b → z = a) ∧ (¬ (p = 0 ∧ q = 0 ∧ a = b) → z = dn))) ∧
    (∃ z, mulRv (.fin p a) (.fin q b) = (.fin (p * q) z, false) ∧ (p * q = 0 → z = (a ^^ b))) ∧
    (∃ z, negRv (.fin p a) = .fin (-p) z ∧ (p = 0 → z = !a))) ∧
  (∀ (n k dn z : Bool) (q : Rat), q = 0 ∨ z = decide (q < 0) →
    addRv (.inf n) (.inf k) dn = (if n = k then (.inf n, false) else (.nan, true)) ∧
    addRv (.inf n) (.fin q z) dn = (.inf n, false) ∧ addRv (.fin q z) (.inf n) dn = (.inf n, false) ∧
    mulRv (.inf n) (.inf k) = (.inf (n ^^ k), false) ∧ negRv (.inf n) = .inf (!n) ∧
    mulRv (.inf n) (.fin q z) = (if q = 0 then (.nan, true) else (.inf (n ^^ z), false)) ∧
    mulRv (.fin q z) (.inf n) = (if q = 0 then (.nan, true) else (.inf (z ^^ n), false)))

/-- R106, R139, R140, R142: the floating operations, the sums and products they round, and the special values. -/
def Obligations.FloatVectorResults : Prop := FloatOperations ∧ ExactArithmetic ∧ SpecialValues

/-- R138, R141: `vcmp` and `vfcmp` (values, −0 equal to +0, NaN unordered) write all ones or zeros into every enabled element, or, into a
predicate, the result in every lane an enabled element covers. They set no flag and change nothing else. -/
def Sys2Proof.Spec.VectorCompares : Prop :=
  (∀ (u : VSlot) (f : FmtV) (s : State), s.phase = .cell → inRegister f → f.type < 8 → f.aux % 8 < 6 →
      let c := s.cr
      let w := typeWidth f.type
      let A (e : Nat) : BitVec w := el f (c.src f.a) w e
      let B (e : Nat) : BitVec w := el f (c.src f.b) w e
      let signed : Bool := decide (f.type < 4)
      let lt (x y : BitVec w) : Prop := if signed then x.slt y = true else x.ult y = true
      let holds (e : Nat) : Prop := (f.aux % 8 = 0 ∧ A e = B e) ∨ (f.aux % 8 = 1 ∧ A e ≠ B e) ∨ (f.aux % 8 = 2 ∧ lt (A e) (B e)) ∨
        (f.aux % 8 = 3 ∧ ¬ lt (B e) (A e)) ∨ (f.aux % 8 = 4 ∧ lt (B e) (A e)) ∨ (f.aux % 8 = 5 ∧ ¬ lt (A e) (B e))
      (f.aux / 32 ≠ 1 → ∃ (m v : VecReg) (b : Nat → Bool), Completes (.vcmp u f) s (delivers s f.d 1 m v) ∧ (∀ e, b e = true ↔ holds e) ∧
        Writes c f w (· < many f w) m v (fun e => if b e then BitVec.allOnes w else 0)) ∧
      (f.aux / 32 = 1 → 32 ≤ w → ∃ m v : Word, Completes (.vcmp u f) s (deliversP s f.d 1 m v) ∧
        ∀ l < 32, (m.getLsbD l = true ↔ ∃ e < many f w, elOn c f w e ∧ (low f + w * e) / 32 ≤ l ∧ l < (low f + w * e + w) / 32) ∧
          (v.getLsbD l = true ↔ ∃ e < many f w, elOn c f w e ∧ (low f + w * e) / 32 ≤ l ∧ l < (low f + w * e + w) / 32 ∧ holds e))) ∧
  (∀ (u : VSlot) (f : FmtV) (s : State), s.phase = .cell → inRegister f → 8 ≤ f.type → f.type ≤ 10 →
      let c := s.cr
      let w := typeWidth f.type
      let X (r e : Nat) : Rv := decFtz (typeFmt f.type) (f.aux.testBit 3) (el f (c.src r) w e).toNat
      let less (x y : Rv) : Prop :=
        match x, y with
        | .fin p _, .fin q _ => p < q
        | .inf n, .inf k => n = true ∧ k = false
        | .inf n, .fin _ _ => n = true
        | .fin _ _, .inf k => k = false
        | _, _ => False
      let same (x y : Rv) : Prop :=
        match x, y with
        | .fin p _, .fin q _ => p = q
        | .inf n, .inf k => n = k
        | _, _ => False
      let holds (e : Nat) : Prop :=
        let x := X f.a e
        let y := X f.b e
        let un := x = .nan ∨ y = .nan
        match f.aux % 8 with
        | 0 => same x y
        | 1 => ¬ same x y
        | 2 => less x y
        | 3 => less x y ∨ same x y
        | 4 => less y x
        | 5 => less y x ∨ same x y
        | 6 => un
        | _ => ¬ un
      (f.aux / 32 ≠ 1 → ∃ (m v : VecReg) (b : Nat → Bool), Completes (.vfcmp u f) s (delivers s f.d 4 m v) ∧
        (∀ e < many f w, b e = true ↔ holds e) ∧ Writes c f w (· < many f w) m v (fun e => if b e then BitVec.allOnes w else 0)) ∧
      (f.aux / 32 = 1 → f.type = 8 → ∃ m v : Word, Completes (.vfcmp u f) s (deliversP s f.d 4 m v) ∧
        ∀ l < 32, (m.getLsbD l = true ↔ ∃ e < many f w, elOn c f w e ∧ low f / 32 + e = l) ∧
          (v.getLsbD l = true ↔ ∃ e < many f w, elOn c f w e ∧ low f / 32 + e = l ∧ holds e)))

/-- R104: rounding chooses a neighbour. For a real other than zero whose magnitude does not exceed the largest of the format, the result is
a value of the format: under RNE none lies nearer, under RTZ, RUP and RDN none lies between on the side the mode names, under SR it is
the value next to it on one side or the other; its sign is the real's; and NX is set exactly where it differs from the real. -/
def Obligations.RoundingChoosesANeighbour : Prop :=
  ∀ (F : FpFmt) (q top : Rat) (z zt : Bool) (m : Rnd), q ≠ 0 → dec F F.maxBits = .fin top zt → -top ≤ q → q ≤ top →
    (∀ r, m = .sr r → 0 ≤ r ∧ r < 1) →
    ∃ (y : Rat) (s : Bool), dec F (round (.fin q z) F m false false).1 = .fin y s ∧ s = decide (q < 0) ∧
      ((round (.fin q z) F m false false).2.testBit 4 = true ↔ y ≠ q) ∧
      ∀ (v : Nat) (x : Rat) (t : Bool), v < 2 ^ F.width → dec F v = .fin x t →
        (m = .rne → size (q - y) ≤ size (q - x)) ∧
        (m = .rtz → size y ≤ size q ∧ (size x ≤ size q → size x ≤ size y)) ∧
        (m = .rup → q ≤ y ∧ (q ≤ x → y ≤ x)) ∧
        (m = .rdn → y ≤ q ∧ (x ≤ q → x ≤ y)) ∧
        (∀ r, m = .sr r → (y ≤ q ∧ (x ≤ q → x ≤ y)) ∨ (q ≤ y ∧ (q ≤ x → y ≤ x)))

/-- R143 to R145: the element conversions: which elements of which slice they read and write, the value each gets, and the flags. -/
def Obligations.ElementConversions : Prop :=
  ∀ (u : VSlot) (f : FmtV) (s : State), s.phase = .cell → inRegister f →
    let ws := typeWidth (f.b / 2 ^ 6)
    let wd := typeWidth f.type
    0 < ws → 0 < wd → f.aux < max ws wd / min ws wd →
    let c := s.cr
    let N := wide f / max ws wd
    let src (e : Nat) : Nat := if ws < wd then f.aux * N + e else e
    let dst (e : Nat) : Nat := if wd < ws then f.aux * N + e else e
    let idx (d : Nat) : Prop := ∃ e < N, d = dst e
    let from_ := f.b / 2 ^ 6
    let sat := f.b.testBit 2
    let ftz := f.b.testBit 1
    let lo := typeMin f.type
    let hi := typeMax f.type
    let mode (e : Nat) : Rnd := rndOf (f.b / 2 ^ 3 % 2 ^ 3) (lrb c.fl.w c.pos c.row c.col ((low f + ws * src e) / 32))
    let gives (i : Instr) (g : Nat → Rnd → Nat × Nat) : Prop :=
      ∃ (m v : VecReg) (G : Nat) (r : Nat → Nat × Nat), Completes i s (delivers (flagged s (byteOf u) G) f.d 4 m v) ∧
        (∀ e < N, r (dst e) = g (el f (c.src f.a) ws (src e)).toNat (mode e)) ∧
        Writes c f wd idx m v (fun d => BitVec.ofNat wd (r d).1) ∧ Flags c f wd idx G (fun d => (r d).2)
    gives (.vcvt u f) (fun v k => round (decFtz (typeFmt from_) ftz v) (typeFmt f.type) k sat ftz) ∧
    gives (.vcvtf u f) (fun v k => round (.fin (readInt from_ v : Rat) false) (typeFmt f.type) k sat false) ∧
    (8 ≤ from_ → gives (.vcvti u f) (fun v k =>
      (wrapI (toInt (decFtz (typeFmt from_) ftz v) lo hi k).1 wd, (toInt (decFtz (typeFmt from_) ftz v) lo hi k).2))) ∧
    (from_ < 8 → gives (.vcvti u f) (fun v _ => (wrapI (if sat then clamp (readInt from_ v) lo hi else readInt from_ v) wd, 0)))

/-- R149 to R151: the movement operations copy patterns, and `vcoord` writes the coordinates of the cell; none sets a flag or changes
anything else. -/
def Obligations.MovementResults : Prop :=
  ∀ (u : VSlot) (f : FmtV) (s : State), s.phase = .cell → inRegister f →
    let c := s.cr
    let t := f.type
    let gives (i : Instr) (w lat : Nat) (on : Nat → Prop) (g : Nat → BitVec w) : Prop :=
      ∃ m v, Completes i s (delivers s f.d lat m v) ∧
        (∀ i < 1024, (m.getLsbD i = true ↔ ∃ e < many f w, on e ∧ low f + w * e ≤ i ∧ i < low f + w * e + w)) ∧
        (∀ e < many f w, on e → el f v w e = g e)
    let w := typeWidth t
    let N := many f w
    let a (e : Nat) : BitVec w := el f (c.src f.a) w e
    let b (e : Nat) : BitVec w := el f (c.src f.b) w e
    let C (e : Nat) : BitVec w := if e < N then a e else b (e - N)
    let imm := f.a * 2 ^ 11 + f.b
    gives (.vmov u f) 32 1 (elOn c f 32) (fun e => el f (c.src f.a) 32 e) ∧
    gives (.vsel u f) 32 1 (fun _ => True)
      (fun e => if (c.predBits f.pred f.pneg).getLsbD ((low f + 32 * e) / 32) then el f (c.src f.a) 32 e else el f (c.src f.b) 32 e) ∧
    gives (.vcoord u f) 32 1 (elOn c f 32) (fun e => BitVec.ofNat 32 (
      if f.aux % 8 = 0 then c.row else if f.aux % 8 = 1 then c.col else if f.aux % 8 = 2 then c.pos
      else if f.aux % 8 = 3 then (low f + 32 * e) / 32
      else c.pos * 2 ^ 15 + c.row * 2 ^ 10 + c.col * 2 ^ 5 + (low f + 32 * e) / 32)) ∧
    (0 < w →
      gives (.vperm u f) w 2 (elOn c f w) (fun e => a ((b e).toNat % N)) ∧
      gives (.vbcast u f) w 2 (elOn c f w) (fun _ => a f.b) ∧
      (t ≤ 10 → imm < 2 ^ 22 → gives (.vmovi u f) w 1 (elOn c f w) (fun _ =>
        if t < 4 then (BitVec.ofNat 22 imm).signExtend w else if t < 8 then (BitVec.ofNat 22 imm).setWidth w
        else if t = 8 then BitVec.ofNat w (imm * 2 ^ 10) else BitVec.ofNat w (imm % 2 ^ 16))) ∧
      gives (.vshuf u f) w 2 (elOn c f w) (fun e =>
        if f.aux = 0 then (if e % 2 = 0 then a (e / 2) else b ((e - 1) / 2))
        else if f.aux = 1 then (if e % 2 = 0 then a (N / 2 + e / 2) else b (N / 2 + (e - 1) / 2))
        else if f.aux = 2 then C (2 * e) else if f.aux = 3 then C (2 * e + 1)
        else if f.aux = 4 then a (N - 1 - e) else a (e ^^^ 1)))

/-- R150: `vred` reduces the enabled elements into element 0 of the part, clears the rest of the part, and writes every lane of it. -/
def Sys2Proof.Spec.ReductionResults : Prop :=
  ∀ (u : VSlot) (f : FmtV) (s : State), s.phase = .cell → inRegister f → f.type ≤ 10 →
    let c := s.cr
    let w := typeWidth f.type
    let op := f.aux % 8
    ∃ (parts : List Nat) (m v : VecReg) (G r : Nat),
      Completes (.vred u f) s (delivers (flagged s (byteOf u) G) f.d 4 m v) ∧
      parts.Sublist (List.range (many f w)) ∧ (∀ e < many f w, (e ∈ parts ↔ elOn c f w e)) ∧
      (∀ i < 1024, (m.getLsbD i = true ↔ low f ≤ i ∧ i < low f + wide f)) ∧
      (∀ i < 1024, v.getLsbD i = (decide (low f ≤ i ∧ i < low f + w) && r.testBit (i - low f))) ∧
      let xs := parts.map (fun e => (el f (c.src f.a) w e).toNat)
      let is := xs.map (readInt f.type)
      (f.type < 8 → G = 0 ∧
        (op = 0 → (r : Int) % (2 ^ w : Nat) = is.sum % (2 ^ w : Nat)) ∧
        (op = 1 → ∃ k : Int, (r : Int) = k % (2 ^ w : Nat) ∧ (is = [] → k = typeMax f.type) ∧ (is ≠ [] → k ∈ is) ∧ ∀ j ∈ is, k ≤ j) ∧
        (op = 2 → ∃ k : Int, (r : Int) = k % (2 ^ w : Nat) ∧ (is = [] → k = typeMin f.type) ∧ (is ≠ [] → k ∈ is) ∧ ∀ j ∈ is, j ≤ k) ∧
        (op = 3 → ∀ i < w, (r.testBit i = true ↔ ∀ x ∈ xs, x.testBit i = true)) ∧
        (op = 4 → ∀ i < w, (r.testBit i = true ↔ ∃ x ∈ xs, x.testBit i = true)) ∧
        (op = 5 → ∀ i < w, (r.testBit i = true ↔ (xs.countP (fun x => x.testBit i)) % 2 = 1))) ∧
      (8 ≤ f.type → op = 0 →
        let ys := xs.map (decFtz (typeFmt f.type) (f.b.testBit 3))
        let k := round (sumRv ys).1 (typeFmt f.type) (rndNoSr (f.b % 8)) false (f.b.testBit 3)
        r = k.1 ∧ G = k.2 ||| if (sumRv ys).2 then flNV else 0) ∧
      (8 ≤ f.type → 1 ≤ op → op ≤ 2 → G = 0 ∧
        let X (v : Nat) : Rv := dec (typeFmt f.type) v
        (xs = [] → r = (typeFmt f.type).signed (decide (op = 2)) (typeFmt f.type).infBits) ∧
        (xs ≠ [] → (∀ x ∈ xs, X x = .nan) → r = (typeFmt f.type).nanBits) ∧
        ((∃ x ∈ xs, X x ≠ .nan) → r ∈ xs ∧ X r ≠ .nan ∧
          ∀ x ∈ xs, X x ≠ .nan → if op = 1 then ¬ under (X x) (X r) else ¬ under (X r) (X x)))

/-- R101, R124, R146 to R148: blocks, packed formats and compression: where their results go, and which lanes gate them. -/
def Sys2Proof.Spec.BlockAndPackResults : Prop :=
  ∀ (u : VSlot) (f : FmtV) (s : State), s.phase = .cell → f.width = 2 → f.part = 0 →
    let c := s.cr
    let x := (List.range 32).map (fun l => dec .fp32 ((c.src f.a).extractLsb' (32 * l) 32).toNat)
    let on (lo n : Nat) (m : VecReg) : Prop :=
      ∀ i < 1024, (m.getLsbD i = true ↔ lo ≤ i ∧ i < lo + n ∧ laneOn c f.pred f.pneg (i / 32))
    (∀ neg : Bool, neg = decide (f.b % 2 = 1) → 14 ≤ f.type → f.type ≤ 16 →
      let w := typeWidth f.type
      let n := if f.type = 14 then 128 else 256
      ∃ m v G, Completes (.vpack u f) s (delivers (flagged s (byteOf u) G) f.d 4 m v) ∧ on (n * f.aux) n m ∧
        (∀ e < 32, n * (f.aux + 1) ≤ 1024 →
          v.extractLsb' (n * f.aux + w * e) w = BitVec.ofNat w ((packmx x f.type neg).2.1.getD e 0)) ∧
        G = (if m = 0 then 0 else (packmx x f.type neg).2.2)) ∧
    (14 ≤ f.type → f.type ≤ 16 → f.b < 128 →
      ∃ m v G, Completes (.vmxs u f) s (delivers (flagged s (byteOf u) G) f.d 4 m v) ∧ on (8 * f.b) 8 m ∧
        v.extractLsb' (8 * f.b) 8 = BitVec.ofNat 8 (packmx x f.type false).1 ∧
        G = (if m = 0 then 0 else if (packmx x f.type false).1 = 0xFF then flNV else 0)) ∧
    (f.type = 11 →
      ∃ m v, Completes (.vunpk u f) s (delivers s f.d 4 m v) ∧
        Writes c f 8 (· < 128) m v (fun e => BitVec.ofNat 8 (rne (packedElem (f.aux % 4) (f.aux / 4 % 2) (c.src f.a) e) .e4m3).1)) ∧
    (f.type ≤ 16 → 0 < typeWidth f.type → typeWidth f.type ≤ 16 →
      let w := typeWidth f.type
      let k := 32 / w
      let from_ (i p : Nat) : Nat := ((c.src f.a).extractLsb' (w * (i * 2 * k + p)) w).toNat
      let pair (i g : Nat) : Nat × Nat := keptPair (fun p => rankKey f.type (from_ i (4 * g + p)))
      (f.aux / 32 = 0 → ∃ m v, Completes (.vcmpr u f) s (delivers s f.d 4 m v) ∧ on (512 * (f.aux % 2)) 512 m ∧
        ∀ i < 16, ∀ g < k / 2,
          v.extractLsb' (512 * (f.aux % 2) + w * (i * k + 2 * g)) w = BitVec.ofNat w (from_ i (4 * g + (pair i g).1)) ∧
          v.extractLsb' (512 * (f.aux % 2) + w * (i * k + 2 * g + 1)) w = BitVec.ofNat w (from_ i (4 * g + (pair i g).2))) ∧
      (f.aux / 32 ≠ 0 → ∃ m v, Completes (.vcmpr u f) s (delivers s f.d 4 m v) ∧ on (256 * (f.aux / 2 % 4)) (32 * k) m ∧
        ∀ i < 16, ∀ g < k / 2,
          v.extractLsb' (256 * (f.aux / 2 % 4) + 4 * (i * (k / 2) + g)) 4 = BitVec.ofNat 4 ((pair i g).1 + 4 * (pair i g).2)))

/-- R100, R101: a block that holds a NaN or an infinity takes scale 0xFF, zeros and NV; a block of zeros scale 0x7F; any other the scale
that brings its greatest magnitude to the top exponent of the format, and every element rounded once, to even, and held within the format. -/
def Sys2Proof.Spec.BlockPacking : Prop :=
  ∀ (xs : List Rv) (t : Nat) (neg : Bool), xs.length = 32 → 14 ≤ t → t ≤ 16 →
    let r := packmx xs t neg
    ((∃ x ∈ xs, ∀ (q : Rat) (z : Bool), x ≠ .fin q z) → r = (0xFF, List.replicate 32 0, 1)) ∧
    ((∀ x ∈ xs, ∃ z, x = .fin 0 z) → r = (0x7F, List.replicate 32 0, 0)) ∧
    (∀ (mx : Rat) (k : Int), (∀ x ∈ xs, ∃ q z, x = .fin q z ∧ size q ≤ mx) → (∃ x ∈ xs, ∃ q z, x = .fin q z ∧ size q = mx) →
      pow2 k ≤ mx → mx < pow2 (k + 1) →
      let s := clamp (k - if t = 14 then 2 else if t = 15 then 8 else 0) (-127) 127
      (r.1 : Int) = s + 127 ∧ r.2.1.length = 32 ∧
      ∃ g : Nat → Nat, (∀ i, r.2.2.testBit i = true ↔ ∃ e < 32, (g e).testBit i = true) ∧
        ∀ e < 32, ∀ (q : Rat) (z : Bool), xs.getD e .nan = .fin q z →
          let y := q / pow2 s
          (t ≠ 16 → r.2.1.getD e 0 = (round (.fin y z) (if t = 14 then .e2m1 else .e4m3) .rne true false).1 ∧
            g e = (round (.fin y z) (if t = 14 then .e2m1 else .e4m3) .rne true false).2) ∧
          (t = 16 → ∃ n : Int, 2 * size (y * 64 - n) ≤ 1 ∧ (2 * size (y * 64 - n) = 1 → n % 2 = 0) ∧
            (r.2.1.getD e 0 : Int) = clamp n (if neg then -128 else -127) 127 % 256 ∧
            ((g e).testBit 4 = true ↔ (n : Rat) ≠ y * 64) ∧ ∀ i, i ≠ 4 → (g e).testBit i = false))

/-- R124, R147, R148, R150: the rank of an element is that of its magnitude, NaN above every number; of a group of four the two of
highest rank are kept, in ascending order, the lower index first among equals; the packed six-bit formats; and the exact sum of `vred`. -/
def Sys2Proof.Spec.RanksAndSums : Prop :=
  (∀ key : Nat → Nat, let (i, j) := keptPair key
    i < j ∧ j < 4 ∧ ∀ p < 4, p ≠ i → p ≠ j → ∀ k, k = i ∨ k = j → key p < key k ∨ (key p = key k ∧ k < p)) ∧
  (∀ t v w : Nat, 9 ≤ t → t ≤ 15 → v < 2 ^ typeWidth t → w < 2 ^ typeWidth t →
    let F := typeFmt t
    (∀ p a q b, dec F v = .fin p a → dec F w = .fin q b → (rankKey t v < rankKey t w ↔ size p < size q)) ∧
    (∀ p a n, dec F v = .fin p a → dec F w = .inf n → rankKey t v < rankKey t w) ∧
    (dec F v = .nan → dec F w = .nan → rankKey t v = rankKey t w) ∧ (dec F v ≠ .nan → dec F w = .nan → rankKey t v < rankKey t w)) ∧
  (∀ t v w : Nat, t = 0 ∨ t = 16 → v < 256 → w < 256 →
    let m (u : Nat) : Nat := if u < 128 then u else 256 - u
    (rankKey t v < rankKey t w ↔ m v < m w)) ∧
  (∀ (v : VecReg) (h e : Nat),
    (h < 2 → e < 128 → packedElem 0 h v e = dec .e2m1 (v.extractLsb' (512 * h + 4 * e) 4).toNat) ∧
    (∀ k, e < 128 → k = 1 ∨ k = 2 →
      let b := (v.extractLsb' (6 * e) 6).toNat
      let mb : Nat := if k = 1 then 2 else 3
      let bias : Int := if k = 1 then 3 else 1
      let m : Nat := b % 2 ^ mb
      let x := b % 32 / 2 ^ mb
      let mag : Rat := if x = 0 then (m : Rat) * pow2 (1 - bias - mb) else ((2 ^ mb + m : Nat) : Rat) * pow2 (x - bias - mb)
      packedElem k h v e = .fin (if 32 ≤ b then -mag else mag) (decide (32 ≤ b)))) ∧
  (∀ l : List Rv,
    (.nan ∈ l → sumRv l = (.nan, false)) ∧
    (.nan ∉ l → .inf false ∈ l → .inf true ∈ l → sumRv l = (.nan, true)) ∧
    (∀ n, .nan ∉ l → .inf n ∈ l → .inf (!n) ∉ l → sumRv l = (.inf n, false)) ∧
    (∀ qs : List Rat, (∃ zs : List Bool, zs.length = qs.length ∧ l = (qs.zip zs).map (fun x => .fin x.1 x.2)) →
      ∃ z, sumRv l = (.fin qs.sum z, false)))

/-- R152, R153: the predicate operations write the enabled lanes of the part, and `pflag` the cell's aggregate flag; the head awaits
the bundle's aggregate from the commit of a `pflag` on, complete at core cycle A(b) of R44 (R45). -/
def Sys2Proof.Spec.PredicateResults : Prop :=
  ∀ (u : VSlot) (f : FmtV) (s : State), inRegister f →
    let c := s.cr
    let P (i : Nat) : Word := predicate c i
    let inPart (l : Nat) : Prop := low f / 32 ≤ l ∧ l < (low f + wide f) / 32 ∧ laneOn c f.pred f.pneg l
    let gives (i : Instr) (g : Nat → Bool) : Prop := ∃ m v, Completes i s (deliversP s f.d 1 m v) ∧
      ∀ l < 32, (m.getLsbD l = true ↔ inPart l) ∧ (inPart l → v.getLsbD l = g l)
    (s.phase = .cell →
      gives (.pand u f) (fun l => (P f.a).getLsbD l && (P f.b).getLsbD l) ∧
      gives (.por u f) (fun l => (P f.a).getLsbD l || (P f.b).getLsbD l) ∧
      gives (.pxor u f) (fun l => (P f.a).getLsbD l ^^ (P f.b).getLsbD l) ∧
      gives (.pnot u f) (fun l => !(P f.a).getLsbD l) ∧
      gives (.pset u f) (fun l => decide (l < low f / 32 + f.aux)) ∧
      ∃ b : Bool, Completes (.pflag u f) s { s with cr := { c with cell := { c.cell with flag := b } } } ∧
        (f.aux % 2 = 0 → (b = true ↔ ∃ l < 32, inPart l ∧ (P f.a).getLsbD l = true)) ∧
        (f.aux % 2 = 1 → (b = true ↔ ∀ l < 32, inPart l → (P f.a).getLsbD l = true))) ∧
    (s.phase = .commit →
      Completes (.pflag u f) s { s with
        iss := { s.iss with fl := { s.iss.fl with pflag := true, ops := s.iss.fl.ops ++ [.pflag u f] } }
        t := { s.t with ctl := { s.t.ctl with
          aggPend := some s.iss.n
          aggAt := s.t.ctl.cyc + 32 * (s.t.prog.hdr.chain - 1) + 67 +
            2 * ((List.range (s.t.prog.hdr.chain - 1)).map (fun j => s.part.seamlat.getD (s.t.id.head + j + 1) 0)).sum } } })

/-- R138, R141, R152, R153: vector compares, into elements or a predicate, and the operations on predicates. -/
def Obligations.VectorComparesAndPredicates : Prop := VectorCompares ∧ PredicateResults

/-- R101, R124, R146 to R148, R150: reductions, block scales, packs and compression. -/
def Obligations.ReductionsBlocksAndPacks : Prop := ReductionResults ∧ BlockAndPackResults ∧ BlockPacking ∧ RanksAndSums

namespace Sys2Proof.Spec

/-! ## Tiles -/

/-- Element (i, j) of a tile (R120). -/
def elt (t : TileReg) (i j : Nat) : Nat := (t.extractLsb' (32 * (16 * i + j)) 32).toNat

/-- Tile `n` of the executing cell. -/
def tileOf (c : CellRun) (n : Nat) : TileReg := fget c.cell.tiles 0 n

/-- `s` with tile `n` of the executing cell replaced, which ends its errors (R355), and the flags `F` noted in the M byte. -/
def tiled (s : State) (n : Nat) (v : TileReg) (F : Nat) : State :=
  { s with cr := { s.cr with
    fl := (flagged s .m F).cr.fl
    cell := { s.cr.cell with tiles := fset s.cr.cell.tiles 0 n v, errs := s.cr.cell.errs.filter (fun e => e.place != .tile n) } } }

/-- In the executing cell, `i` leaves tile `n` with the elements and flags `g` gives, and changes nothing else. -/
def GivesTile (i : Instr) (s : State) (n : Nat) (g : Nat → Nat → Nat × Nat) : Prop :=
  ∃ T F, Completes i s (tiled s n T F) ∧ (∀ i < 16, ∀ j < 16, elt T i j = (g i j).1 % 2 ^ 32) ∧
    ∀ k, F.testBit k = true ↔ ∃ i < 16, ∃ j < 16, (g i j).2.testBit k = true

/-- The entries a matrix step accepts (R115), by AFMT, BFMT and ACC. -/
def stepEntry (a b acc : Nat) : Prop :=
  ((a = 9 ∨ a = 10) ∧ (b = 9 ∨ b = 10) ∧ acc < 2) ∨
  ((a = 11 ∨ a = 12 ∨ a = 15) ∧ (b = 11 ∨ b = 12 ∨ b = 15) ∧ acc < 2) ∨
  (a = 16 ∧ b = 16 ∧ acc < 2) ∨ (a = 0 ∧ b = 0 ∧ 2 ≤ acc) ∨ ((a = 13 ∨ a = 14) ∧ (b = 13 ∨ b = 14) ∧ acc < 2)

/-- k of R113. -/
def depth (a : Nat) : Nat := if typeWidth a = 16 then 2 else if typeWidth a = 8 then 4 else 8

/-- The scale of row or column `n` (R114): byte `n` of the group, where the entry calls for scales. -/
def scaleAt (e : Word) (reg : VecReg) (sstep n : Nat) : Nat :=
  if ftSmode e = 1 ∧ ((14 ≤ ftA e ∧ ftA e ≤ 16) ∨ (14 ≤ ftB e ∧ ftB e ≤ 16)) then
    (reg.extractLsb' (8 * (32 * sstep + n)) 8).toNat
  else 0x7F

/-- An element of a fragment as a value (R116): under its scale, if its format has one. -/
def valued (e : Word) (t scale v : Nat) : Rv := if 14 ≤ t ∧ t ≤ 16 then mxval t scale v else decFtz (typeFmt t) (ftFtz e) v

/-- The sum of products of R116, and whether it sets NV. -/
def sumOfProducts (as bs : List Rv) : Rv × Bool :=
  if .nan ∈ as ∨ .nan ∈ bs then (.nan, false)
  else if ∃ p ∈ as.zip bs, (mulRv p.1 p.2).2 = true then (.nan, true)
  else sumRv ((as.zip bs).map (fun p => (mulRv p.1 p.2).1))

/-- The final addition of R116, with one rounding: `old` is the accumulator's pattern. -/
def accumulate (e : Word) (clr : Bool) (old : Nat) (S : Rv × Bool) : Nat × Nat :=
  let m := rndNoSr (ftRnd e)
  let o : Rv := if clr then .fin 0 false else decFtz .fp32 (ftFtz e) old
  let t := addRv o S.1 (decide (m = .rdn))
  let r := round t.1 .fp32 m (decide (ftAcc e = 1)) (ftFtz e)
  (r.1, r.2 ||| if S.2 = true ∨ t.2 = true then flNV else 0)

/-- The final addition of an INT8 step. -/
def accumulateInt (e : Word) (clr : Bool) (old : BitVec 32) (S : Int) : BitVec 32 :=
  let o : Int := if clr then 0 else old.toInt
  if ftAcc e = 2 then BitVec.ofInt 32 (o + S) else BitVec.ofInt 32 (clamp (o + S) (-2 ^ 31) (2 ^ 31 - 1))

/-- Where a tile is busy for the M operation of a bundle (R130): until its core cycle, unless a matrix step follows matrix
steps. -/
def Busy (t : Task) (step : Bool) (n : Nat) : Prop :=
  t.ctl.cyc < (fget t.busy (0, false) n).1 ∧ ¬ (step = true ∧ (fget t.busy (0, false) n).2 = true)

end Sys2Proof.Spec

open Sys2Proof Sys2Proof.Machine Sys2Proof.Spec

/-! ## The matrix slot -/

/-- R113, R114, R116, R117, R119, R123: what a matrix step leaves in its tile, for every entry R115 accepts; nothing else changes.
`mma` and `mmas` are gated by bit 0 of their predicate, `mmaz` zeroes rows and columns by it, `mmas` expands its rows. -/
def Obligations.MatrixSteps : Prop :=
  ∀ (f : FmtM) (s : State), s.phase = .cell →
    let c := s.cr
    let e := c.fl.entry
    stepEntry (ftA e) (ftB e) (ftAcc e) →
    let K := depth (ftA e)
    let w := typeWidth (ftA e)
    let clr : Bool := decide (f.clr = 1)
    let P := c.predBits f.pred f.pneg
    let a (n : Nat) : BitVec w := (c.src f.a).extractLsb' (512 * f.ah + w * n) w
    let b (lo n : Nat) : BitVec w := (c.src f.b).extractLsb' (lo + w * n) w
    let old (i j : Nat) : Nat := elt (tileOf c f.acc) i j
    let av (reg : VecReg) (i : Nat) (v : BitVec w) : Rv := valued e (ftA e) (scaleAt e reg f.sstep i) v.toNat
    let bv (reg : VecReg) (j : Nat) (v : BitVec w) : Rv := valued e (ftB e) (scaleAt e reg f.sstep (16 + j)) v.toNat
    let nib (i g : Nat) : BitVec 4 := (c.src f.scale).extractLsb' (256 * f.sstep + 4 * (i * (K / 2) + g)) 4
    -- position p of row i of a compressed fragment: which kept element it is
    let place (i p : Nat) : Option (BitVec w) :=
      if ((nib i (p / 4)).extractLsb' 2 2).toNat = p % 4 then some (a (i * K + 2 * (p / 4) + 1))
      else if ((nib i (p / 4)).extractLsb' 0 2).toNat = p % 4 then some (a (i * K + 2 * (p / 4))) else none
    let sc := c.src f.scale
    let sc' := c.src (f.scale + 1)
    -- the products of a sparse step: a skipped position stands for +0 where it meets a finite value, and for no product where it does not
    let products (i j : Nat) : List (Rv × Rv) := (List.range (2 * K)).filterMap (fun p =>
      let y := bv sc' j (b 0 (j * (2 * K) + p))
      match place i p, y with
      | some v, _ => some (av sc' i v, y)
      | none, .fin _ _ => some (.fin 0 false, y)
      | none, _ => none)
    (¬ laneOn c f.pred f.pneg 0 → Completes (.mma f) s s ∧ Completes (.mmas f) s s) ∧
    (2 ≤ ftAcc e →
      let I (v : BitVec w) : Int := v.toInt
      (laneOn c f.pred f.pneg 0 → GivesTile (.mma f) s f.acc (fun i j =>
        ((accumulateInt e clr (BitVec.ofNat 32 (old i j)) ((List.range 4).map (fun k => I (a (4 * i + k)) * I (b (512 * f.bh) (4 * j + k)))).sum).toNat, 0))) ∧
      GivesTile (.mmaz f) s f.acc (fun i j => ((accumulateInt e clr (BitVec.ofNat 32 (old i j))
        (if P.getLsbD i = true ∧ P.getLsbD (16 + j) = true
          then ((List.range 4).map (fun k => I (a (4 * i + k)) * I (b (512 * f.bh) (4 * j + k)))).sum else 0)).toNat, 0)) ∧
      (laneOn c f.pred f.pneg 0 → GivesTile (.mmas f) s f.acc (fun i j =>
        ((accumulateInt e clr (BitVec.ofNat 32 (old i j))
          ((List.range 8).map (fun p => (match place i p with | some v => I v | none => 0) * I (b 0 (8 * j + p)))).sum).toNat, 0)))) ∧
    (ftAcc e < 2 →
      (laneOn c f.pred f.pneg 0 → GivesTile (.mma f) s f.acc (fun i j => accumulate e clr (old i j) (sumOfProducts
        ((List.range K).map (fun k => av sc i (a (i * K + k)))) ((List.range K).map (fun k => bv sc j (b (512 * f.bh) (j * K + k))))))) ∧
      GivesTile (.mmaz f) s f.acc (fun i j => accumulate e clr (old i j) (sumOfProducts
        ((List.range K).map (fun k => if P.getLsbD i = true then av sc i (a (i * K + k)) else .fin 0 false))
        ((List.range K).map (fun k => if P.getLsbD (16 + j) = true then bv sc j (b (512 * f.bh) (j * K + k)) else .fin 0 false)))) ∧
      (laneOn c f.pred f.pneg 0 → GivesTile (.mmas f) s f.acc (fun i j => accumulate e clr (old i j) (sumOfProducts
        ((products i j).map (·.1)) ((products i j).map (·.2))))))

/-- R117, R120 to R122: the tile operations. Where bit 0 of the predicate is 0 they change nothing; `ast` leaves eight register
results due at the next bundle but one; `ascl` and `aadd` round once, and note their flags in the M byte. -/
def Obligations.TileOperations : Prop :=
  ∀ (f : FmtM) (s : State), s.phase = .cell →
    let c := s.cr
    let e := c.fl.entry
    let X (i j : Nat) : Nat := elt (tileOf c f.acc) i j
    let Y (i j : Nat) : Nat := elt (tileOf c (f.b % 16)) i j
    let m := rndNoSr (ftRnd e)
    let Q (l : Nat) : Rv := decFtz .fp32 (ftFtz e) ((c.src f.a).extractLsb' (32 * l) 32).toNat
    (¬ laneOn c f.pred f.pneg 0 → Completes (.aclr f) s s ∧ Completes (.ald f) s s ∧ Completes (.ast f) s s ∧ Completes (.ascl f) s s ∧
      Completes (.aadd f) s s) ∧
    (laneOn c f.pred f.pneg 0 →
      Completes (.aclr f) s (tiled s f.acc 0 0) ∧
      GivesTile (.ald f) s f.acc (fun i j => (((c.src (f.a + i / 2)).extractLsb' (32 * (16 * (i % 2) + j)) 32).toNat, 0)) ∧
      (f.a + 7 < 1536 → ∃ l : List CHeld,
        Completes (.ast f) s { s with cr := { c with cell := { c.cell with held := c.cell.held ++ l } } } ∧
        l = (List.range 8).map (fun k => ⟨c.fl.n + 2, .v (renamed c (f.a + k)), BitVec.allOnes 1024,
          (tileOf c f.acc).extractLsb' (1024 * k) 1024⟩)) ∧
      GivesTile (.ascl f) s f.acc (fun i j =>
        let x : Rv := if 2 ≤ ftAcc e then .fin ((BitVec.ofNat 32 (X i j)).toInt : Rat) false else decFtz .fp32 (ftFtz e) (X i j)
        if x = .nan ∨ Q i = .nan ∨ Q (16 + j) = .nan then (0x7FC00000, 0)
        else
          let p := mulRv x (Q i)
          let r := mulRv p.1 (Q (16 + j))
          if p.2 = true ∨ r.2 = true then (0x7FC00000, flNV)
          else round r.1 .fp32 m (decide (ftAcc e = 1 ∨ ftAcc e = 3)) (ftFtz e)) ∧
      GivesTile (.aadd f) s f.acc (fun i j =>
        let x := BitVec.ofNat 32 (X i j)
        let y := BitVec.ofNat 32 (Y i j)
        if ftAcc e = 2 then ((x + y).toNat, 0)
        else if ftAcc e = 3 then ((BitVec.ofInt 32 (clamp (x.toInt + y.toInt) (-2 ^ 31) (2 ^ 31 - 1))).toNat, 0)
        else
          let t := addRv (decFtz .fp32 (ftFtz e) (X i j)) (decFtz .fp32 (ftFtz e) (Y i j)) (decide (m = .rdn))
          ((round t.1 .fp32 m (decide (ftAcc e = 1)) (ftFtz e)).1,
            (round t.1 .fp32 m (decide (ftAcc e = 1)) (ftFtz e)).2 ||| if t.2 = true then flNV else 0)))

/-- R126 to R128, R130, R233: `adrn`. It waits for its tile, and at an attached queue for room and for a pending detach. When its bundle
commits it pushes one row with no tile into its queue at every position of the mask; a ninth row ends the context; a performing cell puts its tile into the slot of its column, or adds it to what stands there, and clears the tile after if CLR is
1; a cell that does not perform passes the slot on. A sum-mode addition notes its flags, the cell's own, in the M byte; with CLR the tile is
busy for one core cycle. -/
def Sys2Proof.Spec.DrainsFillTheirRow : Prop :=
  ∀ (f : FmtM) (s : State),
    (s.phase = .wait → ∃ q : Bool, Completes (.adrn f) s { s with iss := { s.iss with stall := q } } ∧
      (q = true ↔ s.iss.stall = true ∨ Busy s.t false f.acc ∨ ((fget s.iss.t0.dq default f.dq).attached = true ∧
        ((fget s.iss.t0.dq default f.dq).pending = true ∨
          ∃ j < s.iss.t0.prog.hdr.chain, j < 48 ∧ s.iss.fl.pm.getLsbD j = true ∧
            8 ≤ ((s.iss.t0.posAt j).rows f.dq).countP (fun r => !r.popped))))) ∧
    (s.phase = .commit → (∃ j ∈ positions s.iss.fl.pm s.t.len, 8 ≤ s.t.occupancy j f.dq) →
      ∃ x, Completes (.adrn f) s x ∧ (x.ctx s.t.id.ctx).ffault.isSome = true) ∧
    (s.phase = .commit → (∀ j ∈ positions s.iss.fl.pm s.t.len, s.t.occupancy j f.dq < 8) →
      ∃ t : Task, Completes (.adrn f) s { s with t := t, iss := { s.iss with fl := { s.iss.fl with
          entry := s.iss.t0.fmtEntry f.fmt, ops := s.iss.fl.ops ++ [.adrn f] } } } ∧
        t = { s.t with pos := t.pos, busy := if f.clr = 1 then finsert s.t.busy f.acc (s.t.ctl.cyc + 1, false) else s.t.busy } ∧
        (∀ j q, (t.posAt j).rows q = if j ∈ positions s.iss.fl.pm s.t.len ∧ q = f.dq
          then (s.t.posAt j).rows q ++ [{ n := s.iss.n, slots := [], have_ := [], popped := false }] else (s.t.posAt j).rows q)) ∧
    (s.phase = .cell → ¬ laneOn s.cr f.pred f.pneg 0 → Completes (.adrn f) s s) ∧
    (s.phase = .cell → laneOn s.cr f.pred f.pneg 0 → ∀ r : DrainRow,
      ((s.t.posAt s.cr.pos).rows f.dq).find? (fun r => r.n == s.cr.fl.n) = some r →
      let c := s.cr
      let e := c.fl.entry
      let T := tileOf c f.acc
      let V := fget r.slots 0 c.col
      ∃ (s' : State) (W : TileReg) (F : Nat), Completes (.adrn f) s s' ∧
        s' = { s with t := { s.t with pos := s'.t.pos }, cr := { c with fl := (flagged s .m F).cr.fl, cell := s'.cr.cell } } ∧
        s'.cr.cell = (if f.clr = 1 then (tiled s f.acc 0 0).cr.cell else c.cell) ∧
        ((s'.t.posAt c.pos).rows f.dq).find? (fun r => r.n == c.fl.n) =
          some { r with slots := fset r.slots 0 c.col W, have_ := if fget r.have_ 0 c.col = 0 ∨ f.dmode = 0 then finsert r.have_ c.col 1 else r.have_ } ∧
        (fget r.have_ 0 c.col = 0 ∨ f.dmode = 0 → W = T ∧ F = 0) ∧
        (fget r.have_ 0 c.col ≠ 0 → f.dmode ≠ 0 → ∀ k, (F.testBit k = true ↔ ftAcc e < 2 ∧ ∃ i < 16, ∃ j < 16,
          let a := addRv (decFtz .fp32 (ftFtz e) (elt V i j)) (decFtz .fp32 (ftFtz e) (elt T i j)) false
          ((round a.1 .fp32 .rne (decide (ftAcc e = 1)) (ftFtz e)).2 ||| if a.2 = true then 1 else 0).testBit k = true)) ∧
        (fget r.have_ 0 c.col ≠ 0 → f.dmode ≠ 0 → ∀ i < 16, ∀ j < 16,
          let x := elt V i j
          let y := elt T i j
          (ftAcc e < 2 → elt W i j = (round (addRv (decFtz .fp32 (ftFtz e) x) (decFtz .fp32 (ftFtz e) y) false).1 .fp32 .rne
            (decide (ftAcc e = 1)) (ftFtz e)).1 % 2 ^ 32) ∧
          (ftAcc e = 2 → elt W i j = (x + y) % 2 ^ 32) ∧
          (ftAcc e = 3 → BitVec.ofNat 32 (elt W i j) = BitVec.ofInt 32
            (clamp ((BitVec.ofNat 32 x).toInt + (BitVec.ofNat 32 y).toInt) (-2 ^ 31) (2 ^ 31 - 1)))))

/-- R130: the scoreboard. A bundle whose M operation touches a busy tile waits, but for a matrix step behind matrix steps; at commit
the operation keeps the bit of its tile for the stated core cycles, and travels with its bundle, its entry resolved. -/
def Sys2Proof.Spec.TileScoreboard : Prop :=
  ∀ (f : FmtM) (s : State),
    let row (i : Instr) (step : Bool) (cycles : Nat) (touched : List Nat) : Prop :=
      (s.phase = .wait → ∃ q : Bool, Completes i s { s with iss := { s.iss with stall := q } } ∧
        (q = true ↔ s.iss.stall = true ∨ ∃ n ∈ touched, Busy s.t step n)) ∧
      (s.phase = .commit → Completes i s { s with
        t := (if cycles = 0 then s.t else { s.t with busy := finsert s.t.busy f.acc (s.t.ctl.cyc + cycles, step) })
        iss := { s.iss with fl := { s.iss.fl with entry := s.iss.t0.fmtEntry f.fmt, ops := s.iss.fl.ops ++ [i] } } })
    row (.mma f) true 6 [f.acc] ∧ row (.mmas f) true 6 [f.acc] ∧ row (.mmaz f) true 6 [f.acc] ∧ row (.aclr f) false 1 [f.acc] ∧
    row (.ald f) false 3 [f.acc] ∧ row (.ast f) false 0 [f.acc] ∧ row (.ascl f) false 4 [f.acc] ∧
    row (.aadd f) false 4 [f.acc, f.b % 16]

namespace Sys2Proof.Spec

/-! ## Cell SRAM -/

/-- The row of R155 named in the executing cell. -/
def rowNamed (c : CellRun) (f : FmtX) : Nat := (f.addr + f.stride * (c.fl.lc.getD f.lcsel 0).toNat) % 2048
/-- A row of the data area or the carve-out (R59). -/
def kept (c : CellRun) (row : Nat) : Prop := row < c.crows ∨ (2048 - c.spill ≤ row ∧ row < 2048)
/-- What a row reads as. -/
def rowRead (c : CellRun) (row : Nat) : VecReg := if row < c.crows ∨ (2048 - c.spill ≤ row ∧ row < 2048) then fget c.cell.sram 0 row else 0
/-- Lane `l` of a register. -/
def ln (v : VecReg) (l : Nat) : Word := v.extractLsb' (32 * l) 32

end Sys2Proof.Spec

open Sys2Proof Sys2Proof.Machine Sys2Proof.Spec

/-! ## The cell-memory slot -/

/-- R59, R155 to R159: the X operations in a cell: which lanes they write and with what, where their rows lie, that a gap row reads zero
and drops writes, and that nothing else changes. -/
def Obligations.CellMemoryResults : Prop :=
  ∀ (f : FmtX) (s : State), s.phase = .cell →
    let c := s.cr
    let R := rowNamed c f
    let S := 2048 - c.spill + (f.addr + f.stride * (c.fl.lc.getD f.lcsel 0).toNat)
    let lat := if c.cls = 1 then 3 else 4
    let lanes (m : VecReg) : Prop := ∀ i < 1024, (m.getLsbD i = true ↔ laneOn c f.pred f.pneg (i / 32))
    let loads (i : Instr) (g : Nat → Word) : Prop := ∃ m v, Completes i s (delivers s f.v lat m v) ∧ lanes m ∧ ∀ l < 32, ln v l = g l
    let stores (i : Instr) (row : Nat) : Prop := ∃ z : Cell, Completes i s { s with cr := { c with cell := z } } ∧
      z = { c.cell with sram := z.sram, errs := z.errs } ∧ (∀ e ∈ z.errs, e ∈ c.cell.errs) ∧ (∀ r, r ≠ row → fget z.sram 0 r = fget c.cell.sram 0 r) ∧
      (¬ kept c row → z = c.cell) ∧
      (kept c row → ∀ l < 32, (laneOn c f.pred f.pneg l → ln (fget z.sram 0 row) l = ln (c.src f.v) l) ∧
        (¬ laneOn c f.pred f.pneg l → ln (fget z.sram 0 row) l = ln (fget c.cell.sram 0 row) l))
    let place (l : Nat) : Nat := (128 * R + (ln (c.src (f.v + 1)) l).toNat) % 2 ^ 18 / 4
    loads (.ldv f) (fun l => ln (rowRead c R) l) ∧
    loads (.ldb f) (fun _ => ln (rowRead c R) f.aux) ∧
    (f.addr + f.stride * (c.fl.lc.getD f.lcsel 0).toNat < c.spill → loads (.ldsp f) (fun l => ln (rowRead c S) l)) ∧
    loads (.gthl f) (fun l => ln (rowRead c (place l / 32)) (place l % 32)) ∧
    (∃ m v, Completes (.ldt f) s (delivers s f.v lat m v) ∧ lanes m ∧
      let z := f.aux % 2 + 1
      let K := 4 / z
      ∀ b < 2, ∀ kk < K, ∀ j < 16, v.extractLsb' (512 * b + 8 * z * (K * j + kk)) (8 * z) =
        (rowRead c R).extractLsb' (512 * b + 8 * z * (16 * kk + j)) (8 * z)) ∧
    stores (.stv f) R ∧ (f.addr + f.stride * (c.fl.lc.getD f.lcsel 0).toNat < c.spill → c.spill ≤ 2048 → stores (.stsp f) S) ∧
    (∃ m v, Completes (.movx f) s (delivers s 2040 1 m v) ∧ lanes m ∧ v = c.src f.v) ∧
    (∃ m v, Completes (.movxp f) s (delivers (delivers s 2040 1 m v) f.v 1 m v) ∧ lanes m ∧
      v = if f.aux % 4 = 0 then c.xn else if f.aux % 4 = 1 then c.xs else if f.aux % 4 = 2 then c.xe else c.xw) ∧
    (∃ z : Cell, Completes (.sctl f) s { s with cr := { c with cell := z } } ∧ z = { c.cell with sram := z.sram, errs := z.errs } ∧ (∀ e ∈ z.errs, e ∈ c.cell.errs) ∧
      ∀ w, ln (fget z.sram 0 (w / 32)) (w % 32) =
        if (w / 32 < c.crows ∨ (2048 - c.spill ≤ w / 32 ∧ w / 32 < 2048)) then
          match ((List.range 32).filter (fun l => (c.predBits f.pred f.pneg).getLsbD l && decide (place l = w))).getLast? with
          | some l => ln (c.src f.v) l
          | none => ln (fget c.cell.sram 0 (w / 32)) (w % 32)
        else ln (fget c.cell.sram 0 (w / 32)) (w % 32))

/-- R126, R127, R130: the drain of tiles into a row, and the scoreboard of the tiles. -/
def Obligations.DrainsAndScoreboard : Prop := DrainsFillTheirRow ∧ TileScoreboard

namespace Sys2Proof.Spec

/-! ## Edge operations -/

/-- The fields of an edge operation, and whether it stands in ST (R85). -/
def edgeOf (i : Instr) : Option (FmtEdge × Bool) :=
  match i with
  | .eldw f | .eldn f | .eldwr f | .eldnr f | .ews f | .ewin f | .eldt f | .eldb f => some (f, false)
  | .ests f | .este f | .estsr f | .epop f | .epopr f | .estsa f => some (f, true)
  | _ => none

/-- An operation on a ring entry. -/
def onRing (i : Instr) : Bool := match i with | .eldwr _ | .eldnr _ | .estsr _ | .epopr _ => true | _ => false
/-- A drain pop. -/
def pops (i : Instr) : Bool := match i with | .epop _ | .epopr _ => true | _ => false
/-- The window load. -/
def isWin (i : Instr) : Bool := match i with | .ewin _ => true | _ => false
/-- The weight-store load. -/
def isEws (i : Instr) : Bool := match i with | .ews _ => true | _ => false
/-- The load of one segment. -/
def isOne (i : Instr) : Bool := match i with | .eldb _ => true | _ => false
/-- The transposing load. -/
def isTurn (i : Instr) : Bool := match i with | .eldt _ => true | _ => false
/-- The east egress. -/
def isEast (i : Instr) : Bool := match i with | .este _ => true | _ => false
/-- The atomic addition. -/
def isAdd (i : Instr) : Bool := match i with | .estsa _ => true | _ => false

/-- Register `k` of the pack of an edge operation at issue. -/
def packReg (s : State) (f : FmtEdge) (k : Nat) : Nat := (s.iss.t0.sReg (f.pack + k)).toNat
/-- BASE, PITCH, CSTR, SBASE (R194). -/
def BASE (s : State) (f : FmtEdge) : Nat := packReg s f 0 % 2 ^ 32
/-- PITCH. -/
def PITCH (s : State) (f : FmtEdge) : Nat := packReg s f 0 / 2 ^ 32
/-- CSTR. -/
def CSTR (s : State) (f : FmtEdge) : Nat := packReg s f 1 % 2 ^ 32
/-- SBASE. -/
def SBASE (s : State) (f : FmtEdge) : Nat := packReg s f 1 / 2 ^ 32
/-- o_i (R194). -/
def offset (s : State) (f : FmtEdge) (j i : Nat) : Nat := 128 * f.imm + i * PITCH s f + f.cp * j * CSTR s f
/-- The resolved AFMT. -/
def AFMT (s : State) (f : FmtEdge) : Nat := ftA (s.iss.t0.fmtEntry f.fmt)
/-- bb (R185). -/
def blockSize (s : State) (f : FmtEdge) : Nat := if AFMT s f = 14 then 16 else 32

/-- SWZ of R184, modes 0 to 2. -/
def SWZ (mode a : Nat) : Nat :=
  if mode = 1 then a ^^^ (a / 2 ^ 16 % 2 ^ 9 * 2 ^ 7)
  else if mode = 2 then a / 2 ^ 17 * 2 ^ 17 + a / 2 ^ 7 % 2 ^ 5 * 2 ^ 12 + a / 2 ^ 12 % 2 ^ 5 * 2 ^ 7 + a % 2 ^ 7
  else a

/-- `n` bytes at `a` lie in the task's partition of a die: shared SRAM, or the weight store (R182, R187). -/
def inPartition (s : State) (ws : Bool) (die a n : Nat) : Prop :=
  let p := s.partOf s.iss.t0.id.ctx die
  if ws then p.wsbase ≤ a ∧ a + n ≤ p.wslim else p.ssbase ≤ a ∧ a + n ≤ p.sslim

/-- The die of chain position j (R16). -/
def dieOf (t : Task) (j : Nat) : Nat := (t.id.head + j) / 2

/-- The positions of the bundle's mask (R32). -/
def atPosition (s : State) (j : Nat) : Prop := j < s.iss.t0.prog.hdr.chain ∧ j < 48 ∧ s.iss.fl.pm.getLsbD j = true

/-- The ring an edge operation names. -/
def ringAt (s : State) (f : FmtEdge) : Option Ring := (s.iss.t0.rings.find? (fun e => e.1 == f.ring)).map (·.2)

/-- The address of the ring entry it claims (R193). -/
def entryBase (s : State) (f : FmtEdge) (store : Bool) : Nat :=
  match ringAt s f with
  | some r => r.base + (if store then r.ip else r.ic).toNat % r.count * 2 ^ r.e
  | none => 0

/-- The input pixel of row `i` of `ewin` (R199); `none` is padding. -/
def pixel (s : State) (f : FmtEdge) (j i : Nat) : Option Nat :=
  let P (k lo n : Nat) : Nat := packReg s f k / 2 ^ lo % 2 ^ n
  let n := P 2 0 32 + i
  let y : Int := (n / P 2 32 16 : Nat) * P 1 32 4 + (f.imm / P 2 48 8 : Nat) * P 1 40 4 - P 1 48 8
  let x : Int := (n % P 2 32 16 : Nat) * P 1 36 4 + (f.imm % P 2 48 8 : Nat) * P 1 44 4 - P 1 56 8
  if 0 ≤ y ∧ y < P 1 16 16 ∧ 0 ≤ x ∧ x < P 1 0 16 then
    some (BASE s f + f.cp * j * P 3 0 32 + y.toNat * PITCH s f + 128 * x.toNat)
  else none

/-- Bytes of a drain slot in its target format (R197). -/
def slotBytes (t : Nat) : Nat := if 14 ≤ t ∧ t ≤ 16 then 8 * (if t = 14 then 16 else 32) else 32 * typeWidth t

/-- Everything R194, R185, R182, R196 and R197 ask of an edge operation but `ewin`. -/
def EdgeOk (s : State) (i : Instr) (f : FmtEdge) : Prop :=
  let ring : Prop := onRing i = true
  let pop : Prop := pops i = true
  let block := 14 ≤ AFMT s f ∧ AFMT s f ≤ 16
  let ws := isEws i
  let adds : Prop := isAdd i = true
  let store : Bool := match edgeOf i with | some (_, b) => b | none => false
  f.pack + 2 ≤ 64 ∧
  (pop → (fget s.iss.t0.dq default (if onRing i then packReg s f 0 % 4 else f.ring % 4)).attached = false) ∧
  (ring → (ringAt s f).isSome) ∧
  (pop → ¬ ring → (block ↔ f.swz = 3)) ∧
  (pop → ring → ¬ block ∧ BASE s f < 4) ∧
  (ring → ¬ pop → BASE s f = 0) ∧ (adds → AFMT s f = 8) ∧ (¬ pop → ¬ adds → f.swz = 3 → block) ∧
  (f.swz ≠ 3 → SBASE s f = 0) ∧
  (ring ∨ BASE s f % 128 = 0) ∧ PITCH s f % 128 = 0 ∧ CSTR s f % 128 = 0 ∧ SBASE s f % 128 = 0 ∧
  ∀ j, atPosition s j → ∀ k < (if isOne i then 1 else 32),
    let o := offset s f j k
    let a := (if onRing i then entryBase s f store else BASE s f) + o
    let d := dieOf s.iss.t0 j
    let entry (n : Nat) : Prop := ∀ r, ring → ringAt s f = some r → o + n ≤ 2 ^ r.e
    if pops i then
      (∀ m < slotBytes (AFMT s f) / 128, inPartition s false d (a + 128 * m) 128 ∧ (block ∨ entry (128 * m + 128))) ∧
        (block → o % (8 * blockSize s f) = 0 ∧ inPartition s false d (SBASE s f + o / blockSize s f) 8)
    else if f.swz = 3 then o % (128 * blockSize s f) = 0 ∧ inPartition s ws d (SBASE s f + o / blockSize s f) 128
    else entry 128 ∧ inPartition s ws d a 128

/-- Everything R199 asks of `ewin`. -/
def WindowOk (s : State) (f : FmtEdge) : Prop :=
  let P (k lo n : Nat) : Nat := packReg s f k / 2 ^ lo % 2 ^ n
  f.pack + 4 ≤ 64 ∧ P 3 32 32 = 0 ∧ BASE s f % 128 = 0 ∧ PITCH s f % 128 = 0 ∧ P 3 0 32 % 128 = 0 ∧
  P 2 56 8 ≠ 0 ∧ P 2 48 8 ≠ 0 ∧ P 2 32 16 ≠ 0 ∧ P 1 44 4 ≠ 0 ∧ P 1 40 4 ≠ 0 ∧ P 1 36 4 ≠ 0 ∧ P 1 32 4 ≠ 0 ∧
  f.imm < P 2 56 8 * P 2 48 8 ∧ (f.swz = 3 → 14 ≤ AFMT s f ∧ AFMT s f ≤ 16) ∧
  ∀ j, atPosition s j → ∀ k < 32, ∀ a, pixel s f j k = some a → inPartition s false (dieOf s.iss.t0 j) a 128

/-- S(j) of R26. -/
def skewOf (s : State) (head : Nat) : Nat → Nat
  | 0 => 0
  | k + 1 => skewOf s head k + 32 + s.part.seamlat.getD (head + k + 1) 0

/-- Byte `k` of a 128-byte segment. -/
def segByte (v : VecReg) (k : Nat) : Byte := v.extractLsb' (8 * k) 8

/-- Everything of bundle `fl` is done: its cells, its LD and ST operations, its aggregate (R111). -/
def finished (t : Task) (fl : Flight) : Prop :=
  fl.cells = 1024 * t.prog.hdr.chain ∧ (∀ e ∈ t.pos, ∀ w, w ∈ e.2.ld ∨ w ∈ e.2.st → w.inst.n ≠ fl.n) ∧ t.ctl.aggPend ≠ some fl.n

/-- R58, R111: `u` is `t` after the flags of its finished bundles have been merged in bundle order, up to the first that is unfinished. The
four bytes are OR'd into `$fpf`; while VALID is 0, the first of these bundles that has an event and committed with FEVEN set
leaves its record in `$fpev`: VALID, the event's SLOT, POS, ROW, COL and EDGE at bits 62:44, the bundle's address at bits 31:0. -/
def Merged (t u : Task) : Prop :=
  ∃ k ≤ t.flights.length, let done := t.flights.take k
    u = { t with flights := t.flights.drop k, sys := { t.sys with fpf := u.sys.fpf, fpev := u.sys.fpev } } ∧
    (∀ fl ∈ done, finished t fl) ∧ (∀ fl, t.flights[k]? = some fl → ¬ finished t fl) ∧
    u.sys.fpf = done.foldl (fun v fl => v ||| BitVec.ofNat 64 (fl.fSeq + 2 ^ 8 * fl.fM + 2 ^ 16 * fl.fV0 + 2 ^ 24 * fl.fV1)) t.sys.fpf ∧
    u.sys.fpev = (if t.sys.fpev.getLsbD 63 then t.sys.fpev
      else match done.find? (fun fl => fl.feven && fl.ev.isSome) with
        | some fl => BitVec.ofNat 64 (2 ^ 63 + fl.ev.getD 0 % 2 ^ 19 * 2 ^ 44 + fl.addr % 2 ^ 32)
        | none => t.sys.fpev)

/-- An access stands in the way of another: no word of the SRAMs has an error. -/
def Sound (s : State) : Prop := s.mem.sramErr = [] ∧ s.mem.wsErr = []

/-- The head at an array has task `t`, and no task is at work between steps. -/
def At (s : State) (head : Nat) (t : Task) : Prop := s.taskAt head = some t ∧ s.t = default

end Sys2Proof.Spec

open Sys2Proof Sys2Proof.Machine Sys2Proof.Spec

/-! ## Edge loaders -/

/-- R184, R185, R194, R199: the physical address of every segment of an edge load or of an egress store, from the pack as it stands at
issue; `none` is the padding of `ewin`. -/
def Obligations.SegmentAddresses : Prop :=
  ∀ (f : FmtEdge) (s : State) (j k : Nat),
    let o := offset s f j k
    let plane := SBASE s f + o / blockSize s f
    let linear := some (if f.swz = 3 then plane else SWZ f.swz (BASE s f + o))
    let entry (store : Bool) := some (if f.swz = 3 then plane else SWZ f.swz (entryBase s f store + o))
    let at_ (i : Instr) (store : Bool) : Option Nat := (mkEdge s i store).seg j k
    (f.swz = 3 → 14 ≤ AFMT s f ∧ AFMT s f ≤ 16) →
    at_ (.eldw f) false = linear ∧ at_ (.eldn f) false = linear ∧ at_ (.eldt f) false = linear ∧ at_ (.ews f) false = linear ∧
    at_ (.ests f) true = linear ∧ at_ (.este f) true = linear ∧ at_ (.eldwr f) false = entry false ∧
    at_ (.eldnr f) false = entry false ∧ at_ (.estsr f) true = entry true ∧
    at_ (.eldb f) false = some (if f.swz = 3 then SBASE s f + offset s f j 0 / blockSize s f else SWZ f.swz (BASE s f + offset s f j 0)) ∧
    (f.swz ≠ 3 → at_ (.ewin f) false = (pixel s f j k).map (SWZ f.swz)) ∧
    -- where the pieces of a store lie: one segment, the 32 words of `estsa`, the segments and the scales of a drain slot
    (f.swz ≠ 3 → ∀ m < 32, (mkEdge s (.estsa f) true).piece j k m = (SWZ f.swz (BASE s f + o) + 4 * m, 4)) ∧
    (∀ i, i = .ests f ∨ i = .este f ∨ i = .estsr f → some ((mkEdge s i true).piece j k 0).1 = at_ i true) ∧
    (∀ m, let a := if 14 ≤ AFMT s f ∧ AFMT s f ≤ 16 then
        (if m < slotBytes (AFMT s f) / 128 then (BASE s f + o + 128 * m, 128) else (plane, 8))
        else (SWZ f.swz (BASE s f + (o + 128 * m)), 128)
      (AFMT s f < 14 → f.swz ≠ 3) → (mkEdge s (.epop f) true).piece j k m = a) ∧
    (f.swz ≠ 3 → AFMT s f < 14 → ∀ m,
      (mkEdge s (.epopr f) true).piece j k m = (SWZ f.swz (entryBase s f true + (o + 128 * m)), 128)) ∧
    (∀ m a, m < 3 → SWZ m a / 2 ^ 17 = a / 2 ^ 17 ∧ SWZ m a % 2 ^ 7 = a % 2 ^ 7 ∧ SWZ m (SWZ m a) = a)

/-- R48, R87, R188, R193 to R199: an edge operation at issue. Its checks fail exactly where its pack, its ring, its entry or an address at a
position of the mask is wrong; it waits for its ring and for the refresh of its bank; at commit it leaves its work, with the pack
as read, at every position of the mask, a pop takes the oldest row of each, and a claim moves the cursor and owes a publication. The
slot of `epop` and `epopr` under AFMT 3 and 7, 64 bits an element, is log entry 16; the module's phase, which the refresh wait takes from the
head's own count, log entry 7. -/
def Obligations.EdgeOperationsAtIssue : Prop :=
  ∀ (i : Instr) (f : FmtEdge) (store : Bool) (s : State), edgeOf i = some (f, store) →
    let e := mkEdge s i store
    let q := if pops i && onRing i then packReg s f 0 % 4 else f.ring % 4
    (s.phase = .check → ∃ l, Completes i s { s with iss := { s.iss with fails := s.iss.fails ++ l } } ∧
      (∀ x ∈ l, x.source = if store then 7 else 6) ∧
      (l = [] ↔ if isWin i then WindowOk s f else EdgeOk s i f)) ∧
    (s.phase = .wait → ∃ w, Completes i s { s with iss := { s.iss with stall := w } } ∧
      (w = true ↔ s.iss.stall = true ∨
        (onRing i ∧ ∃ r, ringAt s f = some r ∧ if store then r.count ≤ (r.ip - r.c).toNat else r.p = r.ic) ∨
        (isEws i ∧ ∃ j, atPosition s j ∧ ∃ k < 32,
          let ph := (s.iss.t0.ctl.now + skewOf s s.iss.t0.id.head j + k + 16383) % 16384
          ph % 256 < 32 ∧ ph / 256 = (BASE s f + offset s f j k) / 2 ^ 25 % 64))) ∧
    (s.phase = .commit → (pops i → ∀ j, atPosition s j → ∃ r, r ∈ (s.t.posAt j).rows q ∧ r.popped = false) →
      ∃ t : Task, Completes i s { s with
          t := t
          iss := { s.iss with fl := { s.iss.fl with
            capSouth := s.iss.fl.capSouth || (store && !(pops i || isEast i))
            capEast := s.iss.fl.capEast || isEast i } } } ∧
        t = { s.t with rings := t.rings, pubs := t.pubs, pos := t.pos, ready := t.ready } ∧
        t.ready = s.t.ready ++ (if store = false ∧ s.iss.t0.prog.hdr.latcls = 1 then [(s.iss.n + 4, s.t.ctl.cyc + 6)] else []) ∧
        (∀ j, ¬ atPosition s j → t.posAt j = s.t.posAt j) ∧
        (∀ j, atPosition s j →
          (store = false → t.posAt j = { s.t.posAt j with ld := (s.t.posAt j).ld ++ [⟨e, [], [], 0⟩] }) ∧
          (store = true → pops i = false → t.posAt j = { s.t.posAt j with st := (s.t.posAt j).st ++ [⟨e, [], [], 0⟩] }) ∧
          (pops i → ∃ r before after, (s.t.posAt j).rows q = before ++ r :: after ∧ (∀ x ∈ before, x.popped = true) ∧ r.popped = false ∧
            t.posAt j = { s.t.posAt j with st := (s.t.posAt j).st ++ [⟨{ e with row := r.n }, [], [], 0⟩], dq := (t.posAt j).dq } ∧
            ∀ p, (t.posAt j).rows p = if p = q then before ++ { r with popped := true } :: after else (s.t.posAt j).rows p)) ∧
        (onRing i → f.rows = 1 → ∀ r, (s.t.rings.find? (fun e => e.1 == f.ring)).map (·.2) = some r →
          t.rings = finsert s.t.rings f.ring (if store then { r with ip := r.ip + 1 } else { r with ic := r.ic + 1 }) ∧
          t.pubs = s.t.pubs ++ [⟨f.ring, store, s.iss.n⟩]) ∧
        ((¬ onRing i ∨ f.rows ≠ 1) → t.rings = s.t.rings ∧ t.pubs = s.t.pubs))

/-- The load side (R40, R184, R195, R199): an edge loader acts on a segment of the first load of its position, once earlier accesses allow it: the 128 bytes
at the segment's address of the die fall due at their pseudo-cell λ bundles after, `eldt` delivers the transposed words once
it has read all 32, `eldb` its one segment to all 32; no byte of memory changes. -/
def Sys2Proof.Spec.LoadSegmentsAct : Prop :=
  ∀ (head pos seg : Nat) (s : State) (t : Task) (w : EdgeWork) (rest : List EdgeWork) (f : FmtEdge),
    At s head t → Sound s → (t.posAt pos).ld = w :: rest → edgeOf w.inst.op = some (f, false) →
    let i := w.inst.op
    let north : Bool := match i with
      | .eldn _ | .eldnr _ | .ews _ => true
      | .eldt _ | .eldb _ => decide (f.rows = 1)
      | _ => false
    let ready := seg < (if isOne i then 1 else 32) ∧ seg ∉ w.acted ∧ t.loadHeld pos w.inst (w.inst.seg pos seg) = false
    let lam := if t.prog.hdr.latcls = 1 then 4 else 6
    let due := w.inst.n + lam
    (¬ ready → Completes (.edgeSegmentAct head pos false seg) s s) ∧
    (ready → ∃ (v : VecReg) (u : Task) (l : List Ingress),
      Completes (.edgeSegmentAct head pos false seg) s { s with tasks := finsert s.tasks t.id.uid u } ∧
      (∀ k < 128, segByte v k = match w.inst.seg pos seg with
        | none => 0
        | some a => match i with
          | .ews _ => rdByte s.mem.ws (dieOf t pos * 2 ^ 31 + a + k)
          | _ => rdByte s.mem.sram (dieOf t pos * 2 ^ 27 + a + k)) ∧
      Merged { t with pos := u.pos } u ∧ (∀ j, j ≠ pos → u.posAt j = t.posAt j) ∧
      (u.posAt pos).ingress = (t.posAt pos).ingress ++ l ∧ (u.posAt pos).st = (t.posAt pos).st ∧
      (u.posAt pos).dq = (t.posAt pos).dq ∧ (u.posAt pos).north = (t.posAt pos).north ∧ (u.posAt pos).west = (t.posAt pos).west ∧
      (isOne i = false → isTurn i = false → l = [⟨north, seg, due, v⟩]) ∧
      (isOne i → l = (List.range 32).map (fun k => ⟨north, k, due, v⟩)) ∧
      (isTurn i → if w.acted.length + 1 = 32
        then l.map (·.seg) = List.range 32 ∧ ∀ x ∈ l, x.north = north ∧ x.due = due ∧
          ∀ m < 32, ln x.val m = ln (if m = seg then v else fget w.caps 0 m) x.seg
        else l = []) ∧
      (u.posAt pos).ld = if (if isOne i then 1 else 32) ≤ w.acted.length + 1 then rest
        else { w with acted := w.acted ++ [seg], caps := match i with | .eldt _ => fset w.caps 0 seg v | _ => w.caps } :: rest)

/-- The store side (R28, R42, R126): the edge loader takes segment `seg` of the first store that has not acted on it, once its data have
left the array: the edge cell of the segment has executed the bundle, or the popped drain row has passed array row 31 of its
column. The segment is noted, and nothing else changes. -/
def Sys2Proof.Spec.StoreSegmentsAct : Prop :=
  ∀ (head pos seg : Nat) (s : State) (t : Task), At s head t →
    ((∀ w ∈ (t.posAt pos).st, seg ∈ w.acted) → Completes (.edgeSegmentAct head pos true seg) s s) ∧
    ∀ (before after : List EdgeWork) (w : EdgeWork), (t.posAt pos).st = before ++ w :: after → (∀ x ∈ before, seg ∈ x.acted) →
      seg ∉ w.acted →
      let left := seg < 32 ∧ (if pops w.inst.op then w.inst.row < (t.cellAt pos 31 seg).n
        else if isEast w.inst.op then w.inst.n < (t.cellAt pos seg 31).n else w.inst.n < (t.cellAt pos 31 seg).n)
      (¬ left → Completes (.edgeSegmentAct head pos true seg) s s) ∧
      (left → ∃ u : Task, Completes (.edgeSegmentAct head pos true seg) s { s with tasks := finsert s.tasks t.id.uid u } ∧
        u = { t with pos := u.pos } ∧ (∀ j, j ≠ pos → u.posAt j = t.posAt j) ∧
        u.posAt pos = { t.posAt pos with st := before ++ { w with acted := w.acted ++ [seg] } :: after })

/-- R28, R40, R42, R126, R195, R199: what an edge loader does with one segment of a load, and with one of a store. -/
def Obligations.EdgeLoadsDeliver : Prop := LoadSegmentsAct ∧ StoreSegmentsAct

/-- R42, R181, R196 to R198: the next piece of the first store of a position performs, once its data have left the array and earlier accesses
allow it. The bytes it writes are those of its address, with the captured segment, the converted drain slot, or the sum with one
captured lane; every other byte of every memory stands. INT32 rows under ACC, the lane bits (R109) and FTZ of a pop are log entry 48, the pieces'
ascending order is log entry 56, 64-bit targets log entry 16. -/
def Obligations.EdgeStoresPerform : Prop :=
  ∀ (head pos : Nat) (s : State) (t : Task) (w : EdgeWork) (rest : List EdgeWork) (f : FmtEdge),
    At s head t → Sound s → (t.posAt pos).st = w :: rest → edgeOf w.inst.op = some (f, true) →
    let i := w.inst.op
    let e := w.inst.entry
    let T := ftA e
    let block := 14 ≤ T ∧ T ≤ 16
    let pieces := if pops i then slotBytes T / 128 + (if block then 1 else 0) else if isAdd i then 32 else 1
    let c := w.performed / pieces
    let k := w.performed % pieces
    let p := w.inst.piece pos c k
    let base := dieOf t pos * 2 ^ 27 + p.1
    let done := c ∈ w.acted ∧ t.storeHeld pos w.inst = false
    let cap := fget w.caps 0 c
    (¬ done → Completes (.edgeStorePerform head pos) s s) ∧
    (done → (pops i → ∃ r ∈ (t.posAt pos).rows w.inst.dq, r.n = w.inst.row) → ∃ (m : Mem) (u : Task),
      Completes (.edgeStorePerform head pos) s { s with tasks := finsert s.tasks t.id.uid u, mem := { s.mem with sram := m } } ∧
      (∀ a, ¬ (base ≤ a ∧ a < base + p.2) → rdByte m a = rdByte s.mem.sram a) ∧
      (pops i = false → isAdd i = false → p.2 = 128 ∧ ∀ b < 128, rdByte m (base + b) = segByte cap b) ∧
      (isAdd i → p.2 = 4 ∧
        let x := decFtz .fp32 (ftFtz e) (rdNat s.mem.sram base 4)
        let y := decFtz .fp32 (ftFtz e) (ln cap k).toNat
        let mode := rndNoSr (ftRnd e)
        rdNat m base 4 = (round (addRv x y (decide (mode = .rdn))).1 .fp32 mode (ftSat e) (ftFtz e)).1 % 2 ^ 32) ∧
      (pops i → ∀ r, ((t.posAt pos).rows w.inst.dq).find? (fun r => r.n == w.inst.row) = some r →
        let tile := fget r.slots 0 c
        let X (n : Nat) : Nat := elt tile (n / 16) (n % 16)
        let val (n : Nat) : Rv := if 2 ≤ ftAcc e then .fin ((BitVec.ofNat 32 (X n)).toInt : Rat) false else decFtz .fp32 (ftFtz e) (X n)
        let mode (n : Nat) : Rnd := rndOf (ftRnd e) (lrbe w.inst.w pos 0 c (n % 32))
        (¬ block → 0 < typeWidth T → ∃ D : Nat,
          (∀ b < 128, rdByte m (base + b) = BitVec.ofNat 8 (D / 2 ^ (1024 * k + 8 * b))) ∧
          ∀ n < 256, D / 2 ^ (typeWidth T * n) % 2 ^ typeWidth T =
            (if 8 ≤ T then (round (val n) (typeFmt T) (mode n) (ftSat e) (ftFtz e)).1
             else if ftAcc e < 2 then wrapI (toInt (val n) (typeMin T) (typeMax T) (mode n)).1 (typeWidth T)
             else wrapI (if ftSat e then clamp (BitVec.ofNat 32 (X n)).toInt (typeMin T) (typeMax T) else (BitVec.ofNat 32 (X n)).toInt)
               (typeWidth T)) % 2 ^ typeWidth T) ∧
        (block → k < slotBytes T / 128 → ∃ D : Nat, p.2 = 128 ∧
          (∀ b < 128, rdByte m (base + b) = BitVec.ofNat 8 (D / 2 ^ (1024 * k + 8 * b))) ∧
          ∀ b < 8, ∀ n < 32, D / 2 ^ (typeWidth T * (32 * b + n)) % 2 ^ typeWidth T =
            (packmx ((List.range 32).map (fun n => val (32 * b + n))) T (ftNeg128 e)).2.1.getD n 0 % 2 ^ typeWidth T) ∧
        (block → k = slotBytes T / 128 → p.2 = 8 ∧ ∀ b < 8, rdByte m (base + b) =
          BitVec.ofNat 8 (packmx ((List.range 32).map (fun n => val (32 * b + n))) T (ftNeg128 e)).1)) ∧
      u = { t with pos := u.pos, sys := u.sys, flights := u.flights } ∧ (∀ j, j ≠ pos → u.posAt j = t.posAt j) ∧
      (u.posAt pos).st = if 32 * pieces ≤ w.performed + 1 then rest else { w with performed := w.performed + 1 } :: rest)

namespace Sys2Proof.Spec

/-- Cell (r, c) of position j. -/
def cellOf (t : Task) (j r c : Nat) : Cell := fget t.cells default (1024 * j + 32 * r + c)

/-- `x` of a cell `k` bundles before its last (R37, R38). -/
def ago (z : Cell) (k : Nat) : VecReg := if k = 0 then z.x else if k = 1 then z.h1 else z.h2

/-- A pseudo-cell as bundle `n` reads it (R40): the segment that fell due last, else what stood there. -/
def pseudo (p : Pos) (north : Bool) (seg n : Nat) : VecReg :=
  match (p.ingress.filter (fun g => g.north == north && g.seg == seg && decide (g.due ≤ n))).getLast? with
  | some g => g.val
  | none => fget (if north then p.north else p.west) 0 seg

/-- The edge of a load (R195). -/
def northward (w : EdgeWork) : Bool :=
  match w.inst.op with
  | .eldn _ | .eldnr _ | .ews _ => true
  | .eldt f | .eldb f => decide (f.rows = 1)
  | _ => false

/-- The captures of an egress store after cell (row, col) has applied bundle `n` with `x` as its communication register (R42). -/
def captured (n row col : Nat) (x : VecReg) (w : EdgeWork) : FMap VecReg :=
  if w.inst.n = n ∧ pops w.inst.op = false ∧ row = 31 ∧ isEast w.inst.op = false then fset w.caps 0 col x
  else if w.inst.n = n ∧ pops w.inst.op = false ∧ col = 31 ∧ isEast w.inst.op = true then fset w.caps 0 row x
  else w.caps

end Sys2Proof.Spec

open Sys2Proof Sys2Proof.Machine Sys2Proof.Spec

/-! ## Cells execute -/

/-- R27, R29 to R31, R34 to R42: a cell executes its next bundle exactly when its operands are there. It lands the results due, reads its
neighbours as they stood after the bundles R37 and R38 name, performs the bundle's operations if the masks select it, applies its
writes of `x`, and leaves the captures and the seam value; no other cell, and nothing outside the task, changes. The bundle takes its part
of the aggregate (R43), and the flags of the bundles now finished are merged (R58, R111). No storage of a cell or an edge has an error (R354). -/
def Obligations.CellsExecuteTheirBundle : Prop :=
  ∀ (head pos row col : Nat) (s : State) (t : Task) (fl : Flight), At s head t → pos < t.prog.hdr.chain → row < 32 → col < 32 →
    (∀ k, (fget t.cells default k).errs = []) → (∀ j, (t.posAt j).errs = []) →
    let z := cellOf t pos row col
    t.flights.find? (fun x => x.n == z.n) = some fl →
    let n := z.n
    let p := t.posAt pos
    let lam := if t.prog.hdr.latcls = 1 then 4 else 6
    let late (north : Bool) : Prop := ∃ w ∈ p.ld, northward w = north ∧ w.inst.n + lam ≤ n
    let ready : Prop :=
      (row = 0 → (pos = 0 ∨ n < (cellOf t (pos - 1) 31 col).n) ∧ ¬ late true) ∧ (row ≠ 0 → n < (cellOf t pos (row - 1) col).n) ∧
      (col = 0 → ¬ late false) ∧ (col ≠ 0 → n < (cellOf t pos row (col - 1)).n) ∧
      (row ≠ 31 → n ≤ (cellOf t pos (row + 1) col).n + 1) ∧ (col ≠ 31 → n ≤ (cellOf t pos row (col + 1)).n + 1)
    let acts : Bool := fl.rm.getLsbD row && fl.cm.getLsbD col && decide (pos < 48) && fl.pm.getLsbD pos
    (¬ ready → Completes (.cellExecute head pos row col) s s) ∧
    (ready → ∃ (o d : State) (u : Task) (Z : Cell),
      Completes (.cellExecute head pos row col) s { s with tasks := finsert s.tasks t.id.uid u, cr := default, phase := .check } ∧
      cellParts (if acts then fl.ops else []) o = .next d ∧
      -- what the operations read
      o.phase = .cell ∧ o.cr.fl = fl ∧ o.cr.pos = pos ∧ o.cr.row = row ∧ o.cr.col = col ∧
      o.cr.xn = (if row ≠ 0 then ago (cellOf t pos (row - 1) col) ((cellOf t pos (row - 1) col).n - (n + 1))
        else if pos = 0 ∨ (∃ g ∈ p.ingress, g.north = true ∧ g.seg = col ∧ g.due = n) then pseudo p true col n
        else fget p.seam 0 (32 * n + col)) ∧
      o.cr.xw = (if col ≠ 0 then ago (cellOf t pos row (col - 1)) ((cellOf t pos row (col - 1)).n - (n + 1)) else pseudo p false row n) ∧
      o.cr.xs = (if row = 31 then 0 else ago (cellOf t pos (row + 1) col) ((cellOf t pos (row + 1) col).n + 1 - n)) ∧
      o.cr.xe = (if col = 31 then 0 else ago (cellOf t pos row (col + 1)) ((cellOf t pos row (col + 1)).n + 1 - n)) ∧
      (∀ i, ∀ b < 1024, (fget o.cr.cell.v 0 i).getLsbD b =
        match (z.held.filter (fun h => decide (h.dst = .v i) && decide (h.due ≤ n) && h.mask.getLsbD b)).getLast? with
        | some h => h.val.getLsbD b
        | none => (fget z.v 0 i).getLsbD b) ∧
      (∀ i, ∀ b < 32, (fget o.cr.cell.p 0 i).getLsbD b =
        match (z.held.filter (fun h => decide (h.dst = .p i) && decide (h.due ≤ n) && h.mask.getLsbD b)).getLast? with
        | some h => h.val.getLsbD b
        | none => (fget z.p 0 i).getLsbD b) ∧
      o.cr.cell = { z with v := o.cr.cell.v, p := o.cr.cell.p, held := z.held.filter (fun h => decide (h.dst = .x) || decide (n < h.due)) } ∧
      -- what is left
      cellOf u pos row col = Z ∧ (∀ k, k ≠ 1024 * pos + 32 * row + col → fget u.cells default k = fget t.cells default k) ∧
      Z = { d.cr.cell with n := n + 1, h1 := z.x, h2 := z.h1, x := Z.x, held := d.cr.cell.held.filter (fun h =>
        !(decide (h.dst = .x) && decide (h.due ≤ n + 1))) } ∧
      (∀ b < 1024, Z.x.getLsbD b =
        match (d.cr.cell.held.filter (fun h => decide (h.dst = .x) && decide (h.due ≤ n + 1) && h.mask.getLsbD b)).getLast? with
        | some h => h.val.getLsbD b
        | none => z.x.getLsbD b) ∧
      Merged { t with
        cells := u.cells
        pos := u.pos
        flights := t.flights.map (fun x => if x.n = n then { d.cr.fl with
          cells := d.cr.fl.cells + 1
          any := d.cr.fl.any || (d.cr.fl.pflag && acts && Z.flag)
          all := d.cr.fl.all && !(d.cr.fl.pflag && acts && !Z.flag) } else x) } u ∧
      (u.posAt pos).st = p.st.map (fun w => { w with caps := captured n row col Z.x w }) ∧
      (u.posAt pos).ld = p.ld ∧
      (row = 31 → pos + 1 < t.prog.hdr.chain → fget (u.posAt (pos + 1)).seam 0 (32 * n + col) = Z.x))

/-- R44, R188, R193: the publications of rings, in the order owed and only once the accesses they release have performed; the aggregate
of a bundle reaches the head when every cell of the chain has executed it; the core cycles up to the next bank's refresh window pass
for the whole module, and every running head that stands before it counts them. The step of an event is log entry 7. -/
def Obligations.PublicationsAggregatesAndRefresh : Prop :=
  ∀ (head : Nat) (s : State) (t : Task), At s head t →
    let put (u : Task) : State := { s with tasks := finsert s.tasks t.id.uid u }
    (∀ (ring : Nat) (producer : Bool),
      let i : Instr := if producer then .ringProducerPublish head ring else .ringConsumerPublish head ring
      let owed := t.pubs.find? (fun u => u.ring == ring && u.producer == producer)
      let free (u : RingPub) : Prop := (∀ a ∈ t.pstores, u.n < a.n) ∧ ∀ e ∈ t.pos, (∀ w ∈ e.2.ld, u.n < w.inst.n) ∧
        ∀ w ∈ e.2.st, u.n ≤ w.inst.n ∧ (producer = true → u.n < w.inst.n)
      (owed = none → Completes i s s) ∧
      ∀ u, owed = some u → (¬ free u → Completes i s s) ∧
        (free u → ∀ r, fget? t.rings ring = some r → Completes i s (put { t with
          rings := finsert t.rings ring (if producer then { r with p := r.p + 1 } else { r with c := r.c + 1 })
          pubs := t.pubs.erase u }))) ∧
    (t.ctl.aggPend = none → Completes (.aggregateComplete head) s s) ∧
    (∀ n fl, t.ctl.aggPend = some n → t.flights.find? (fun fl => fl.n == n && fl.cells == 1024 * t.prog.hdr.chain) = some fl →
      ∃ u : Task, Completes (.aggregateComplete head) s (put u) ∧
        Merged { t with
          ctl := { t.ctl with aggAny := fl.any, aggAll := fl.all, aggPend := none }
          errs := t.errs.filter (fun e => e.place != .agg) } u) ∧
    (∀ n, t.ctl.aggPend = some n → t.flights.find? (fun fl => fl.n == n && fl.cells == 1024 * t.prog.hdr.chain) = none →
      Completes (.aggregateComplete head) s s) ∧
    (∀ bank, Completes (.weightStoreRefresh bank) s
      (if bank < 64 ∧ bank = (s.cycle / 256 + 1) % 64 then { s with
        cycle := 256 * (s.cycle / 256 + 1)
        tasks := s.tasks.map (fun e => (e.1, if e.2.ctl.running ∧ e.2.ctl.now < 256 * (s.cycle / 256 + 1)
          then { e.2 with ctl := { e.2.ctl with
            cyc := e.2.ctl.cyc + (256 * (s.cycle / 256 + 1) - e.2.ctl.now)
            now := 256 * (s.cycle / 256 + 1) } } else e.2)) } else s))

namespace Sys2Proof.Spec

/-! ## Engine commands -/

/-- Every form of E, with its opcode and pack size (R84, R225, R256, R279). -/
def engineForms (f : FmtE) : List (Instr × Nat × Nat) :=
  [(.dqatt f, 0x01, 1), (.dqdet f, 0x02, 1), (.cpy f, 0x10, 5), (.cpy2 f, 0x11, 6), (.cpyt f, 0x12, 6), (.cpyp f, 0x13, 5), (.fill f, 0x14, 4),
   (.wsld f, 0x15, 5), (.gth2 f, 0x16, 8), (.sct2 f, 0x17, 8), (.gthr f, 0x18, 6), (.sctr f, 0x19, 6), (.idec f, 0x20, 3), (.rsc f, 0x30, 5),
   (.agt f, 0x31, 5), (.ard f, 0x32, 5), (.bcs f, 0x33, 5), (.nmadd f, 0x40, 5), (.nmamo f, 0x41, 5), (.nmgs f, 0x42, 5), (.nmdot f, 0x43, 5),
   (.nmopt f, 0x44, 7), (.nmfence f, 0x45, 1), (.pksel f, 0x50, 3), (.pkfwd f, 0x51, 4), (.pkbwd f, 0x52, 7), (.pkmrg f, 0x53, 4),
   (.vxget f, 0x60, 2), (.vxput f, 0x61, 2), (.vxadd f, 0x62, 2), (.vxinv f, 0x63, 2), (.vxtile f, 0x64, 2), (.vxpoolInit f, 0x65, 2),
   (.vxpoolAddt f, 0x65, 2), (.vxpoolAddn f, 0x65, 2)]

/-- `n` bits of pack register `r` from bit `lo` on. -/
def packBits (p : Nat → Nat) (r lo n : Nat) : Nat := p r / 2 ^ lo % 2 ^ n

/-- R234: the 16 bits of an endpoint have a reserved value: SPACE 3, SPACE 2 where it is not allowed, SWZ without SPACE 0, BUF without
SPACE 1. -/
def badEndpoint (v : Nat) (ws : Bool) : Prop :=
  v / 2 ^ 14 % 4 = 3 ∨ (v / 2 ^ 14 % 4 = 2 ∧ ws = false) ∨ (v / 2 ^ 14 % 4 ≠ 0 ∧ v / 2 ^ 12 % 4 ≠ 0) ∨ (v / 2 ^ 14 % 4 ≠ 1 ∧ v % 2 ^ 12 ≠ 0)

/-- The fields of the pack `p` that must be zero, or whose value is reserved at issue, are not as the pack tables have it (R14, R227, R233 to
R238, R240, R243, R246, R250, R253, R256, R277). -/
def reservedPack (i : Instr) (p : Nat → Nat) : Prop :=
  let b := packBits p
  let set (r lo n : Nat) : Prop := b r lo n ≠ 0
  let ds (r : Nat) (ws : Bool) : Prop := badEndpoint (p r % 2 ^ 16) false ∨ badEndpoint (p r / 2 ^ 16 % 2 ^ 16) ws
  let coll : Prop := set 2 32 32 ∨ set 4 16 19 ∨ set 4 38 4 ∨ ds 2 false ∨ (b 4 37 1 = 1 ∧ (set 0 0 64 ∨ set 2 0 16))
  let pkf : Prop := set 0 15 1 ∨ set 0 28 3 ∨ set 0 43 5 ∨ set 2 45 19
  match i with
  | .dqatt _ | .dqdet _ => set 0 2 6 ∨ set 0 10 54
  | .cpy _ => ds 3 false ∨ set 4 5 27
  | .cpy2 _ => ds 2 false ∨ set 3 5 27
  | .cpyt _ => ds 2 false ∨ set 5 2 62
  | .cpyp _ => ds 2 false ∨ set 4 10 54
  | .fill _ => ds 2 false ∨ set 2 0 16
  | .wsld _ => ds 3 true ∨ set 4 5 27
  | .gth2 _ => ds 2 false ∨ set 6 8 56
  | .sct2 _ => ds 2 false ∨ set 6 8 56 ∨ set 7 0 64
  | .gthr _ => ds 2 false
  | .sctr _ => ds 2 false ∨ set 5 0 64
  | .idec _ => set 1 16 16 ∨ set 2 32 5 ∨ badEndpoint (p 1 % 2 ^ 16) false ∨ (b 2 42 2 = 0 ∧ set 2 0 32)
  | .rsc _ | .agt _ | .ard _ => coll ∨ set 4 0 16
  | .bcs _ => coll
  | .nmadd _ => set 0 12 4 ∨ set 0 32 32 ∨ set 4 1 31
  | .nmamo _ => set 0 12 4 ∨ set 0 21 43 ∨ set 4 32 32
  | .nmgs _ => set 0 15 1 ∨ set 0 32 32 ∨ set 4 16 16
  | .nmdot _ => set 0 15 1 ∨ set 0 32 32 ∨ set 4 1 31
  | .nmopt _ => set 0 27 5 ∨ set 4 0 32 ∨ (b 0 26 1 = 0 ∧ b 0 24 1 = 0 ∧ set 0 12 12) ∨ (b 0 26 1 = 1 ∧ set 3 0 32) ∨
      (b 0 26 1 = 0 ∧ set 5 0 64) ∨ (b 0 24 1 = 0 ∧ set 6 0 64)
  | .nmfence _ => set 0 12 52
  | .pksel _ => set 0 13 11 ∨ set 0 46 2 ∨ (if b 0 43 1 = 1 then set 1 0 64 else set 0 44 2)
  | .pkfwd _ => pkf ∨ set 3 6 26 ∨ (if b 3 5 1 = 1 then set 3 32 32 else set 3 0 5)
  | .pkbwd _ => pkf ∨ set 5 13 51 ∨ (b 5 12 1 = 0 ∧ (set 5 0 12 ∨ set 6 0 64))
  | .pkmrg _ => set 0 0 16 ∨ set 0 28 4 ∨ set 3 0 32
  | .vxget _ | .vxput _ | .vxadd _ => set 0 13 3
  | .vxinv _ => set 0 12 1 ∨ set 0 15 1 ∨ set 0 40 24 ∨ (b 0 13 1 = 0 ∧ set 0 14 1)
  | .vxtile _ => set 0 12 4 ∨ set 0 40 24 ∨ set 1 0 32
  | .vxpoolInit _ => set 0 14 50 ∨ (b 0 12 2 = 0 ∧ set 1 32 32)
  | .vxpoolAddt _ | .vxpoolAddn _ => set 0 14 50
  | _ => False

/-- A token slot nothing has produced into. -/
def freeSlot : TokSlot := ⟨.free, 0, 0, 0, 0⟩
/-- Token slot `n`; slot 63 always reads COMPLETE (R54). -/
def slotOf (t : Task) (n : Nat) : TokSlot := if n = 63 then ⟨.complete, 0, 0, 0, 0⟩ else fget t.tok freeSlot n
/-- Slot `n` becomes `v`; slot 63 keeps its state. -/
def withSlot (t : Task) (n : Nat) (v : TokSlot) : Task := if n = 63 then t else { t with tok := fset t.tok freeSlot n v }
/-- The slots a command consumes (R217). -/
def consumes (f : FmtE) : List Nat := [f.c0, f.c1, f.c2].filter (fun n => n != 63)
/-- The positions that get an instance (R49). -/
def places (t : Task) (f : FmtE) : List Nat := if f.ap = 1 then List.range t.prog.hdr.chain else [0]
/-- What stands queued in one of a task's queues (R225). -/
def queuedAt (s : State) (uid cls die : Nat) : Nat :=
  s.eng.cmds.countP (fun c => c.task == uid && c.cls == cls && c.die == die && c.st == .queued)

/-- What the head records of instance `k`, at position `j`, of a command (R217, R225, R286). -/
def entryOf (s : State) (i : Instr) (f : FmtE) (opcode n k j : Nat) : Cmd :=
  let t := s.iss.t0
  { (default : Cmd) with
    id := s.eng.nextCmd + k, op := i, opcode := opcode, oc := f.oc, pf := f.pf == 1, scope := f.scope, slot := f.produce
    group := s.eng.nextGroup, task := t.id.uid, taskid := t.id.taskid, ctx := t.id.ctx, head := t.id.head, die := dieOf t j
    dies := ((places t f).map (dieOf t)).eraseDups
    pos := j, n := s.iss.n, addr := s.iss.addr, handler := t.sys.tm, pack := (List.range n).map (fun r => t.sReg (f.pack + r))
    cons := (consumes f).filterMap (fun m => match (slotOf t m).st with
      | .busy => some (.group (slotOf t m).group)
      | .error => some .error
      | _ => none)
    vxinvOk := f.c0 != 63 && (slotOf t f.c0).opcode == 0x63 && (slotOf t f.c0).buf == (t.sReg f.pack).toNat % 2 ^ 12
    st := .queued }

/-- R229: a command's completion in its task: the status enters the slot, and the record the queue of 64, or EVOVF is set. -/
def told (t : Task) (slot opcode addr : Nat) (ev : Bool) (pos status count elem aux : Nat) : Task :=
  let u := withSlot t slot { slotOf t slot with st := if status < 2 then .complete else .error, status := status }
  let cap (x : Nat) : Nat := min x (2 ^ 24 - 1)
  if ev = false then u
  else if u.evq.length < 64 then { u with evq := u.evq ++ [BitVec.ofNat 128 (cap aux * 2 ^ 104 + cap elem * 2 ^ 80 + cap count * 2 ^ 56 +
    status % 256 * 2 ^ 48 + opcode * 2 ^ 40 + slot * 2 ^ 34 + pos * 2 ^ 28 + addr % 2 ^ 28)] }
  else { u with sys := { u.sys with evovf := true } }

end Sys2Proof.Spec

open Sys2Proof Sys2Proof.Machine Sys2Proof.Spec

/-- At issue (R49, R86, R217, R225, R234): the checks fail exactly for a pack past s63, for a consumed slot that is FREE, for a reserved field
in the pack, and for a `wsld` whose range leaves the weight-store partition of one of its dies. The command waits for a BUSY produce
slot and for room in its queues. SWZ 3 is no reserved field (log entry 16), and the queue-room rule is log entry 52. -/
def Sys2Proof.Spec.EngineIssueChecks : Prop :=
  ∀ (f : FmtE) (s : State), ∀ x ∈ engineForms f,
    let i := x.1
    let op := x.2.1
    let n := x.2.2
    let t := s.iss.t0
    let p (r : Nat) : Nat := packReg s { (default : FmtEdge) with pack := f.pack } r
    let wsOk : Prop := (∃ g, i = .wsld g) → p 2 = 0 ∨ p 3 / 2 ^ 30 % 4 ≠ 2 ∨ ∀ j ∈ places t f, inPartition s true (dieOf t j) (p 1) (p 2)
    (s.phase = .check → ∃ more : List Fail,
      Completes i s { s with iss := { s.iss with fails := s.iss.fails ++ more } } ∧ (∀ g ∈ more, g.source = 8) ∧
      (more = [] ↔ f.pack + n ≤ 64 ∧ (∀ m ∈ consumes f, (slotOf t m).st ≠ .free) ∧ ¬ reservedPack i p ∧ wsOk) ∧
      (64 < f.pack + n → ⟨8, 4, BitVec.ofNat 64 f.pack, false⟩ ∈ more) ∧
      (∀ m ∈ consumes f, (slotOf t m).st = .free → ⟨8, 4, BitVec.ofNat 64 m, false⟩ ∈ more) ∧
      (f.pack + n ≤ 64 → reservedPack i p → ⟨8, 1, s.iss.slot, false⟩ ∈ more)) ∧
    (s.phase = .wait → s.iss.stall = false → ∃ q : Bool,
      Completes i s { s with iss := { s.iss with stall := q } } ∧
      (q = true ↔ (slotOf t f.produce).st = .busy ∨ (16 ≤ op ∧ ∃ j ∈ places t f,
        16 < queuedAt s t.id.uid (op / 16) (dieOf t j) + (places t f).countP (fun k => dieOf t k == dieOf t j))))

/-- At commit (R217, R225, R230): every E command of classes 1 to 6 completes its issue: its slot is BUSY and one instance for each position
stands at the tail of the queues, bound to the producers of the moment. So does one of class 0 that consumes a slot still BUSY (log entry 51). -/
def Sys2Proof.Spec.EngineCommandsEnter : Prop :=
  ∀ (f : FmtE) (s : State), ∀ x ∈ engineForms f,
    let i := x.1
    let op := x.2.1
    let t := s.iss.t0
    s.phase = .commit → (16 ≤ op ∨ f.ap = 0 ∧ ∃ m ∈ consumes f, (slotOf t m).st = .busy ∧
      ∃ h ∈ s.eng.groups, h.id = (slotOf t m).group ∧ h.result = none) →
    ∃ cs : List Cmd,
      Completes i s { s with
        t := withSlot s.t f.produce ⟨.busy, 0, s.eng.nextGroup, op, if op / 16 = 6 then (t.sReg f.pack).toNat % 2 ^ 12 else 0⟩
        eng := { s.eng with
          groups := s.eng.groups ++ [⟨s.eng.nextGroup, t.id.uid, f.produce, op, s.iss.addr, f.ev == 1, f.scope, (places t f).length, [], none⟩]
          cmds := s.eng.cmds ++ cs
          nextGroup := s.eng.nextGroup + 1
          nextCmd := s.eng.nextCmd + (places t f).length } } ∧
      cs.length = (places t f).length ∧ ∀ k j, (places t f)[k]? = some j → cs[k]? = some (entryOf s i f op x.2.2 k j)

/-- R217, R233: a class-0 command none of whose consumed slots is BUSY is performed at commit. A slot in ERROR cancels it. ENG 2 and 3, which
the table reserves, complete with PARAM (log entry 16). `dqatt` attaches a free queue; `dqdet` of a queue its engine holds leaves the
detach pending; either completes with STATE otherwise. -/
def Sys2Proof.Spec.DrainQueueCommands : Prop :=
  ∀ (f : FmtE) (s : State), s.phase = .commit → f.ap = 0 →
    let t := s.iss.t0
    (∀ m ∈ consumes f, (slotOf t m).st ≠ .busy) →
    let q := (t.sReg f.pack).toNat % 4
    let eng := (t.sReg f.pack).toNat / 256 % 4
    let a := fget s.t.dq default q
    let t1 (op : Nat) : Task := withSlot s.t f.produce ⟨.busy, 0, s.eng.nextGroup, op, 0⟩
    let next : Engines := { s.eng with nextGroup := s.eng.nextGroup + 1, nextCmd := s.eng.nextCmd + 1 }
    let with_ (op : Nat) (u : Task) (status : Nat) : State :=
      { s with t := told u f.produce op s.iss.addr (f.ev == 1) 0 status 0 0 0, eng := next }
    ((∃ m ∈ consumes f, (slotOf t m).st = .error) →
      Completes (.dqatt f) s (with_ 1 (t1 1) 2) ∧ Completes (.dqdet f) s (with_ 2 (t1 2) 2)) ∧
    ((∀ m ∈ consumes f, (slotOf t m).st ≠ .error) →
      (2 ≤ eng → Completes (.dqatt f) s (with_ 1 (t1 1) 5) ∧ Completes (.dqdet f) s (with_ 2 (t1 2) 5)) ∧
      (eng < 2 → Completes (.dqatt f) s (if a.attached then with_ 1 (t1 1) 7
        else with_ 1 { t1 1 with dq := fset (t1 1).dq default q ⟨true, eng, false, 0, 0⟩ } 0)) ∧
      (eng < 2 → Completes (.dqdet f) s (if a.attached ∧ a.pending = false ∧ a.eng = eng then
          { s with
            t := { t1 2 with dq := fset (t1 2).dq default q { a with pending := true, mark := s.iss.n, group := s.eng.nextGroup } }
            eng := { next with groups := s.eng.groups ++ [⟨s.eng.nextGroup, t.id.uid, f.produce, 2, s.iss.addr, f.ev == 1, f.scope, 1, [], none⟩] } }
        else with_ 2 (t1 2) 7)))

/-- R49, R217, R225, R233, R234: the E commands at issue and at commit. The queue-room rule is log entry 52, a class-0 command that stands
in the queues log entry 51. -/
def Obligations.EngineCommandsAtIssue : Prop := EngineIssueChecks ∧ EngineCommandsEnter ∧ DrainQueueCommands

namespace Sys2Proof.Spec

/-- The state with command `c` in place of the one of its number. -/
def putCmd (s : State) (c : Cmd) : State :=
  { s with eng := { s.eng with cmds := s.eng.cmds.map (fun d => if d.id == c.id then c else d) } }
/-- The same, and it needs the accesses it has sent no more; one to another module that has not performed holds its route still (R370). -/
def settled (s : State) (c : Cmd) : State :=
  { putCmd s c with out := s.out.filter (fun o => o.cmd != c.id || (o.answer.isNone && o.access.toModule != s.mod.modid)) }
/-- A command by its number. -/
def command (s : State) (id : Nat) : Option Cmd := s.eng.cmds.find? (fun c => c.id == id)

/-- `c` stands first in its sequencer's queue of a class on a die, the task at `head` is running or gone, no other sequencer of that
head has a command in the queues of the class there, and no started command holds the queue (R226). -/
def FirstInQueue (s : State) (head cls die : Nat) (c : Cmd) : Prop :=
  c.head = head ∧ c.opcode / 16 = cls ∧
  s.eng.cmds.find? (fun d => d.task == c.task && d.opcode / 16 == cls && d.die == die && d.st == .queued) = some c ∧
  (∀ d ∈ s.eng.cmds, d.opcode / 16 = cls → d.die = die → d.head = head → d.st = .queued → d.task = c.task) ∧
  (∀ d ∈ s.eng.cmds, ∀ e ∈ s.eng.cmds, d.task = e.task → d.head = e.head) ∧
  (∀ t, fget? s.tasks c.task = some t → t.ctl.running = true) ∧
  (∀ d ∈ s.eng.cmds, d.task = c.task → d.opcode / 16 = cls → d.die = die →
    d.st ≠ .faulted ∧ d.st ≠ .allocWait ∧ ¬ (d.st = .running ∧ ∃ f, d.op = .nmopt f))

/-- An earlier access of the command's class has committed and not performed: of the sequencer, or of LD or ST at a position on a die the
command touches. LD and ST of its own bundle stand before it, unless it was issued in trap mode (R205, R207). -/
def Behind (s : State) (c : Cmd) : Prop :=
  ∃ t, fget? s.tasks c.task = some t ∧
    ((∃ p ∈ t.pstores, p.oc = c.oc ∧ p.n ≤ c.n) ∨
     ∃ e ∈ t.pos, dieOf t e.1 ∈ c.dies ∧ ∃ w, (w ∈ e.2.ld ∨ w ∈ e.2.st) ∧ w.inst.oc = c.oc ∧
       (w.inst.n < c.n ∨ (w.inst.n = c.n ∧ c.handler = false)))

/-- The commands whose start does nothing more than begin. -/
def plainStart (i : Instr) : Bool :=
  match i with
  | .nmopt _ | .nmfence _ | .pkmrg _ | .rsc _ | .agt _ | .ard _ | .bcs _ | .vxinv _ | .vxpoolInit _ => false
  | _ => true

/-- The commands that have a START (R277). -/
def hasStart (i : Instr) : Bool := match i with | .vxget _ | .vxput _ | .vxadd _ => true | _ => false

/-- Register `r` of a command's pack. -/
def packOf (c : Cmd) (r : Nat) : Nat := (c.pack.getD r 0).toNat

/-- The record of a fault of a command (R346). -/
def faultOf (c : Cmd) (cause tval buf : Nat) : FaultRec :=
  ⟨cause, c.die, c.head + c.pos, c.pos, 0xFF, 0xFF, c.taskid % 2 ^ 32, c.addr, tval, buf, 0, c.elem⟩

/-- The source a command's faults are charged to, and the code of a failed check (R191, R335). -/
def faultCode (c : Cmd) (e : PortErr) : Nat := if e.sys then 0xB0 + e.kind else 16 * (if c.opcode / 16 ≤ 3 then 9 else 10) + e.kind

/-- A fault ends a context that had none (R344). -/
def contextFaults (s : State) (ctx : Nat) (r : FaultRec) : State :=
  { s with ctxs := finsert s.ctxs ctx { s.ctx ctx with ffault := some r } }

/-- Page `p` cannot be reached by an access of an engine of `die` (R191, R326, R328). -/
def pageAbsent (s : State) (die ctx k p : Nat) (write : Bool) : Prop :=
  let x := s.pte die ctx k p
  x.2.testBit 63 = false ∨ ((write = true ∨ x.2.testBit 61 = false) ∧ s.frameOk x.1 x.2 = false) ∨ (write = true ∧ x.2.testBit 62 = false)

/-- Command `c`, its next element performed. -/
def advanced (c : Cmd) : Cmd := { c with elem := c.elem + 1, st := if c.total ≤ c.elem + 1 then .done else .running }

/-- Command `n` is `c`, it runs, nothing has stopped it, and no word of shared SRAM has an error. -/
def Runs (s : State) (n : Nat) (c : Cmd) : Prop :=
  command s n = some c ∧ c.st = .running ∧ s.part.stopped = false ∧ (s.ctx c.ctx).ffault = none ∧ s.mem.sramErr = []

/-- The word of shared SRAM at offset `a` of the command's die. -/
def wordAt (s : State) (c : Cmd) (a : Nat) : Nat := rdNat s.mem.sram (2 ^ 27 * c.die + a) 4

/-- Field of the pack of a command. -/
def bitsOf (c : Cmd) (r lo n : Nat) : Nat := packBits (packOf c) r lo n

/-- The image pixels of a patch of `gth2` or `sct2` whose list entry is `w`: row and column of the patch, and the image offset of those
inside the extent (R238). -/
def patchPixels (c : Cmd) (w : Nat) : List (Nat × Nat × Option Nat) :=
  (List.range (bitsOf c 4 16 16)).flatMap (fun (u : Nat) => (List.range (bitsOf c 4 0 16)).map (fun (v : Nat) =>
    let y : Int := (BitVec.ofNat 16 w).toInt + (u : Int)
    let x : Int := (BitVec.ofNat 16 (w / 2 ^ 16)).toInt + (v : Int)
    (u, v, if 0 ≤ y ∧ y < (bitsOf c 3 32 32 : Int) ∧ 0 ≤ x ∧ x < (bitsOf c 3 0 32 : Int)
      then some (y.toNat * bitsOf c 4 32 32 + x.toNat * bitsOf c 6 0 8) else none)))

/-- The runs of bytes the next element of a copy moves, by source offset (none: FILL), destination offset and length; `w` is its list
entry (R237, R238). -/
def copyRuns (c : Cmd) (w : Nat) : List (Option Nat × Nat × Nat) :=
  let b := bitsOf c
  let k := c.elem
  let src := packOf c 0
  let dst := packOf c 1
  match c.op with
  | .cpy2 _ => [(some (src + k * b 5 0 32), dst + k * b 5 32 32, b 4 0 32)]
  | .cpyt _ => (List.range (b 3 32 32)).map (fun y =>
      (some (src + y * b 4 0 32 + k * 2 ^ b 5 0 2), dst + k * b 4 32 32 + y * 2 ^ b 5 0 2, 2 ^ b 5 0 2))
  | .cpyp _ =>
    let es := 2 ^ b 4 8 2
    let ext (d : Nat) : Nat := b 3 (16 * d) 16
    let perm (r : Nat) : Nat := b 4 (2 * r) 2
    let stride (d : Nat) : Nat := es * ((List.range d).map ext).prod
    let n1 := ext (perm 1)
    let n2 := ext (perm 2)
    let from_ := src + k % n1 * stride (perm 1) + k / n1 % n2 * stride (perm 2) + k / n1 / n2 * stride (perm 3)
    (List.range (ext (perm 0))).map (fun i => (some (from_ + i * stride (perm 0)), dst + (k * ext (perm 0) + i) * es, es))
  | .gth2 _ => (patchPixels c w).map (fun p =>
      (p.2.2.map (fun o => src + o), dst + k * (b 4 16 16 * b 4 0 16 * b 6 0 8) + (p.1 * b 4 0 16 + p.2.1) * b 6 0 8, b 6 0 8))
  | .sct2 _ => (patchPixels c w).filterMap (fun p => p.2.2.map (fun o =>
      (some (src + k * (b 4 16 16 * b 4 0 16 * b 6 0 8) + (p.1 * b 4 0 16 + p.2.1) * b 6 0 8), dst + o, b 6 0 8)))
  | .gthr _ => [(if w < b 3 0 32 then some (src + w * b 3 32 32) else none, dst + k * b 3 32 32, b 3 32 32)]
  | .sctr _ => if w < b 3 0 32 then [(some (src + k * b 3 32 32), dst + w * b 3 32 32, b 3 32 32)] else []
  | _ => []

/-- The list of the indexed copies: its offset, its count (R236). -/
def copyList (c : Cmd) : Option (Nat × Nat) :=
  match c.op with
  | .gth2 _ | .sct2 _ => some (bitsOf c 5 32 32, bitsOf c 5 0 32)
  | .gthr _ | .sctr _ => some (bitsOf c 4 32 32, bitsOf c 4 0 32)
  | _ => none

/-- RNE of an exact value into FP32, and sums and products on encodings, each rounded once (R247, R248). -/
def round32 (x : Rv) : Nat := (round x .fp32 .rne false false).1
/-- RNE(a + b). -/
def plus32 (a b : Nat) : Nat := round32 (addRv (dec .fp32 a) (dec .fp32 b) false).1
/-- RNE(a × b). -/
def times32 (a b : Nat) : Nat := round32 (mulRv (dec .fp32 a) (dec .fp32 b)).1
/-- RNE(a × b + z). -/
def fused32 (a b z : Nat) : Nat := round32 (addRv (mulRv (dec .fp32 a) (dec .fp32 b)).1 (dec .fp32 z) false).1
/-- A NaN or an infinity of FP32. -/
def unbounded (v : Nat) : Bool := v / 2 ^ 23 % 2 ^ 8 == 255

/-- Bytes of a row of `d` elements (R246). -/
def rowBytes (fmt d : Nat) : Nat := if fmt = 0 then 2 * d else if fmt = 1 then 4 * d else 16 * d
/-- Element `e` of a row, as FP32 (R246): BF16, FP32, or the working copy or the master weight of an optimizer record. -/
def rowValue (fmt sel row e : Nat) : Nat :=
  if fmt = 0 then row / 2 ^ (16 * e) % 2 ^ 16 * 2 ^ 16
  else if fmt = 1 then row / 2 ^ (32 * e) % 2 ^ 32
  else if sel = 0 then row / 2 ^ (128 * e + 96) % 2 ^ 16 * 2 ^ 16
  else row / 2 ^ (128 * e) % 2 ^ 32

/-- The stack a byte of a buffer lies in (R190). -/
def stackAt (s : State) (c : Cmd) (k off : Nat) : Nat :=
  let e := s.usedEntry c.die c.ctx k
  e.stk.getD (off / e.granule % e.stk.length) 0

/-- NMGS and PKFWD: the sum of weighted values, as (weight, row, stack) in rank order, over the stacks in ascending order (R248). -/
def stackedSum (l : List (Nat × Nat × Nat)) (val : Nat → Nat) : Nat :=
  let part (k : Nat) : Nat := l.foldl (fun a e => if e.2.2 = k then fused32 e.1 (val e.2.1) a else a) 0
  match ((List.range 96).filter (fun k => l.any (fun e => e.2.2 == k))).map part with
  | [] => 0
  | p :: rest => rest.foldl plus32 p

/-- Words as bytes, the first lowest. -/
def wordsOf (l : List Nat) : Nat := l.foldr (fun v a => v + 2 ^ 32 * a) 0

/-- R251: the record of 16 bytes `old` stepped with gradient `g`; `h` gives LR, B1, OB1, B2, OB2, EPS, WD, C1, C2. -/
def optimized (h : Nat → Nat) (step g old : Nat) : Nat :=
  let v32 := dec .fp32
  let R (x : Rv) : Rv := v32 (round32 x)
  let add (x y : Rv) : Rv := (addRv x y false).1
  let mul (x y : Rv) : Rv := (mulRv x y).1
  let p (i : Nat) : Rv := v32 (h i)
  let m2 := R (add (mul (p 1) (v32 (old / 2 ^ 32 % 2 ^ 32))) (mul (p 2) (v32 g)))
  let v2 := R (add (mul (p 3) (v32 (old / 2 ^ 64 % 2 ^ 32))) (mul (mul (p 4) (v32 g)) (v32 g)))
  let den := R (add (sqrtRv (R (mul v2 (p 8)))) (p 5))
  let u := R (divRv (R (mul m2 (p 7))) den)
  let wm := v32 (old % 2 ^ 32)
  let w2 := round32 (add wm (negRv (mul (p 0) (add u (mul (p 6) wm)))))
  w2 + 2 ^ 32 * round32 m2 + 2 ^ 64 * round32 v2 + 2 ^ 96 * (round (v32 w2) .bf16 .rne false false).1 + 2 ^ 112 * step

/-- What stands in the way of the accesses of an element of a class-6 command: no burst of the buffer-table entry, with its descriptor, has an
error (R354, R355). -/
def entrySound (s : State) (c : Cmd) : Prop :=
  ∀ u ∈ s.entryBursts c.ctx (bitsOf c 0 0 12), fget s.mem.err 0 u = 0 ∧ fget s.mem.poison 0 u = 0

/-- The die holds the buffer-table entry of a buffer of this module after an access that found no page (R323, R329). -/
def holdingAt (s : State) (die ctx k : Nat) : State :=
  if (s.eng.tlb.any fun t => t.die == die && t.ctx == ctx && t.buf == k) = true ∨ (s.bufEntry ctx k).remote = true then s
  else { s with eng := { s.eng with tlb := s.eng.tlb ++ [⟨die, ctx, k, 2 ^ 64, 0, s.usedEntry die ctx k⟩] } }

/-- The die of command `c` does. -/
def holding (s : State) (c : Cmd) (k : Nat) : State := holdingAt s c.die c.ctx k

/-- What atomic `aop` of `z` bytes leaves where `old` stood (R218); of compare-and-swap the operand holds the compare value low. -/
def atomicLeaves (aop z opd old : Nat) : Nat :=
  let m := 2 ^ (8 * z)
  let x := opd % m
  let sg (v : Nat) : Int := (BitVec.ofNat (8 * z) v).toInt
  if aop = 0 then (old + x) % m
  else if aop = 1 then (if sg x < sg old then x else old)
  else if aop = 2 then (if sg old < sg x then x else old)
  else if aop = 3 then min old x
  else if aop = 4 then max old x
  else if aop = 5 then x
  else if aop = 6 then (if old = x then opd / m % m else old)
  else plus32 old x

/-- A field that an optimizer step writes is not finite. -/
def recordUnbounded (v : Nat) : Bool := unbounded v || unbounded (v / 2 ^ 32) || unbounded (v / 2 ^ 64) || unbounded (v / 2 ^ 96 % 2 ^ 16 * 2 ^ 16)

/-- An endpoint of R234. -/
def spaceOf (v : Nat) : Nat := v / 2 ^ 14 % 4
/-- Its swizzle. -/
def turnOf (v : Nat) : Nat := v / 2 ^ 12 % 4
/-- Its buffer. -/
def bufOf (v : Nat) : Nat := v % 2 ^ 12
/-- DS of a copy pack. -/
def copyDs (c : Cmd) : Nat := packOf c (match c.op with | .cpy _ | .wsld _ => 3 | _ => 2)
/-- SRC. -/
def copySrc (c : Cmd) : Nat := copyDs c % 2 ^ 16
/-- DST. -/
def copyDst (c : Cmd) : Nat := copyDs c / 2 ^ 16 % 2 ^ 16
/-- Source offset of an instance: that of a buffer moves by PSTR with the position (R230). -/
def copyFrom (c : Cmd) : Nat := packOf c 0 + if spaceOf (copySrc c) = 1 then c.pos * (copyDs c / 2 ^ 32) else 0
/-- Destination offset. -/
def copyTo (c : Cmd) : Nat :=
  (match c.op with | .fill _ => packOf c 0 | _ => packOf c 1) + if spaceOf (copyDst c) = 1 then c.pos * (copyDs c / 2 ^ 32) else 0
/-- MX, in the packs that have it (R235). -/
def copyMx (c : Cmd) : Nat := match c.op with | .cpy _ | .wsld _ => packOf c 4 | .cpy2 _ => packOf c 3 | _ => 0
/-- bb of a block format. -/
def blockOf (t : Nat) : Nat := if t = 14 then 16 else 32

/-- Bytes from the lowest to the highest of `n` rows of `len` bytes. -/
def pitched (n pitch len : Nat) : Nat := if n = 0 ∨ len = 0 then 0 else (n - 1) * pitch + len

/-- The bytes a copy could touch on its source side and on its destination side, extents included (R239). -/
def copySpans (c : Cmd) : Nat × Nat :=
  let b := bitsOf c
  let image := pitched (b 3 32 32) (b 4 32 32) (b 3 0 32 * b 6 0 8)
  let patches := b 5 0 32 * (b 4 16 16 * b 4 0 16 * b 6 0 8)
  let table := b 3 0 32 * b 3 32 32
  let rows := b 4 0 32 * b 3 32 32
  let array := b 3 0 16 * b 3 16 16 * b 3 32 16 * b 3 48 16 * 2 ^ b 4 8 2
  match c.op with
  | .cpy _ | .wsld _ => (packOf c 2, packOf c 2)
  | .fill _ => (0, packOf c 1)
  | .cpy2 _ => (pitched (b 4 32 32) (b 5 0 32) (b 4 0 32), pitched (b 4 32 32) (b 5 32 32) (b 4 0 32))
  | .cpyt _ => (pitched (b 3 32 32) (b 4 0 32) (b 3 0 32 * 2 ^ b 5 0 2), pitched (b 3 0 32) (b 4 32 32) (b 3 32 32 * 2 ^ b 5 0 2))
  | .cpyp _ => (array, array)
  | .gth2 _ => (image, patches)
  | .sct2 _ => (patches, image)
  | .gthr _ => (table, rows)
  | _ => (rows, table)

/-- A span as R239 compares it. -/
def widened (v off len : Nat) : Nat × Nat :=
  if spaceOf v = 0 ∧ turnOf v ≠ 0 ∧ len ≠ 0 then (off / 2 ^ 17 * 2 ^ 17, (off % 2 ^ 17 + len + 2 ^ 17 - 1) / 2 ^ 17 * 2 ^ 17) else (off, len)

/-- Two ranges of bytes, as offset and length, meet. -/
def meets (a b : Nat × Nat) : Prop := a.2 ≠ 0 ∧ b.2 ≠ 0 ∧ a.1 < b.1 + b.2 ∧ b.1 < a.1 + a.2

/-- A range of shared SRAM lies in the partition of every die that carries an instance (R227). -/
def inside (s : State) (c : Cmd) (r : Nat × Nat) : Prop :=
  r.2 = 0 ∨ ∀ d ∈ c.dies, (s.partOf c.ctx d).ssbase ≤ r.1 ∧ r.1 + r.2 ≤ (s.partOf c.ctx d).sslim

/-- No area written meets another written, or one read (R256). -/
def apart (w r : List (Nat × Nat)) : Prop := w.Pairwise (fun a b => ¬ meets a b) ∧ ∀ a ∈ w, ∀ b ∈ r, ¬ meets a b

/-- Entry `k` names a table a command of class 4 or 5 may use (R246, R275): HBM4E, of this module for class 5, with the right needed; a
volume is no table to write. -/
def tableFor (s : State) (c : Cmd) (k : Nat) (write : Bool) : Prop :=
  let e := s.useEntry c.ctx k
  (s.bufEntry c.ctx k).valid = true ∧ e.valid = true ∧ e.host = false ∧ (c.opcode / 16 = 4 ∨ (s.bufEntry c.ctx k).remote = false) ∧
  (if write then e.wr = true ∧ e.vol = false else e.rd = true)

/-- A row size divides granule and offset (R246). Of a remote table the granule is the local entry's (log entry 20). -/
def rowsIn (s : State) (c : Cmd) (k rs off : Nat) : Prop := rs ≠ 0 ∧ (s.useEntry c.ctx k).granule % rs = 0 ∧ off % rs = 0

/-- A ring of the command's task. -/
def ringFor (s : State) (c : Cmd) (n : Nat) : Option Ring := (fget? s.tasks c.task).bind (fun t => fget? t.rings n)

/-- The instruction and the opcode are one of the E forms. -/
def named (c : Cmd) : Prop := ∃ f n, (c.op, c.opcode, n) ∈ engineForms f

/-- The acceptance checks of R227, in its order, and the number of elements of the command. -/
def Accepts (s : State) (c : Cmd) (param range align overlap state : Prop) (total : Nat) : Prop :=
  let a := s.acceptOf c
  (a.param = true ↔ param) ∧ (a.range = true ↔ range) ∧ (a.align = true ↔ align) ∧ (a.overlap = true ↔ overlap) ∧ (a.state = true ↔ state) ∧
  a.total = total

/-- AP of a command that must not have it (R278). -/
def spread (c : Cmd) : Prop :=
  match c.op with | .vxinv f | .vxpoolInit f | .vxpoolAddt f | .vxpoolAddn f => f.ap = 1 | _ => False

/-- Every earlier return-free addition of the sequencer to the fence's buffer has performed (R219): none is outstanding, and no earlier command
has still to send one. -/
def fenceHolds (s : State) (c : Cmd) : Prop :=
  let k := bitsOf c 0 0 12
  let sends (d : Cmd) : Prop := match d.op with
    | .nmadd _ => bitsOf d 0 0 12 = k
    | .pkbwd _ => bitsOf d 5 12 1 = 1 ∧ bitsOf d 5 0 12 = k
    | _ => False
  (∀ d ∈ s.eng.cmds, d.task = c.task → d.id < c.id → d.st ≠ .done → ¬ sends d) ∧
  ∀ a ∈ s.eng.adds, a.task = c.task → a.cmd < c.id → a.buf ≠ k

/-- The owner check of a command's volume (R323, R329). -/
def OwnerHolds (s : State) (c : Cmd) : Prop :=
  let k := bitsOf c 0 0 12
  (∃ t ∈ s.eng.tlb, t.die = c.die ∧ t.ctx = c.ctx ∧ t.buf = k) ∨ s.ownerOk c.ctx (s.bufEntry c.ctx k) = true

/-- R243: engines `e` after participant `c` has joined the open collective of its key, or opened one; at LEVEL 3, where the home matches
(R309), each has one of its own here. -/
def Joins (s : State) (c : Cmd) (e : Engines) : Prop :=
  let b := bitsOf c
  let lvl := b 4 46 2
  let group := match fget? s.tasks c.task with | some t => t.id.dom.toNat / 2 ^ (16 * lvl) % 2 ^ 16 | none => 0xFFFF
  let rank := b 3 0 16 + c.pos
  let params := [c.opcode, b 3 32 32, b 3 16 16, b 4 44 2, b 4 42 2, b 4 0 16]
  let fits (k : Coll) : Prop := lvl ≠ 3 ∧ k.ctx = c.ctx ∧ k.level = lvl ∧ k.grp = group ∧ k.tag = b 4 48 16 ∧ k.members.length < k.np
  ((∃ k ∈ s.eng.colls, fits k) → e.nextColl = s.eng.nextColl ∧ e.colls.length = s.eng.colls.length ∧
    ∀ (n : Nat) (k : Coll), s.eng.colls[n]? = some k →
      (¬ fits k → e.colls[n]? = some k) ∧
      (fits k → ∃ q : Bool, e.colls[n]? = some { k with members := k.members ++ [(c.id, rank)], agree := q } ∧
        (q = true ↔ k.agree = true ∧ k.params = params ∧ rank < b 3 16 16 ∧ ∀ m ∈ k.members, m.2 ≠ rank))) ∧
  ((¬ ∃ k ∈ s.eng.colls, fits k) → e.nextColl = s.eng.nextColl + 1 ∧ ∃ k : Coll, e.colls = s.eng.colls ++ [k] ∧
    k = ⟨s.eng.nextColl, k.ctx, lvl, group, b 4 48 16, b 3 16 16, params, [(c.id, rank)], decide (rank < b 3 16 16)⟩ ∧ (lvl ≠ 3 → k.ctx = c.ctx))

end Sys2Proof.Spec

open Sys2Proof Sys2Proof.Machine Sys2Proof.Spec

/-- R234 to R239: the copies. FILL has no limit on LEN and `wsld` needs the weight store as DST (log entry 16). -/
def Sys2Proof.Spec.CopyAcceptance : Prop :=
  ∀ (s : State) (c : Cmd), named c → c.opcode / 16 = 1 →
    let b := bitsOf c
    let src := copySrc c
    let dst := copyDst c
    let x := copySpans c
    let mxf := copyMx c % 2 ^ 5
    let sbase := copyMx c / 2 ^ 32
    let bb := blockOf mxf
    let band (v : Nat) : Prop := spaceOf v = 1 ∧ (s.useEntry c.ctx (bufOf v)).mxsb = true
    let list : Nat × Nat := match c.op with
      | .gth2 _ | .sct2 _ => (b 5 32 32, 4 * b 5 0 32)
      | .gthr _ | .sctr _ => (b 4 32 32, 4 * b 4 0 32)
      | _ => (0, 0)
    let plane (off len : Nat) : Nat × Nat := (sbase + off / bb, if len = 0 then 0 else (off % bb + len + bb - 1) / bb)
    let limits : Prop := match c.op with
      | .cpy _ | .wsld _ => packOf c 2 < 2 ^ 31
      | .cpyt _ => b 3 32 32 * b 3 0 32 < 2 ^ 24
      | .cpyp _ => (∀ d < 4, 1 ≤ b 3 (16 * d) 16 ∧ ∃ k < 4, b 4 (2 * k) 2 = d) ∧ b 3 0 16 * b 3 16 16 * b 3 32 16 * b 3 48 16 < 2 ^ 24
      | .gth2 _ | .sct2 _ => 1 ≤ b 4 16 16 ∧ b 4 16 16 ≤ 256 ∧ 1 ≤ b 4 0 16 ∧ b 4 0 16 ≤ 256 ∧ 1 ≤ b 6 0 8 ∧ b 6 0 8 ≤ 128 ∧ b 5 0 32 < 2 ^ 24
      | .gthr _ | .sctr _ => b 4 0 32 < 2 ^ 24
      | _ => True
    let total := match c.op with
      | .cpy _ | .wsld _ => (packOf c 2 + 127) / 128
      | .fill _ => (packOf c 1 + 127) / 128
      | .cpy2 _ => b 4 32 32
      | .cpyt _ => b 3 0 32
      | .cpyp _ => b 3 (16 * b 4 2 2) 16 * b 3 (16 * b 4 4 2) 16 * b 3 (16 * b 4 6 2) 16
      | .gth2 _ | .sct2 _ => b 5 0 32
      | _ => b 4 0 32
    Accepts s c
      (copyDs c / 2 ^ 32 % 128 = 0 ∧ (∀ v, v = src ∨ v = dst → spaceOf v = 0 → turnOf v ≠ 3) ∧
        ¬ (spaceOf dst = 1 ∧ (s.useEntry c.ctx (bufOf dst)).vol = true) ∧ ((∃ f, c.op = .wsld f) → spaceOf dst = 2) ∧ limits ∧
        (mxf = 0 ∨ (14 ≤ mxf ∧ mxf ≤ 16 ∧ ((band src ∧ (spaceOf dst = 0 ∨ band dst)) ∨ (spaceOf src = 0 ∧ band dst)))))
      ((spaceOf src = 0 → inside s c (copyFrom c, x.1)) ∧ (spaceOf dst = 0 → inside s c (copyTo c, x.2)) ∧ inside s c list ∧
        (mxf ≠ 0 → if spaceOf src = 0 then inside s c (plane (copyFrom c) x.1)
          else spaceOf dst = 0 → inside s c (plane (copyTo c) x.2)))
      (mxf ≠ 0 → copyFrom c % bb = 0 ∧ copyTo c % bb = 0 ∧ sbase % 128 = 0 ∧
        (match c.op with
          | .cpy2 _ => b 4 0 32 % bb = 0 ∧ (1 < b 4 32 32 → b 5 0 32 % bb = 0 ∧ b 5 32 32 % bb = 0)
          | _ => packOf c 2 % bb = 0))
      ((match c.op with | .cpyt _ | .cpyp _ | .gth2 _ | .sct2 _ | .gthr _ | .sctr _ => True | _ => False) →
        ¬ (spaceOf src = spaceOf dst ∧ bufOf src = bufOf dst ∧ meets (widened src (copyFrom c) x.1) (widened dst (copyTo c) x.2)))
      True total

/-- R240, R243: `idec`, before its stream is read, and the collectives. DQSRC on `agt` or `bcs`, and a ROOT of `bcs` outside the ranks, give
PARAM (log entry 15). -/
def Sys2Proof.Spec.ImageAndCollectiveAcceptance : Prop :=
  ∀ (s : State) (c : Cmd) (f : FmtE),
    let b := bitsOf c
    (c.op = .idec f → c.opcode = 0x20 →
      let src := b 1 0 16
      let side := if b 2 46 2 = 0 then 14 else if b 2 46 2 = 1 then 16 else 32
      let z := if b 2 44 2 = 0 then 2 else 1
      Accepts s c
        (s.mod.featneg.getLsbD 7 = true ∧ (spaceOf src = 0 → turnOf src ≠ 3) ∧
          ¬ (spaceOf src = 1 ∧ (s.bufEntry c.ctx (bufOf src)).remote = true) ∧ 1 ≤ b 1 32 32 ∧ b 1 32 32 < 2 ^ 31 ∧ 1 ≤ b 2 48 16 ∧
          b 2 46 2 ≠ 3 ∧ b 2 44 2 < 2 ∧ b 2 42 2 < 2 ∧ (b 2 42 2 = 1 → 1 ≤ b 2 16 16 ∧ 1 ≤ b 2 0 16) ∧
          ∃ r, ringFor s c (b 2 37 5) = some r ∧ side * side * z + 16 ≤ 2 ^ r.e)
        (spaceOf src = 0 → inside s c (packOf c 0, b 1 32 32)) True True True 1) ∧
    (c.op = .rsc f ∨ c.op = .agt f ∨ c.op = .ard f ∨ c.op = .bcs f → c.opcode / 16 = 3 →
      let src := b 2 0 16
      let dst := b 2 16 16
      let N := b 3 32 32
      let NP := b 3 16 16
      let z := if b 4 42 2 = 1 then 2 else 4
      let queue := b 4 37 1 = 1
      let out := if c.op = .rsc f then N / NP else if c.op = .agt f then N * NP else N
      let usable (v : Nat) : Prop := (spaceOf v = 0 → turnOf v ≠ 3) ∧
        (spaceOf v = 1 → (s.useEntry c.ctx (bufOf v)).host = false ∧ (s.bufEntry c.ctx (bufOf v)).remote = false)
      Accepts s c
        (1 ≤ N ∧ N < 2 ^ 24 ∧ 1 ≤ NP ∧ b 4 44 2 ≠ 3 ∧ b 4 42 2 ≠ 3 ∧ (c.op = .rsc f → N % NP = 0) ∧ (c.op = .bcs f → b 4 0 16 < NP) ∧
          (queue → (c.op = .rsc f ∨ c.op = .ard f) ∧ N % 8192 = 0 ∧ b 4 42 2 ≠ 1) ∧ usable src ∧ usable dst ∧
          ¬ (spaceOf dst = 1 ∧ (s.useEntry c.ctx (bufOf dst)).vol = true))
        ((¬ queue → spaceOf src = 0 → inside s c (packOf c 0, N * z)) ∧ (spaceOf dst = 0 → inside s c (packOf c 1, out * z)))
        True True
        (queue → ∃ t, fget? s.tasks c.task = some t ∧ (fget t.dq default (b 4 35 2)).attached = true ∧ (fget t.dq default (b 4 35 2)).eng = 0)
        out)

/-- R246 to R250, R253: the commands on tables. -/
def Sys2Proof.Spec.HamperAcceptance : Prop :=
  ∀ (s : State) (c : Cmd) (f : FmtE), c.opcode / 16 = 4 →
    let b := bitsOf c
    let tbuf := b 0 0 12
    let toff := packOf c 1
    let n := b 2 0 32
    let idx := b 3 32 32
    let low := b 3 0 32
    let high := b 4 32 32
    let all (l : List (Nat × Nat)) : Prop := ∀ r ∈ l, inside s c r
    let D := b 0 16 16
    let fmt := b 0 12 2
    let reads : Prop := 1 ≤ D ∧ D ≤ 2048 ∧ fmt ≠ 3 ∧ (b 0 14 1 = 1 → fmt = 2) ∧ tableFor s c tbuf false ∧ rowsIn s c tbuf (rowBytes fmt D) toff
    (c.op = .nmadd f → Accepts s c (1 ≤ D ∧ D ≤ 2048 ∧ n < 2 ^ 24 ∧ tableFor s c tbuf true ∧ rowsIn s c tbuf (4 * D) toff)
      (all [(idx, 4 * n), (low, 4 * D * n), (high, if b 4 0 1 = 1 then 4 * n else 0)]) True True True n) ∧
    (c.op = .nmamo f →
      let z := if b 0 20 1 = 1 then 8 else 4
      Accepts s c (n < 2 ^ 24 ∧ b 0 16 4 < 8 ∧ ¬ (b 0 16 4 = 7 ∧ z = 8) ∧ tableFor s c tbuf true)
        (all [(idx, 4 * n), (low, (if b 0 16 4 = 6 then 2 * z else z) * n), (b 4 0 32, z * n)]) True True True n) ∧
    (c.op = .nmgs f → Accepts s c (reads ∧ 1 ≤ b 4 0 16 ∧ b 4 0 16 ≤ 64 ∧ n * b 4 0 16 < 2 ^ 24)
      (all [(idx, 4 * n * b 4 0 16), (low, 4 * n * b 4 0 16), (high, 4 * D * n)]) True True True n) ∧
    (c.op = .nmdot f → Accepts s c (reads ∧ n < 2 ^ 24)
      (all [(idx, 4 * n), (low, 4 * D * if n = 0 then 0 else if b 4 0 1 = 1 then 1 else n), (high, 4 * n)]) True True True n) ∧
    (c.op = .nmopt f →
      let D := b 0 32 16
      let far := b 0 26 1 = 1
      Accepts s c (1 ≤ D ∧ D ≤ 2048 ∧ n < 2 ^ 24 ∧ tableFor s c tbuf true ∧ rowsIn s c tbuf (16 * D) toff ∧
          (far ∨ b 0 24 1 = 1 → tableFor s c (b 0 12 12) false) ∧
          (inside s c (high, 64) → ∀ i < 7, wordAt s c (high + 36 + 4 * i) = 0))
        (all [(idx, 4 * n), (high, 64), (low, if far then 0 else 4 * D * n)]) (high % 64 = 0 ∧ packOf c 6 % 8 = 0) True True n) ∧
    (c.op = .nmfence f → Accepts s c ((s.bufEntry c.ctx tbuf).valid = true ∧ (s.useEntry c.ctx tbuf).host = false) True True True True 0)

/-- R255 to R257, R261 to R265: the lookup commands. -/
def Sys2Proof.Spec.LookupAcceptance : Prop :=
  ∀ (s : State) (c : Cmd) (f : FmtE), c.opcode / 16 = 5 →
    let b := bitsOf c
    let NQ := b 0 48 16
    let H := b 0 38 5
    let K := b 0 31 7
    let D := b 0 16 12
    let fmt := b 0 12 2
    let N := b 2 32 13
    let records := 8 * (NQ * H) * K
    let all (l : List (Nat × Nat)) : Prop := ∀ r ∈ l, inside s c r
    let values : Prop := 1 ≤ NQ ∧ 1 ≤ H ∧ H ≤ 16 ∧ 1 ≤ K ∧ K ≤ 64 ∧ 1 ≤ D ∧ D ≤ 2048 ∧ 1 ≤ N ∧ N ≤ 4096 ∧ fmt ≠ 3 ∧ (b 0 14 1 = 1 → fmt = 2) ∧
      tableFor s c (b 0 0 12) false ∧ rowsIn s c (b 0 0 12) (rowBytes fmt D) (packOf c 1)
    (c.op = .pksel f →
      let N := b 0 0 13
      let K1 := b 0 24 7
      let queue := b 0 43 1 = 1
      let w := [(b 2 32 32, records)]
      let r := if queue then [] else [(b 1 32 32, 4 * (NQ * H) * N), (b 1 0 32, 4 * (NQ * H) * N)]
      Accepts s c
        (1 ≤ NQ ∧ 1 ≤ H ∧ H ≤ 16 ∧ 1 ≤ K1 ∧ K1 ≤ 64 ∧ K1 ≤ N ∧ N ≤ 4096 ∧ 1 ≤ K ∧ K ≤ 64 ∧ K ≤ K1 * K1 ∧ 0 < b 2 0 32 ∧ b 2 0 32 < 0x7F800000 ∧
          (queue → NQ * H * 2 * N % 8192 = 0))
        (all w ∧ all r) (b 2 32 32 % 8 = 0 ∧ b 1 32 32 % 4 = 0 ∧ b 1 0 32 % 4 = 0) (apart w r)
        (queue → ∃ t, fget? s.tasks c.task = some t ∧ (fget t.dq default (b 0 44 2)).attached = true ∧ (fget t.dq default (b 0 44 2)).eng = 1)
        (NQ * H)) ∧
    (c.op = .pkfwd f →
      let ring := b 3 5 1 = 1
      let w := if ring then (match ringFor s c (b 3 0 5) with
          | some r => (List.range (min NQ r.count)).map (fun i => (r.base + (r.ip + BitVec.ofNat 32 i).toNat % r.count * 2 ^ r.e, 2 ^ r.e))
          | none => [])
        else [(b 3 32 32, 4 * NQ * D)]
      let r := [(b 2 0 32, records)]
      Accepts s c (values ∧ (ring → ∃ g, ringFor s c (b 3 0 5) = some g ∧ 4 * D ≤ 2 ^ g.e)) ((¬ ring → all w) ∧ all r)
        (b 2 0 32 % 8 = 0 ∧ b 3 32 32 % 4 = 0) (apart w r) True NQ) ∧
    (c.op = .pkbwd f →
      let w := [(b 3 0 32, 4 * (NQ * H) * N), (b 4 32 32, 4 * (NQ * H) * N), (b 4 0 32, records)]
      let r := [(b 2 0 32, records), (b 3 32 32, 4 * NQ * D)]
      Accepts s c (values ∧ (b 5 12 1 = 1 → tableFor s c (b 5 0 12) true ∧ rowsIn s c (b 5 0 12) (4 * D) (packOf c 6))) (all w ∧ all r)
        (b 2 0 32 % 8 = 0 ∧ b 3 32 32 % 4 = 0 ∧ b 3 0 32 % 4 = 0 ∧ b 4 32 32 % 4 = 0 ∧ b 4 0 32 % 8 = 0) (apart w r) True (NQ * H)) ∧
    (c.op = .pkmrg f →
      let n := b 0 32 32
      let w := [(b 2 32 32, 4 * n), (b 2 0 32, 4 * n * D), (b 3 32 32, 4)]
      let r := [(b 1 32 32, 4 * n), (b 1 0 32, 4 * n * D)]
      Accepts s c (n < 2 ^ 24 ∧ 1 ≤ D ∧ D ≤ 2048) (all w ∧ all r)
        (b 1 32 32 % 4 = 0 ∧ b 1 0 32 % 4 = 0 ∧ b 2 32 32 % 4 = 0 ∧ b 2 0 32 % 4 = 0 ∧ b 3 32 32 % 4 = 0) (apart w r) True n)

/-- R275, R278, R286, R287: the commands on volumes; `img` is the image of an INIT. -/
def Sys2Proof.Spec.VolumeAcceptance : Prop :=
  (∀ (s : State) (c : Cmd) (f : FmtE), c.opcode / 16 = 6 → s.mem.sramErr = [] →
    let b := bitsOf c
    let buf := b 0 0 12
    let e := s.useEntry c.ctx buf
    let d := s.vdesc c
    let key := s.volKey c.ctx buf
    let made : Prop := (fget? (s.ctx key.1).volInit key.2).isSome
    let kind (w : Bool) : Prop := (s.bufEntry c.ctx buf).valid = true ∧ e.valid = true ∧ e.vol = true ∧ e.host = false ∧
      (s.bufEntry c.ctx buf).remote = false ∧ e.rd = true ∧ (w = true → e.wr = true)
    let n := b 0 16 24
    let hi := b 1 32 32
    let lo := b 1 0 32
    let module : Prop := ¬ spread c ∧ 4 ≤ c.scope
    let all (l : List (Nat × Nat)) : Prop := ∀ r ∈ l, inside s c r
    let started : Prop := b 0 40 24 ≤ n
    let vectors := (lo, n * d.elem)
    (c.op = .vxget f → Accepts s c (kind false ∧ made ∧ b 0 12 1 = 0 ∧ started) (all [vectors, (hi, 12 * n)]) (hi % 4 = 0 ∧ lo % 4 = 0)
      (apart [vectors] [(hi, 12 * n)]) True n) ∧
    (c.op = .vxput f → Accepts s c (kind true ∧ made ∧ d.mode = 1 ∧ started) (all [(hi, 12 * n), vectors]) (hi % 4 = 0 ∧ lo % 4 = 0) True True n) ∧
    (c.op = .vxadd f → Accepts s c (kind true ∧ made ∧ d.mode = 1 ∧ d.fmt ∈ [2, 8, 9, 10] ∧ started) (all [(hi, 12 * n), vectors])
      (hi % 4 = 0 ∧ lo % 4 = 0) True True n) ∧
    (c.op = .vxinv f → Accepts s c (kind true ∧ made ∧ module) (all [(lo, 4 * n), (hi, 12 * n)]) (hi % 4 = 0 ∧ lo % 4 = 0)
      (apart [(lo, 4 * n)] [(hi, 12 * n)]) True n) ∧
    (c.op = .vxtile f → Accepts s c (kind true ∧ made ∧ c.vxinvOk = true) (all [(hi, 4 * n)]) (hi % 4 = 0) True True n) ∧
    (c.op = .vxpoolInit f → Accepts s c
      (kind true ∧ b 0 12 2 = 0 ∧ module ∧
        (inside s c (lo, 128) → volImageOk (rdNat s.mem.sram (2 ^ 27 * c.die + lo) 128) e.size e.granule = true))
      (all [(lo, 128)]) (lo % 128 = 0) True True 1) ∧
    (c.op = .vxpoolAddt f → Accepts s c (kind true ∧ made ∧ module ∧ hi + lo ≤ d.ntile) True True True True lo) ∧
    (c.op = .vxpoolAddn f → Accepts s c (kind true ∧ made ∧ module ∧ hi + lo ≤ d.nnode ∧ ¬ (hi ≤ d.root ∧ d.root < hi + lo)) True True True True lo)) ∧
  (∀ img size g : Nat,
    let d := volDesc img
    let regions := [(0, 64), (d.nodeoff, 4096 * d.nnode), (d.tileoff, d.ts * d.ntile), (d.nloff, 4 * d.nnode), (d.tloff, 4 * d.ntile)]
    volImageOk img size g = true ↔
      d.fmt ∈ [0, 2, 4, 8, 9, 10, 11, 12] ∧ 1 ≤ d.ch ∧ d.ch ≤ 16 ∧ d.mode ≤ 1 ∧ img / 2 ^ 56 % 2 ^ 8 = 0 ∧ img / 2 ^ 224 % 2 ^ 32 = 0 ∧
      (∀ x ∈ d.ext, 1 ≤ x ∧ x ≤ 2 ^ 18) ∧ 1 ≤ d.nnode ∧ d.nnode ≤ 2 ^ 24 ∧ 1 ≤ d.ntile ∧ d.ntile ≤ 2 ^ 24 ∧ d.root < d.nnode ∧
      d.nodeoff % 4096 = 0 ∧ d.tileoff % d.ts = 0 ∧ d.nloff % 4 = 0 ∧ d.tloff % 4 = 0 ∧ d.bg < 2 ^ (8 * d.elem) ∧
      (∀ r ∈ regions, r.1 + r.2 ≤ size) ∧ regions.Pairwise (fun a b => ¬ meets a b) ∧ d.ts ≤ g ∧ 4096 ≤ g)

/-- R226, R227, R277, R355: a queue's first command starts once its producers have completed, the accesses its class orders before it have
performed, and its context has not faulted. A failed producer cancels it; a damaged descriptor ends its context; then the acceptance checks
follow in the order pack values, ranges, ALIGN, OVERLAP, STATE, and the first that fails decides the status; otherwise its elements begin.
Entries below START count as performed in each case; of a START above COUNT, COUNT entries do (log entry 67). What a command does as it
begins: `nmopt` reads HPAR, `nmfence` may complete at once, an empty `pkmrg` writes its count, a collective joins its collective, INIT reads
its image, an empty `vxinv` goes to its shoot-down. -/
def Sys2Proof.Spec.CommandsStart : Prop :=
  ∀ (head cls die : Nat) (s : State) (c : Cmd), cls ≠ 0 → FirstInQueue s head cls die c →
    let i : Instr := .engineStart head cls die
    let unfinished : Prop := ∃ g, .group g ∈ c.cons ∧ ∃ h ∈ s.eng.groups, h.id = g ∧ h.result = none
    let failed : Prop := .error ∈ c.cons ∨ ∃ g, .group g ∈ c.cons ∧ ∃ h ∈ s.eng.groups, h.id = g ∧ ∃ r, h.result = some r ∧ 2 ≤ r
    let start := if hasStart c.op then min (packOf c 0 / 2 ^ 40 % 2 ^ 24) (packOf c 0 / 2 ^ 16 % 2 ^ 24) else 0
    -- the volume of a command of class 6 is the one its entry names now
    let c := { c with elem := start, vol := if cls = 6 then s.volKey c.ctx (bitsOf c 0 0 12) else c.vol }
    let a := s.acceptOf c
    let b := bitsOf c
    let ended (status : Nat) : State := settled s { c with st := .done, status := status }
    let g : Cmd := { c with total := a.total, st := if a.total ≤ start then .done else .running }
    (unfinished ∨ (s.ctx c.ctx).ffault.isSome ∨ s.part.stopped = true ∨ Behind s c → Completes i s s) ∧
    (¬ unfinished → (s.ctx c.ctx).ffault = none → s.part.stopped = false → ¬ Behind s c →
      (failed → Completes i s (ended 2)) ∧
      (¬ failed → cls = 6 → (∃ u ∈ s.entryBursts c.ctx (b 0 0 12), fget s.mem.poison 0 u ≠ 0 ∨ 3 ≤ fget s.mem.err 0 u) →
        ∃ t : State, Completes i s t ∧ (t.ctx c.ctx).ffault.isSome = true) ∧
      (¬ failed → (cls = 6 → entrySound s c) →
        (a.param = false → Completes i s (ended 5)) ∧
        (a.param = true → a.range = false → Completes i s (ended 6)) ∧
        (a.param = true → a.range = true → a.align = false → Completes i s (ended 4)) ∧
        (a.param = true → a.range = true → a.align = true → a.overlap = false → Completes i s (ended 3)) ∧
        (a.param = true → a.range = true → a.align = true → a.overlap = true → a.state = false → Completes i s (ended 7)) ∧
        (a.param = true → a.range = true → a.align = true → a.overlap = true → a.state = true →
          (plainStart c.op = true → Completes i s (putCmd s g)) ∧
          (∀ f, c.op = .nmopt f → s.mem.sramErr = [] →
            let h := (List.range 9).map (fun k => wordAt s c (b 4 32 32 + 4 * k))
            Completes i s (putCmd s { g with
              vals := if b 0 24 1 = 1 then h else h ++ [1], st := if a.total = 0 ∧ b 0 24 1 = 0 then .done else .running })) ∧
          (∀ f, c.op = .nmfence f → ∃ q : CmdState, Completes i s (putCmd s { g with st := q }) ∧
            (fenceHolds s c → q = .done) ∧ (¬ fenceHolds s c → q = .running)) ∧
          (∀ f, c.op = .pkmrg f → s.mem.sramErr = [] →
            Completes i s (if a.total = 0 then (putCmd s g).sramWr c.die (b 3 32 32) 4 0 else putCmd s g)) ∧
          (∀ f, c.op = .rsc f ∨ c.op = .agt f ∨ c.op = .ard f ∨ c.op = .bcs f →
            (b 4 46 2 = 3 → s.mod.featneg.getLsbD 1 = false ∨ s.reachable (s.ctx c.ctx).shome = false →
              Completes i s (settled s { g with st := .done, status := 8 })) ∧
            (b 4 46 2 ≠ 3 ∨ (s.mod.featneg.getLsbD 1 = true ∧ s.reachable (s.ctx c.ctx).shome = true) → ∃ e : Engines,
              Completes i s { putCmd s g with eng := e } ∧ e = { (putCmd s g).eng with colls := e.colls, nextColl := e.nextColl } ∧
              Joins s c e)) ∧
          (∀ f, c.op = .vxinv f →
            (a.total ≠ 0 → Completes i s (putCmd s g)) ∧
            (a.total = 0 → c.status = 0 → b 0 13 1 = 0 → Completes i s (putCmd s { g with st := .shooting, acks := [] })) ∧
            (a.total = 0 → c.status = 0 → b 0 13 1 = 1 → OwnerHolds s c →
              Completes i s (putCmd (s.devWr ((s.useEntry c.ctx (b 0 0 12)).addr + 0x86) 1 (b 0 14 1)) { g with st := .shooting, acks := [] })) ∧
            (a.total = 0 → c.status = 0 → b 0 13 1 = 1 → ¬ OwnerHolds s c → ∃ t : State, Completes i s t ∧ t.mem = s.mem ∧
              (t.ctx c.ctx).ffault.isSome = true)) ∧
          (∀ f, c.op = .vxpoolInit f → s.mem.sramErr = [] →
            Completes i s (putCmd s { g with vals := [rdNat s.mem.sram (2 ^ 27 * c.die + b 1 0 32) 128] })))))

/-- R219, R253: a running `nmfence` completes once every return-free addition of its sequencer's earlier commands to its buffer has performed,
and waits until then. -/
def Sys2Proof.Spec.FenceCompletes : Prop :=
  ∀ (n : Nat) (s : State) (c : Cmd) (f : FmtE), Runs s n c → c.op = .nmfence f → c.opcode = 0x45 →
    (fenceHolds s c → Completes (.engineElementPerform n) s (putCmd s { c with st := .done })) ∧
    (¬ fenceHolds s c → Completes (.engineElementPerform n) s s)

/-- R226, R227, R234 to R257, R277 to R287: how a queued command starts, and the acceptance checks of every command. -/
def Obligations.EngineCommandsStart : Prop :=
  CommandsStart ∧ CopyAcceptance ∧ ImageAndCollectiveAcceptance ∧ HamperAcceptance ∧ LookupAcceptance ∧ VolumeAcceptance ∧ FenceCompletes

/-- R191, R231, R342: an element of a running command performs, after which the next is due, or waits, or fails. An absent page is skipped
and counted under `pf`; otherwise kinds 5 and 7 stop the command there and tell the driver, any other failure ends the context. An
uncorrectable burst it met is poisoned and counted (R355). A die that found no page holds the entry, so that the command stays past its
owner check (R323). ARR and POS: log entry 53. -/
def Sys2Proof.Spec.ElementOutcomes : Prop :=
  ∀ (n : Nat) (s : State) (c : Cmd), command s n = some c →
    let i : Instr := .engineElementPerform n
    let s₀ := s
    (s.part.stopped = true ∨ (s.ctx c.ctx).ffault.isSome ∨ (c.st ≠ .running ∧ c.st ≠ .allocWait) → Completes i s s) ∧
    (c.st = .running → s.part.stopped = false → (s.ctx c.ctx).ffault = none →
      (∀ w, s.elemOut c = .wait w → Completes i s w) ∧
      (∀ d u, s.elemOut c = .done d → command d n = some u → c.opcode / 16 ≠ 6 → Completes i s (settled d (advanced u))) ∧
      (∀ e k, s.elemOut c = .err e k →
        (c.pf = true ∧ e.kind = 5 ∧ e.sys = false →
          let s := holding s c k
          ((¬ ∃ f a l v, c.op = .wsld f ∧ c.vals = [a, l, v]) →
            Completes i s₀ (settled s (advanced { c with dropped := c.dropped + 1, status := 1 }))) ∧
          -- the bytes a `wsld` holds back for a segment that stays incomplete are written
          ∀ f a l v, c.op = .wsld f → c.vals = [a, l, v] → s.mem.wsErr = [] →
            Completes i s₀ (settled { s with mem := { s.mem with ws := wrNat s.mem.ws (c.die * 2 ^ 31 + a) l v } }
              (advanced { c with vals := [], dropped := c.dropped + 1, status := 1 }))) ∧
        (¬ (c.pf = true ∧ e.kind = 5 ∧ e.sys = false) →
          (e.kind = 5 ∨ e.kind = 7 → ∃ t : State, Completes i s t ∧ command t n = some { c with st := .faulted } ∧ t.mem.hbm = s.mem.hbm ∧
            t.mem.sram = s.mem.sram ∧ t.ctxs = s.ctxs ∧ t.eng.tlb = (holding s c k).eng.tlb ∧
            t.mem.host = (s.postRecord (s.ctx c.ctx).fn c.ctx (faultOf c (faultCode c e + 2 ^ 9) e.off k)).mem.host) ∧
          (e.kind ≠ 5 ∧ e.kind ≠ 7 → ∃ t : State, Completes i s t ∧
            t = { contextFaults s c.ctx (faultOf c (faultCode c e + 2 ^ 8) e.off k) with
              mem := { s.mem with err := t.mem.err, poison := t.mem.poison }
              scrub := t.scrub } ∧
            (e.burst = none → t.mem = s.mem ∧ t.scrub = s.scrub) ∧
            ∀ u, e.burst = some u → 3 ≤ fget s.mem.err 0 u →
              fget t.mem.err 0 u = 0 ∧ fget t.mem.poison 0 u = 1 ∧
              (fget t.scrub default (u * 64 / 2 ^ 36)).uncorrectable =
                min ((fget s.scrub default (u * 64 / 2 ^ 36)).uncorrectable + 1) (2 ^ 32 - 1)))))

/-- R231, R237: `fill` and `cpy` between ranges of shared SRAM write exactly their 128-byte unit; `cpy` moves the bytes its source held before
the command. -/
def Sys2Proof.Spec.FillAndCopyUnits : Prop :=
  ∀ (n : Nat) (s : State) (c : Cmd) (f : FmtE), Runs s n c →
    let unit := 128 * c.elem
    -- the state after the unit has been written with the bytes `v`
    let wrote (dst len : Nat) (v : Nat → Byte) (c' : Cmd) (t : State) : Prop :=
      Completes (.engineElementPerform n) s t ∧ t = { settled s c' with mem := { s.mem with sram := t.mem.sram } } ∧
      (∀ a, rdByte t.mem.sram a = if 2 ^ 27 * c.die + dst + unit ≤ a ∧ a < 2 ^ 27 * c.die + dst + unit + min 128 (len - unit)
        then v (a - (2 ^ 27 * c.die + dst + unit)) else rdByte s.mem.sram a)
    (c.op = .fill f → c.opcode = 0x14 → packOf c 2 = 0 →
      ∃ t, wrote (packOf c 0) (packOf c 1) (fun b => BitVec.ofNat 8 (packOf c 3 / 256 ^ (b % 8))) (advanced c) t) ∧
    (c.op = .cpy f → c.opcode = 0x10 → packOf c 3 = 0 → packOf c 4 = 0 → (∀ e ∈ c.saved, e.2 < 256) →
      let old (a : Nat) : Nat := (fget? c.saved (4 * a)).getD (rdByte s.mem.sram (2 ^ 27 * c.die + a)).toNat
      ∃ t sv, wrote (packOf c 1) (packOf c 2) (fun b => BitVec.ofNat 8 (old (packOf c 0 + unit + b))) (advanced { c with saved := sv }) t ∧
        ∀ a, fget? sv (4 * a) =
          if packOf c 1 + unit ≤ a ∧ a < packOf c 1 + unit + min 128 (packOf c 2 - unit) then some (old a) else fget? c.saved (4 * a))

/-- R236 to R238: an element of the other copies in shared SRAM writes exactly its runs, the later ones last: a row of `cpy2`, a column of
`cpyt`, a run of `cpyp`, a patch of `gth2` and `sct2`, a row of `gthr` and `sctr`. What lies outside the source is FILL, or is not
written. -/
def Sys2Proof.Spec.CopyElements : Prop :=
  ∀ (n : Nat) (s : State) (c : Cmd) (f : FmtE), Runs s n c →
    ((c.op = .cpy2 f ∧ packOf c 3 = 0) ∨ c.op = .cpyt f ∨ c.op = .cpyp f ∨ c.op = .gth2 f ∨ c.op = .sct2 f ∨ c.op = .gthr f ∨ c.op = .sctr f) →
    c.opcode / 16 = 1 → packOf c 2 = 0 → (∀ e ∈ c.saved, e.2 < 256) → (∀ l, copyList c = some l → l.2 ≠ 0) →
    let at_ := 2 ^ 27 * c.die
    let w := match copyList c with | some l => wordAt s c (l.1 + 4 * c.elem) | none => 0
    let fill := packOf c (match c.op with | .gth2 _ => 7 | _ => 5)
    let old (a : Nat) : Nat := (fget? c.saved (4 * a)).getD (rdByte s.mem.sram (at_ + a)).toNat
    let last (a : Nat) := ((copyRuns c w).filter (fun p => decide (p.2.1 ≤ a ∧ a < p.2.1 + p.2.2))).getLast?
    ∃ (t : State) (sv : FMap Nat), Completes (.engineElementPerform n) s t ∧
      t = { settled s (advanced { c with saved := sv }) with mem := { s.mem with sram := t.mem.sram } } ∧
      (c.op ≠ .cpy2 f → sv = c.saved) ∧
      (c.op = .cpy2 f → ∀ a, fget? sv (4 * a) = if (last a).isSome then some (old a) else fget? c.saved (4 * a)) ∧
      (∀ a < at_, rdByte t.mem.sram a = rdByte s.mem.sram a) ∧
      ∀ a, rdByte t.mem.sram (at_ + a) = match last a with
        | none => rdByte s.mem.sram (at_ + a)
        | some (some o, d, _) => BitVec.ofNat 8 (old (o + (a - d)))
        | some (none, d, _) => BitVec.ofNat 8 (fill / 256 ^ ((a - d) % 8))

/-- R189, R234, R235, R237, R324: a unit of `cpy`, `fill` and `wsld` between endpoints of this module, buffers, shared SRAM under a
swizzle, the weight store: the bytes the source held before go to the destination's bytes, then with MXFMT each block's scale. `wsld`
writes each aligned 128 bytes of the weight store at once. -/
def Sys2Proof.Spec.EndpointCopies : Prop :=
  (∀ (n : Nat) (s : State) (c : Cmd) (f : FmtE), Runs s n c → named c → c.op = .cpy f ∨ c.op = .fill f ∨ c.op = .wsld f →
    let src := copySrc c
    let dst := copyDst c
    let reads : Prop := c.op ≠ .fill f
    let LEN := if c.op = .fill f then packOf c 1 else packOf c 2
    let from_ := copyFrom c + 128 * c.elem
    let tgt := copyTo c + 128 * c.elem
    let len := min 128 (LEN - 128 * c.elem)
    let mxf := copyMx c % 2 ^ 5
    let bb := blockOf mxf
    let place (v off : Nat) : Nat := 2 ^ 27 * c.die + SWZ (turnOf v) off
    let now (v off : Nat) : Nat := if spaceOf v = 1 then (s.bufByte c.die c.ctx (bufOf v) off).toNat else (rdByte s.mem.sram (place v off)).toNat
    let S : EndPt := endPt src
    let T : EndPt := endPt dst
    let old (k : Nat) : Nat := if c.op = .fill f then packOf c 3 / 256 ^ (k % 8) % 256
      else (fget? c.saved (s.byteKey c S (from_ + k))).getD (now src (from_ + k))
    let moves : Prop := c.op = .cpy f ∧ spaceOf src = spaceOf dst
    -- the accesses pass the port's checks
    (∀ v, v = src ∨ v = dst → turnOf v ≠ 3 ∧ (spaceOf v = 1 → (s.bufEntry c.ctx (bufOf v)).remote = false)) →
    (reads → spaceOf src < 2 ∧ (spaceOf src = 1 → s.portErr c.die c.ctx (bufOf src) from_ len false = none)) →
    (spaceOf dst = 1 → s.portErr c.die c.ctx (bufOf dst) tgt len true = none) → (mxf = 0 ∨ (c.op = .cpy f ∧ 14 ≤ mxf ∧ mxf ≤ 16)) →
    (∀ e ∈ c.saved, e.2 < 256) → (¬ moves → c.saved = []) →
    -- what the read leaves, the bytes, and what is kept of those replaced
    let x := if reads ∧ spaceOf src = 1 then s.portTouch c.die c.ctx (bufOf src) from_ len else s
    let kept (sv : FMap Nat) : Prop := (¬ moves → sv = c.saved) ∧ (moves → mxf = 0 →
      (∀ k v, fget? c.saved k = some v → fget? sv k = some v) ∧
      (∀ i < len, fget? c.saved (s.byteKey c T (tgt + i)) = none → fget? sv (s.byteKey c T (tgt + i)) = some (now dst (tgt + i))) ∧
      (∀ k, (∀ i < len, s.byteKey c T (tgt + i) ≠ k) → fget? sv k = fget? c.saved k))
    let scales (y : State) : State := if mxf = 0 then y else (List.range (len / bb)).foldl (fun y b =>
      y.scaleWr c T (tgt + bb * b) (s.scaleRd c S (from_ + bb * b))) y
    ∃ V : Nat, V < 256 ^ len ∧ (∀ k < len, V / 256 ^ k % 256 = old k) ∧
      (spaceOf dst = 1 → ∃ sv, kept sv ∧ Completes (.engineElementPerform n) s
        (settled (scales (x.bufPut c.die c.ctx (bufOf dst) tgt len V (decide (mxf = 0)))) (advanced { c with saved := sv }))) ∧
      (spaceOf dst = 0 → ∃ (sv : FMap Nat) (y : State), kept sv ∧ y = { x with mem := { x.mem with sram := y.mem.sram } } ∧
        (∀ k < len, rdByte y.mem.sram (place dst (tgt + k)) = BitVec.ofNat 8 (old k)) ∧
        (∀ a, (∀ k < len, a ≠ place dst (tgt + k)) → rdByte y.mem.sram a = rdByte x.mem.sram a) ∧
        Completes (.engineElementPerform n) s (settled (scales y) (advanced { c with saved := sv }))) ∧
      (c.op = .wsld f → spaceOf dst = 2 → s.mem.wsErr = [] → ∀ a l v, c.vals = [a, l, v] ∨ (c.vals = [] ∧ a = tgt ∧ l = 0 ∧ v = 0) → a + l = tgt →
        v < 256 ^ l →
        -- the bytes held back and those of the unit; they are written up to the last whole 128 bytes, by the last unit all of them
        let stop := if c.total ≤ c.elem + 1 then tgt + len else max a ((tgt + len) / 128 * 128)
        let byte (p : Nat) : Nat := if p < tgt then v / 256 ^ (p - a) % 256 else old (p - tgt)
        ∃ (vals : List Nat) (w : Nat) (m : Mem), Completes (.engineElementPerform n) s
            (settled { x with mem := { x.mem with ws := m } } (advanced { c with vals := vals })) ∧
          (∀ q, rdByte m q = if 2 ^ 31 * c.die + a ≤ q ∧ q < 2 ^ 31 * c.die + stop then BitVec.ofNat 8 (byte (q - 2 ^ 31 * c.die))
            else rdByte s.mem.ws q) ∧
          (vals = if stop = tgt + len then [] else [stop, tgt + len - stop, w]) ∧
          ∀ p, stop ≤ p → p < tgt + len → w / 256 ^ (p - stop) % 256 = byte p)) ∧
  -- the scale of the block at an offset: in the scale plane, or in the sideband word of its burst
  (∀ (s : State) (c : Cmd) (v off : Nat), (∃ f, c.op = .cpy f) →
    let bb := blockOf (copyMx c % 2 ^ 5)
    let plane := copyMx c / 2 ^ 32 + off / bb
    let at_ := s.byteLoc c.die c.ctx (bufOf v) (off / 64 * 64)
    (spaceOf v = 0 → s.scaleRd c (endPt v) off = (rdByte s.mem.sram (2 ^ 27 * c.die + plane)).toNat ∧
      ∀ y < 256, s.scaleWr c (endPt v) off y = s.sramWr c.die plane 1 y) ∧
    (spaceOf v = 1 → ∀ a, at_ = .dev a →
      (c.saved = [] → s.scaleRd c (endPt v) off = (fget s.mem.sb 0 (a / 64)).toNat / 256 ^ (off % 64 / bb) % 256) ∧
      ∀ y < 256, let t := s.scaleWr c (endPt v) off y
        t = { s with mem := { s.mem with sb := t.mem.sb } } ∧ (∀ u, u ≠ a / 64 → fget t.mem.sb 0 u = fget s.mem.sb 0 u) ∧
        ∀ j < 4, (fget t.mem.sb 0 (a / 64)).toNat / 256 ^ j % 256 = if j = off % 64 / bb then y else if bb = 32 ∧ 2 ≤ j then 0
          else (fget s.mem.sb 0 (a / 64)).toNat / 256 ^ j % 256))

/-- R218, R219, R246 to R248, R251: the elements of the Hamper commands on a table of this module: what they write, where, and what they count.
An index beyond the table is dropped and counted; `nmamo` then returns 0. An element performs in one step (log entry 15); entries of `nmadd`
are accepted without a port check (log entry 20). -/
def Sys2Proof.Spec.HamperElements : Prop :=
  ∀ (n : Nat) (s : State) (c : Cmd) (f : FmtE), Runs s n c → c.opcode / 16 = 4 →
    let b := bitsOf c
    let i := c.elem
    let word (a : Nat) : Nat := wordAt s c a
    let tbuf := b 0 0 12
    let toff := packOf c 1
    let rows := b 2 32 32
    let r := word (b 3 32 32 + 4 * i)
    let yields (x : State) (c' : Cmd) : Prop := Completes (.engineElementPerform n) s (settled x (advanced c'))
    let dropped : Cmd := { c with dropped := c.dropped + 1 }
    (s.bufEntry c.ctx tbuf).remote = false →
    (c.op = .nmadd f →
      let D := b 0 16 16
      let v (e : Nat) : Nat :=
        let x := word (b 3 0 32 + 4 * (i * D + e))
        if b 4 0 1 = 1 then times32 (word (b 4 32 32 + 4 * i)) x else x
      (rows ≤ r → yields s dropped) ∧
      (r < rows → yields
        { s with eng := { s.eng with adds := s.eng.adds ++ (List.range D).map (fun e =>
            ⟨c.id, c.task, c.taskid, c.head, c.ctx, c.die, c.pos, c.addr, tbuf, toff + r * (4 * D) + 4 * e, BitVec.ofNat 32 (v e), i, false⟩) } }
        { c with bad := c.bad + ((List.range D).map v).countP unbounded })) ∧
    (c.op = .nmamo f → b 0 16 4 < 8 →
      let z := if b 0 20 1 = 1 then 8 else 4
      let aop := b 0 16 4
      let oz := if aop = 6 then 2 * z else z
      let opd := rdNat s.mem.sram (2 ^ 27 * c.die + b 3 0 32 + oz * i) oz
      let off := toff + r * z
      let ret := b 4 0 32 + i * z
      let new := atomicLeaves aop z opd
      (rows ≤ r → yields (s.sramWr c.die ret z 0) dropped) ∧
      (r < rows → s.atomicErr c.die c.ctx tbuf off z = none →
        let old := s.bufRd c.die c.ctx tbuf off z
        yields ((s.bufPut c.die c.ctx tbuf off z (new old) true).sramWr c.die ret z old)
          { c with bad := c.bad + if aop = 7 ∧ unbounded (new old) = true then 1 else 0 })) ∧
    (c.op = .nmgs f →
      let D := b 0 16 16
      let K := b 4 0 16
      let R := rowBytes (b 0 12 2) D
      let ents := ((List.range K).map (fun q => (word (b 3 32 32 + 4 * (i * K + q)), word (b 3 0 32 + 4 * (i * K + q))))).filter
        (fun e => decide (e.1 < rows))
      let place (e : Nat × Nat) : Nat := toff + e.1 * R
      (∀ e ∈ ents, s.portErr c.die c.ctx tbuf (place e) R false = none) →
      let out := (List.range D).map (fun x => stackedSum
        (ents.map (fun e => (e.2, s.bufRd c.die c.ctx tbuf (place e) R, stackAt s c tbuf (place e)))) (fun row => rowValue (b 0 12 2) (b 0 14 1) row x))
      yields ((s.fetched c (ents.map (fun e => (tbuf, place e, R)))).sramWr c.die (b 4 32 32 + 4 * i * D) (4 * D) (wordsOf out))
        { c with bad := c.bad + out.countP unbounded, dropped := c.dropped + (K - ents.length) }) ∧
    (c.op = .nmdot f →
      let D := b 0 16 16
      let R := rowBytes (b 0 12 2) D
      let q := b 3 0 32 + (if b 4 0 1 = 1 then 0 else 4 * D * i)
      let off := toff + r * R
      (rows ≤ r → yields (s.sramWr c.die (b 4 32 32 + 4 * i) 4 0) dropped) ∧
      (r < rows → s.portErr c.die c.ctx tbuf off R false = none →
        let row := s.bufRd c.die c.ctx tbuf off R
        let v := (List.range D).foldl (fun a e => fused32 (word (q + 4 * e)) (rowValue (b 0 12 2) (b 0 14 1) row e) a) 0
        yields ((s.fetched c [(tbuf, off, R)]).sramWr c.die (b 4 32 32 + 4 * i) 4 v)
          { c with bad := c.bad + if unbounded v = true then 1 else 0 })) ∧
    (c.op = .nmopt f → c.vals.length = 10 → (∀ v ∈ c.vals, v < 2 ^ 32) →
      let D := b 0 32 16
      let off := toff + r * (16 * D)
      let x := b 0 12 12
      let far := b 0 26 1 = 1
      let grads := (x, packOf c 5 + 4 * D * r, 4 * D)
      let s' := if far then s.fetched c [grads] else s
      let g (e : Nat) : Nat := if far then s.bufRd c.die c.ctx x grads.2.1 (4 * D) / 2 ^ (32 * e) % 2 ^ 32 else word (b 3 0 32 + 4 * (D * i + e))
      let kept (u : State) (e : Nat) : Prop := b 0 25 1 = 1 ∧ u.bufRd c.die c.ctx tbuf (off + 16 * e) 16 / 2 ^ 112 % 2 ^ 16 = b 0 48 16
      let new (u : State) (e : Nat) : Nat := optimized (fun k => c.vals.getD k 0) (b 0 48 16) (g e) (u.bufRd c.die c.ctx tbuf (off + 16 * e) 16)
      (rows ≤ r → yields s dropped) ∧
      (r < rows → (far → (s.bufEntry c.ctx x).remote = false ∧ s.portErr c.die c.ctx x grads.2.1 grads.2.2 false = none) →
        s'.atomicErr c.die c.ctx tbuf off (16 * D) = none →
        ∃ (u : Nat → State) (bads : Nat → Nat), u 0 = s' ∧ bads 0 = 0 ∧
          (∀ e < D, (kept (u e) e → u (e + 1) = u e ∧ bads (e + 1) = bads e) ∧
            (¬ kept (u e) e → u (e + 1) = (u e).bufPut c.die c.ctx tbuf (off + 16 * e) 16 (new (u e) e) true ∧
              bads (e + 1) = bads e + if recordUnbounded (new (u e) e) then 1 else 0)) ∧
          yields (u D) { c with bad := c.bad + bads D }))

/-- R191, R322, R323, R328: the checks of the memory port in order: bounds, owner, rights, presence, a discarded write. A remote entry met
by an access that cannot go over the link has size 0 (log entry 68); an import of one fails its owner check. Of several pages the lowest
that fails decides (69). A die that holds an entry has made the owner check (R329). -/
def Sys2Proof.Spec.PortChecks : Prop :=
  ∀ (s : State) (die ctx k off len : Nat) (write : Bool), 0 < len → s.mem.err = [] → s.mem.poison = [] →
    let e := s.usedEntry die ctx k
    let res := s.portErr die ctx k off len write
    let owner : Prop := e.remote = false ∧
      ((∃ t ∈ s.eng.tlb, t.die = die ∧ t.ctx = ctx ∧ t.buf = k) ∨ s.ownerOk ctx (s.bufEntry ctx k) = true)
    let has : Bool := if write then e.wr else e.rd
    let page (p : Nat) : Prop := off / e.page ≤ p ∧ p * e.page < off + len
    let bad (p : Nat) : Prop := pageAbsent s die ctx k p write ∨ (write = true ∧ (s.pte die ctx k p).2.testBit 61 = true)
    let within : Prop := off + len ≤ e.size ∧ (e.remote = true → (s.bufEntry ctx k).imp = true)
    (¬ within → res = some ⟨12, off, false, none⟩) ∧
    (within → ¬ owner → res = some ⟨13, off, false, none⟩) ∧
    (within → owner → has = false → res = some ⟨6, off, false, none⟩) ∧
    (within → owner → has = true →
      ((∀ p, page p → ¬ bad p) → res = none) ∧
      ∀ p, page p → bad p → (∀ q, page q → q < p → ¬ bad q) →
        (pageAbsent s die ctx k p write → res = some ⟨5, max off (p * e.page), false, none⟩) ∧
        (¬ pageAbsent s die ctx k p write → res = some ⟨7, max off (p * e.page), false, none⟩))

/-- R191, R231, R234 to R238, R246 to R251, R342: elements of engine commands, and the checks of the memory port. -/
def Obligations.EngineElementsAndPortChecks : Prop :=
  ElementOutcomes ∧ FillAndCopyUnits ∧ CopyElements ∧ EndpointCopies ∧ HamperElements ∧ PortChecks

namespace Sys2Proof.Spec

/-- AUX of a finished instance (R229, R246, R254). -/
def auxOf (c : Cmd) : Nat :=
  let k := c.opcode / 16
  if k = 1 then c.dropped else if k = 2 ∨ k = 3 then c.bad
  else if k = 4 ∨ k = 5 then min 4095 c.dropped * 2 ^ 12 + min 4095 c.bad else 0

/-- The groups that stay: those still open, and those some command of `cs` is bound to. -/
def openGroups (cs : List Cmd) (gs : List Group) : List Group :=
  gs.filter (fun g => g.result.isNone || cs.any (fun c => c.cons.contains (.group g.id)))

/-- `gs` with `g` in place of the group of its number. -/
def putGroup (gs : List Group) (g : Group) : List Group := gs.map (fun h => if h.id == g.id then g else h)

/-- R230: what instances that report (position, status, COUNT, ELEM, AUX) give together. -/
def ReportsGive (cls : Nat) (l : List (Nat × Nat × Nat × Nat × Nat)) (pos status count elem aux : Nat) : Prop :=
  count = (l.map (fun x => x.2.2.1)).sum ∧
  (aux = if cls = 4 ∨ cls = 5 then
      min 4095 (l.map (fun x => x.2.2.2.2 / 2 ^ 12)).sum * 2 ^ 12 + min 4095 (l.map (fun x => x.2.2.2.2 % 2 ^ 12)).sum
    else (l.map (fun x => x.2.2.2.2)).sum) ∧
  ((∃ x ∈ l, 2 ≤ x.2.1) → ∃ x ∈ l, 2 ≤ x.2.1 ∧ (∀ y ∈ l, 2 ≤ y.2.1 → x.1 ≤ y.1) ∧ pos = x.1 ∧ status = x.2.1 ∧ elem = x.2.2.2.1) ∧
  ((∀ x ∈ l, x.2.1 < 2) → (∃ x ∈ l, x.2.1 = 1) → ∃ x ∈ l, x.2.1 = 1 ∧ (∀ y ∈ l, y.2.1 = 1 → x.1 ≤ y.1) ∧ pos = x.1 ∧ status = 1 ∧ elem = count) ∧
  ((∀ x ∈ l, x.2.1 = 0) → pos = 0 ∧ status = 0 ∧ elem = count)

/-- Ring `n` with one more entry produced by an engine: P and IP advance together (R193). -/
def produced (t : Task) (n : Nat) (r : Ring) : Task := { t with rings := finsert t.rings n { r with p := r.p + 1, ip := r.ip + 1 } }

/-- Rows of queue `q` at position `j`. -/
def rowsOf (t : Task) (j q : Nat) : List DrainRow := fget (fget t.pos default j).dq [] q

/-- Candidate `a` ranks above `b`, as (FP32 score, index) (R258). -/
def above (a b : Nat × Nat) : Bool :=
  let nan (v : Nat) : Bool := decide (0x7F800000 < v % 2 ^ 31)
  let key (v : Nat) : Int := if v.testBit 31 then -((v % 2 ^ 31 : Nat) : Int) else ((v % 2 ^ 31 : Nat) : Int)
  (!nan a.1 && nan b.1) || (nan a.1 && nan b.1 && decide (a.2 < b.2)) ||
  (!nan a.1 && !nan b.1 && (decide (key b.1 < key a.1) || (decide (key a.1 = key b.1) && decide (a.2 < b.2))))

/-- The indices of the `k` highest-ranked of `n` scores. -/
def highest (n k : Nat) (score : Nat → Nat) : List Nat :=
  (List.range n).filter (fun i => decide ((List.range n).countP (fun j => above (score j, j) (score i, i)) < k))

/-- R258: `P` holds the `k` highest-ranked sums of the `k1` highest-ranked scores of each half, in rank order. -/
def Selected (n k1 k : Nat) (s1 s2 : Nat → Nat) (P : List (Nat × Nat)) : Prop :=
  let all := (highest n k1 s1).flatMap (fun i => (highest n k1 s2).map (fun j => (plus32 (s1 i) (s2 j), i * n + j)))
  P.length = k ∧ ∀ r < k, ∀ p, P[r]? = some p → p ∈ all ∧ all.countP (fun q => above q p) = r

/-- R259: the softmax weights of scores in rank order, with scale `T`. -/
def weights (T : Nat) (l : List Nat) : List Nat :=
  let v32 := dec .fp32
  let m := l.headD 0
  if unbounded m then l.map (fun _ => 0x7FC00000)
  else
    let es := l.map (fun v =>
      if decide (0x7F800000 < v % 2 ^ 31) then 0
      else (specFn .exp2 (v32 (round32 (mulRv (addRv (v32 v) (negRv (v32 m)) false).1 (v32 T)).1)) false).1)
    es.map (fun e => round32 (divRv (v32 e) (v32 (es.foldl plus32 0))))

/-- Overlap of output index `x` with source index `i` of `n`, in quarters of a pixel, under divisor `q` (R241). -/
def quarters (q n x i : Nat) : Nat := min (min ((x + 1) * q) (4 * n)) (4 * i + 4) - max (x * q) (4 * i)

/-- Channel `ch` of the source pixel at row `i` and column `j`, before any resampling (R241). -/
def sourcePixel (p : Picture) (i j ch : Nat) : Rat :=
  let within (x : Rat) : Rat := if x < 0 then 0 else if 255 < x then 255 else x
  match p.px with
  | .t6 lines => if (lines.getD i []).getD j false then 0 else 1
  | .t81 f =>
    let Y : Rat := ((f.sample 0 i j : Nat) : Rat)
    let r := if p.sampling = 3 then i / 2 else i
    let c := if p.sampling = 1 then j else j / 2
    let Cb : Rat := ((f.sample 1 r c : Nat) : Rat)
    let Cr : Rat := ((f.sample 2 r c : Nat) : Rat)
    if p.sampling = 0 then Y / 255
    else if ch = 0 then within (Y + 1402 / 1000 * (Cr - 128)) / 255
    else if ch = 1 then within (Y - 344136 / 1000000 * (Cb - 128) - 714136 / 1000000 * (Cr - 128)) / 255
    else within (Y + 1772 / 1000 * (Cb - 128)) / 255

/-- The exact mean of channel `ch` over the rectangle of output pixel (x, y) (R241). -/
def meanOver (p : Picture) (q x y ch : Nat) : Rat :=
  ((List.range p.h).map (fun i => ((List.range p.w).map (fun j =>
      sourcePixel p i j ch * ((quarters q p.w x j * quarters q p.h y i : Nat) : Rat))).sum)).sum /
    ((((List.range p.w).map (quarters q p.w x)).sum * ((List.range p.h).map (quarters q p.h y)).sum : Nat) : Rat)

/-- REDUCE of the elements of the ranks in ascending order (R244). -/
def reduced (op dtype : Nat) (xs : List Nat) : Nat :=
  let sg (v : Nat) : Int := (BitVec.ofNat 32 v).toInt
  let step (a x : Nat) : Nat :=
    if dtype = 2 then
      (if op = 0 then (a + x) % 2 ^ 32 else if op = 1 then (if sg a < sg x then x else a) else if sg x < sg a then x else a)
    else if op = 0 then plus32 a x
    else minMaxBits .fp32 false (decide (op = 1)) a x
  match xs.map (fun v => if dtype = 1 then v % 2 ^ 16 * 2 ^ 16 else v) with
  | [] => 0
  | x :: rest => if dtype = 1 then (round (dec .fp32 (rest.foldl step x)) .bf16 .rne false false).1 else rest.foldl step x

/-- What a participant writes, `x k e` being element `e` of rank `k` (R244). -/
def collected (c : Cmd) (x : Nat → Nat → Nat) : List Nat :=
  let N := bitsOf c 3 32 32
  let NP := bitsOf c 3 16 16
  let across (e : Nat) : Nat := reduced (bitsOf c 4 44 2) (bitsOf c 4 42 2) ((List.range NP).map (fun k => x k e))
  match c.op with
  | .rsc _ => (List.range (N / NP)).map (fun e => across ((bitsOf c 3 0 16 + c.pos) * (N / NP) + e))
  | .ard _ => (List.range N).map across
  | .agt _ => (List.range (N * NP)).map (fun i => x (i / N) (i % N))
  | _ => (List.range N).map (fun e => x (bitsOf c 4 0 16) e)

/-- Element `e` of a participant's source in shared SRAM without a swizzle, or of the rows it has popped (R243, R245). -/
def collSource (s : State) (c : Cmd) (e : Nat) : Nat :=
  if bitsOf c 4 37 1 = 1 then elt (fget (c.rows.getD (e / 8192) []) 0 (e % 8192 / 256)) (e % 256 / 16) (e % 16)
  else rdNat s.mem.sram (2 ^ 27 * c.die + packOf c 0 + e * c.collZ) c.collZ

/-- Non-finite results (R244). -/
def unboundedOf (dtype v : Nat) : Bool := if dtype = 0 then unbounded v else if dtype = 1 then unbounded (v * 2 ^ 16) else false

/-- A guarded `nmopt` that waits for its guard (R252). -/
def waitsForGuard (c : Cmd) : Prop := (∃ f, c.op = .nmopt f) ∧ c.st = .running ∧ packOf c 0 / 2 ^ 24 % 2 = 1 ∧ c.vals.length = 9

end Sys2Proof.Spec

open Sys2Proof Sys2Proof.Machine Sys2Proof.Spec

/-- R228 to R230: a finished instance leaves its queue and reports to its command; with the last instance the command completes: the status
enters the produce slot of the running task, and the record its event queue. A command that is not done does not complete. -/
def Sys2Proof.Spec.CommandsComplete : Prop :=
  ∀ (n : Nat) (s : State) (c : Cmd), command s n = some c →
    let i : Instr := .engineComplete n
    (c.st ≠ .done → Completes i s s) ∧
    (c.st = .done → ∀ g, s.eng.groups.find? (fun g => g.id == c.group) = some g →
      let rest := s.eng.cmds.filter (fun d => d.id != c.id)
      let mine := (c.pos, c.status, c.elem, c.elem, auxOf c)
      let after (gs : Group → Prop) (tasks : FMap Task) : Prop := ∃ h, gs h ∧ Completes i s
        { s with tasks := tasks, eng := { s.eng with cmds := rest, groups := openGroups rest (putGroup s.eng.groups h) } }
      (g.got.length + 1 < g.want →
        after (fun h => (∃ got, h = { g with got := got } ∧ got.Perm (mine :: g.got) ∧
          (g.got.Pairwise (fun x y => x.1 ≤ y.1) → got.Pairwise (fun x y => x.1 ≤ y.1)))) s.tasks) ∧
      (g.want ≤ g.got.length + 1 → g.got.Pairwise (fun x y => x.1 ≤ y.1) →
        ∀ t, fget? s.tasks g.task = some t → t.ctl.running = true →
          ∃ pos status count elem aux, ReportsGive (c.opcode / 16) (mine :: g.got) pos status count elem aux ∧
            after (fun h => ∃ got, h = { g with got := got, result := some status })
              (finsert s.tasks t.id.uid (told t g.slot g.opcode g.addr g.ev pos status count elem aux))))

/-- R233, R245, R267: a pending detach ends once every row pushed before it has been popped; an attached engine takes the first whole row for its
earliest command that pops the queue, while the task runs (log entry 70). -/
def Sys2Proof.Spec.DrainRowsAndDetach : Prop :=
  (∀ (head dq : Nat) (s : State) (t : Task), At s head t →
    let a := fget t.dq default dq
    let ready : Prop := a.attached = true ∧ a.pending = true ∧ ∀ e ∈ t.pos, ∀ r ∈ fget e.2.dq [] dq, r.n < a.mark → r.popped = true
    (¬ ready → Completes (.dqDetachComplete head dq) s s) ∧
    (ready → ∀ g, s.eng.groups.find? (fun g => g.id == a.group) = some g → Completes (.dqDetachComplete head dq) s
      { s with
        tasks := finsert s.tasks t.id.uid (told { t with dq := fset t.dq default dq default } g.slot g.opcode g.addr g.ev 0 0 0 0 0)
        eng := { s.eng with groups := openGroups s.eng.cmds (putGroup s.eng.groups { g with result := some 0 }) } })) ∧
  (∀ (n : Nat) (s : State) (c : Cmd) (t : Task) (q want : Nat) (r : DrainRow), command s n = some c → c.rowsWanted = some (q, want) →
    fget? s.tasks c.task = some t → t.id.uid = c.task → c.st = .running → c.rows.length < want →
    (rowsOf t c.pos q).find? (fun x => !x.popped) = some r → ∀ before after : List Cmd, s.eng.cmds = before ++ c :: after →
    (∀ d ∈ before, d.id ≠ c.id) →
    -- an earlier command that pops the queue still, a `pksel` that waits in its queue among them
    let pops (d : Cmd) : Prop := d.task = c.task ∧ d.pos = c.pos ∧ (d.st = .running ∨ d.st = .faulted ∨ (d.st = .queued ∧ d.opcode = 0x50)) ∧
      ∃ m, d.rowsWanted = some (q, m) ∧ d.rows.length < m
    ((∃ d ∈ before, pops d) → Completes (.drainRowPopEngine n) s s) ∧
    ((∀ d ∈ before, ¬ pops d) →
    let whole : Prop := ∀ k < 32, r.n < (cellOf t c.pos 31 k).n
    let early : Prop := (fget t.dq default q).pending = true → r.n < (fget t.dq default q).mark
    (¬ (whole ∧ early ∧ t.ctl.running = true) → Completes (.drainRowPopEngine n) s s) ∧
    (whole → early → t.ctl.running = true → ∃ u : Task, Completes (.drainRowPopEngine n) s
        (putCmd { s with tasks := finsert s.tasks t.id.uid u } { c with rows := c.rows ++ [r.slots] }) ∧
      u = { t with pos := u.pos } ∧ rowsOf u c.pos q = (rowsOf t c.pos q).filter (fun x => x.n != r.n) ∧
      ∀ j p, j ≠ c.pos ∨ p ≠ q → rowsOf u j p = rowsOf t j p)))

/-- R243 to R245, R309, R384: a collective waits until it is full and its members are ready, ends with MISMATCH where they do not agree, and
otherwise fixes what each writes from the sources as they stand; each element then writes the aligned pieces of 128 bytes of shared SRAM
that end with it, at a misaligned destination too (log entries 15, 71). At LEVEL 3 a participant that its home has matched gives its elements
to the others, and performs once it has those of all (log entry 29). -/
def Sys2Proof.Spec.CollectiveResults : Prop :=
  (∀ (n : Nat) (s : State) (k : Coll), s.eng.colls.find? (fun k => k.id == n) = some k → k.level ≠ 3 →
    let cs := k.members.filterMap (fun m => command s m.1)
    let gone : List Coll := s.eng.colls.filter (fun h => h.id != k.id)
    (cs.length ≠ k.np → Completes (.collectivePerform n) s s) ∧
    (cs.length = k.np → k.agree = false → (∀ c ∈ cs, c.st = .running) → ∃ cmds, Completes (.collectivePerform n) s
      { s with
        eng := { s.eng with cmds := cmds, colls := gone }
        out := s.out.filter (fun o => decide (∀ c ∈ cs, o.cmd ≠ c.id) || (o.answer.isNone && o.access.toModule != s.mod.modid)) } ∧
      cmds = s.eng.cmds.map (fun d => match cs.reverse.find? (fun c => c.id == d.id) with
        | some c => { c with st := .done, status := 8 }
        | none => d)) ∧
    (cs.length = k.np → k.agree = true → (∀ c ∈ cs, c.collReady = true ∧ packOf c 2 % 2 ^ 16 = 0) → s.mem.sramErr = [] →
      let by_ (r : Nat) : Cmd := (cs.find? (fun c => bitsOf c 3 0 16 + c.pos == r)).getD default
      let given (c : Cmd) : List Nat := collected c (fun r e => collSource s (by_ r) e)
      Completes (.collectivePerform n) s { s with eng := { s.eng with colls := gone, cmds := s.eng.cmds.map (fun d =>
        match cs.reverse.find? (fun c => c.id == d.id) with
        | some c => { c with vals := given c, bad := (given c).countP (unboundedOf (bitsOf c 4 42 2)), rows := [] }
        | none => d) } })) ∧
  (∀ (n : Nat) (s : State) (k : Coll) (c : Cmd) (gen : Nat), s.eng.colls.find? (fun k => k.id == n) = some k → k.level = 3 →
    k.members.filterMap (fun m => command s m.1) = [c] → c.acks = [3, gen] →
    let mine := s.eng.shares.filter (fun h => h.sdom == (s.ctx c.ctx).sdom && h.group == s.sysKey c && h.gen == gen)
    let NP := bitsOf c 3 16 16
    let alike : Prop := (∀ h ∈ mine, h.params = c.collParams ∧ h.rank < NP) ∧ (mine.map (·.rank)).Nodup
    let given := collected c (fun r e => (((mine.find? (fun h => h.rank == r)).map (·.elems)).getD []).getD e 0)
    (mine.length < NP → Completes (.collectivePerform n) s s) ∧
    (NP ≤ mine.length → ∃ t : State, Completes (.collectivePerform n) s t ∧ t = { s with eng := t.eng, out := t.out } ∧
      t.eng.colls = s.eng.colls.filter (fun h => h.id != k.id) ∧
      (alike → command t c.id =
        some { c with vals := given, bad := given.countP (unboundedOf (bitsOf c 4 42 2)), rows := [] }) ∧
      (¬ alike → command t c.id = some { c with st := .done, status := 8 }))) ∧
  (∀ (n : Nat) (s : State) (c : Cmd), Runs s n c → c.opcode / 16 = 3 → (∃ f, c.op = .rsc f ∨ c.op = .agt f ∨ c.op = .ard f ∨ c.op = .bcs f) →
    packOf c 2 / 2 ^ 16 % 2 ^ 16 = 0 →
    let z := if bitsOf c 4 42 2 = 1 then 2 else 4
    let ends (k : Nat) : Nat := if k = 0 then packOf c 1 else min ((packOf c 1 + k * z + 127) / 128 * 128) (packOf c 1 + c.total * z)
    (c.vals = [] → Completes (.engineElementPerform n) s s) ∧
    (c.vals ≠ [] → c.elem < c.total → (∀ v ∈ c.vals, v < 2 ^ (8 * z)) →
      let lo := ends c.elem
      let hi := ends (c.elem + 1)
      let next := (hi - packOf c 1) / z
      ∃ t : State, Completes (.engineElementPerform n) s t ∧
        t = { settled s { c with elem := next, st := if c.total ≤ next then .done else .running } with mem := { s.mem with sram := t.mem.sram } } ∧
        ∀ a, rdByte t.mem.sram (2 ^ 27 * c.die + a) = if lo ≤ a ∧ a < hi
          then BitVec.ofNat 8 (c.vals.getD ((a - packOf c 1) / z) 0 / 256 ^ ((a - packOf c 1) % z)) else rdByte s.mem.sram (2 ^ 27 * c.die + a)))

/-- R241, R242: the grid of an image is that of the least divisor whose patches fit the budget; the decoder writes its next patch, each element
the mean of the source image over its rectangle, and the position record, into the ring entry at IP, and advances P and IP; a full ring
makes it wait, and a stream found broken there completes with DECODE. Where within its stream a broken image is found out is a free
value (log entry 12). -/
def Sys2Proof.Spec.ImagePatches : Prop :=
  (∀ (c : Cmd) (w h : Nat), 1 ≤ w → 1 ≤ h → 1 ≤ bitsOf c 2 48 16 →
    let P := c.side
    let W2 (q : Nat) : Nat := max 1 (4 * w / q)
    let H2 (q : Nat) : Nat := max 1 (4 * h / q)
    let across (q : Nat) : Nat := (W2 q + P - 1) / P
    let down (q : Nat) : Nat := (H2 q + P - 1) / P
    let fits (q : Nat) : Prop := across q * down q ≤ bitsOf c 2 48 16
    let g := c.grid w h
    4 ≤ g.q ∧ fits g.q ∧ (∀ q, 4 ≤ q → q < g.q → ¬ fits q) ∧ g = ⟨g.q, W2 g.q, H2 g.q, across g.q, down g.q⟩) ∧
  (∀ (n : Nat) (s : State) (c : Cmd) (t : Task) (r : Ring) (p : Picture), command s n = some c → fget? s.tasks c.task = some t →
    t.ctl.running = true → c.st = .running → s.mem.sramErr = [] → c.opcode = 0x20 → c.vals ≠ [] →
    fget? t.rings (bitsOf c 2 37 5) = some r → c.picture = .ok p →
    let g := c.grid p.w p.h
    let broken : Prop := p.whole = false ∧ min (Config.codedPatches c.vals (c.pack.map (·.toNat))) (c.patchesWhole g p) ≤ c.elem
    let a := r.base + r.ip.toNat % r.count * 2 ^ r.e
    let P := c.side
    let z := if bitsOf c 2 44 2 = 0 then 2 else 1
    let F : FpFmt := if bitsOf c 2 44 2 = 0 then .bf16 else .e4m3
    let C := if p.sampling = 0 then 1 else 3
    let x := c.elem % g.gw
    let y := c.elem / g.gw
    let place := x + 2 ^ 16 * y + 2 ^ 32 * min P (g.w2 - x * P) + 2 ^ 48 * min P (g.h2 - y * P) + 2 ^ 64 * c.elem + 2 ^ 96 * g.gw + 2 ^ 112 * g.gh
    let last : Prop := c.total ≤ c.elem + 1
    (broken → Completes (.idecPatchPublish n) s (settled s { c with st := .done, status := 9 })) ∧
    (¬ broken → r.count ≤ (r.ip - r.c).toNat → Completes (.idecPatchPublish n) s s) ∧
    (¬ broken → (r.ip - r.c).toNat < r.count → ∃ (m : State) (V : Nat), Completes (.idecPatchPublish n) s m ∧
      m = { settled s { advanced c with status := if p.whole = false ∧ last then 9 else c.status } with
        tasks := finsert s.tasks t.id.uid (produced t (bitsOf c 2 37 5) r)
        mem := { s.mem with sram := m.mem.sram } } ∧
      m.mem.sram = wrNat (wrNat s.mem.sram (2 ^ 27 * c.die + a) (P * P * C * z) V) (2 ^ 27 * c.die + (a + 2 ^ r.e - 16)) 16 place ∧
      ∀ yy < P, ∀ xx < P, ∀ ch < C, V / 2 ^ (8 * z * ((yy * P + xx) * C + ch)) % 2 ^ (8 * z) =
        if x * P + xx < g.w2 ∧ y * P + yy < g.h2 then (rne (.fin (meanOver p g.q (x * P + xx) (y * P + yy) ch) false) F).1 else 0))

/-- R258 to R265: the elements of the lookup commands: the selection record and its softmax weights, the weighted sum of the selected rows into
shared SRAM or into the ring entry at IP, the gradients of the backward pass, and the merged pairs in index order. An index beyond the
table is dropped and counted. -/
def Sys2Proof.Spec.LookupElements : Prop :=
  ∀ (n : Nat) (s : State) (c : Cmd) (f : FmtE), Runs s n c → c.opcode / 16 = 5 →
    let b := bitsOf c
    let i := c.elem
    let word (a : Nat) : Nat := wordAt s c a
    let yields (x : State) (c' : Cmd) : Prop := Completes (.engineElementPerform n) s (settled x (advanced c'))
    let K := b 0 31 7
    let H := b 0 38 5
    let D := b 0 16 12
    (c.op = .pksel f →
      let N := b 0 0 13
      let K1 := b 0 24 7
      let popped (u : Nat) : Nat := elt (fget (c.rows.getD (u / 8192) []) 0 (u % 8192 / 256)) (u % 256 / 16) (u % 16)
      let queue := b 0 43 1 = 1
      let S1 (k : Nat) : Nat := if queue then popped (i * 2 * N + k) else word (b 1 32 32 + 4 * (i * N + k))
      let S2 (k : Nat) : Nat := if queue then popped ((i * 2 + 1) * N + k) else word (b 1 0 32 + 4 * (i * N + k))
      (queue → 8192 * c.rows.length < (i + 1) * 2 * N → Completes (.engineElementPerform n) s s) ∧
      ((queue → (i + 1) * 2 * N ≤ 8192 * c.rows.length) → K1 ≤ N → K ≤ K1 * K1 → ∃ P, Selected N K1 K S1 S2 P ∧
        let W := weights (b 2 0 32) (P.map (·.1))
        yields (s.sramWr c.die (b 2 32 32 + 8 * i * K) (8 * K) (wordsOf ((P.zip W).flatMap (fun x => [x.1.2, x.2]))))
          { c with bad := c.bad + W.countP unbounded })) ∧
    (c.op = .pkfwd f → (s.bufEntry c.ctx (b 0 0 12)).remote = false →
      let N := b 2 32 13
      let R := rowBytes (b 0 12 2) D
      let ents := ((List.range (H * K)).map (fun u => (word (b 2 0 32 + 8 * (i * (H * K) + u)), word (b 2 0 32 + 8 * (i * (H * K) + u) + 4)))).filter
        (fun e => decide (e.1 < N * N))
      let place (e : Nat × Nat) : Nat := packOf c 1 + e.1 * R
      (∀ e ∈ ents, s.portErr c.die c.ctx (b 0 0 12) (place e) R false = none) →
      let out := (List.range D).map (fun x => stackedSum
        (ents.map (fun e => (e.2, s.bufRd c.die c.ctx (b 0 0 12) (place e) R, stackAt s c (b 0 0 12) (place e))))
        (fun row => rowValue (b 0 12 2) (b 0 14 1) row x))
      let s' := s.fetched c (ents.map (fun e => (b 0 0 12, place e, R)))
      let counted : Cmd := { c with bad := c.bad + out.countP unbounded, dropped := c.dropped + (H * K - ents.length) }
      (b 3 5 1 = 0 → yields (s'.sramWr c.die (b 3 32 32 + 4 * i * D) (4 * D) (wordsOf out)) counted) ∧
      (b 3 5 1 = 1 → Completes (.engineElementPerform n) s s ∧
        ∀ t r, fget? s.tasks c.task = some t → t.ctl.running = true → fget? t.rings (b 3 0 5) = some r →
          (r.count ≤ (r.ip - r.c).toNat → Completes (.pkfwdRingOutput n) s s) ∧
          ((r.ip - r.c).toNat < r.count → Completes (.pkfwdRingOutput n) s (settled
            { s'.sramWr c.die (r.base + r.ip.toNat % r.count * 2 ^ r.e) (4 * D) (wordsOf out) with
              tasks := finsert s.tasks t.id.uid (produced t (b 3 0 5) r) } (advanced counted))))) ∧
    (c.op = .pkbwd f → (s.bufEntry c.ctx (b 0 0 12)).remote = false → (b 5 12 1 = 1 → (s.bufEntry c.ctx (b 5 0 12)).remote = false) →
      let N := b 2 32 13
      let R := rowBytes (b 0 12 2) D
      let C (u : Nat) : Nat := word (b 2 0 32 + 8 * (i * K + u))
      let w (u : Nat) : Nat := word (b 2 0 32 + 8 * (i * K + u) + 4)
      let dout (e : Nat) : Nat := word (b 3 32 32 + 4 * (i / H) * D + 4 * e)
      let good := (List.range K).filter (fun u => decide (C u < N * N))
      let place (u : Nat) : Nat := packOf c 1 + C u * R
      (∀ u ∈ good, s.portErr c.die c.ctx (b 0 0 12) (place u) R false = none) →
      let row (u : Nat) : Nat := s.bufRd c.die c.ctx (b 0 0 12) (place u) R
      let d (u : Nat) : Nat := if C u < N * N
        then (List.range D).foldl (fun a e => fused32 (dout e) (rowValue (b 0 12 2) (b 0 14 1) (row u) e) a) 0 else 0
      let T := (List.range K).foldl (fun a u => fused32 (w u) (d u) a) 0
      let ds (u : Nat) : Nat := round32 (mulRv (dec .fp32 (w u)) (addRv (dec .fp32 (d u)) (negRv (dec .fp32 T)) false).1).1
      let gradient (key : Nat → Nat) : List Nat := (List.range N).map (fun k =>
        (good.filter (fun u => key (C u) == k)).foldl (fun a u => plus32 a (ds u)) 0)
      let work := (List.range K).flatMap (fun u => [d u, ds u])
      let g1 := gradient (· / N)
      let g2 := gradient (· % N)
      let adds := if b 5 12 1 = 1 then good.flatMap (fun u => (List.range D).map (fun e => (packOf c 6 + 4 * (C u * D + e), times32 (w u) (dout e)))) else []
      let s' := s.fetched c (good.map (fun u => (b 0 0 12, place u, R)))
      yields ((({ s' with eng := { s'.eng with adds := s'.eng.adds ++ adds.map (fun x : Nat × Nat =>
            (⟨c.id, c.task, c.taskid, c.head, c.ctx, c.die, c.pos, c.addr, b 5 0 12, x.1, BitVec.ofNat 32 x.2, i, false⟩ : RfAdd)) } }.sramWr c.die
          (b 4 0 32 + 8 * i * K) (8 * K) (wordsOf work)).sramWr c.die (b 3 0 32 + 4 * i * N) (4 * N) (wordsOf g1)).sramWr c.die
          (b 4 32 32 + 4 * i * N) (4 * N) (wordsOf g2))
        { c with bad := c.bad + (work ++ g1 ++ g2 ++ adds.map (·.2)).countP unbounded, dropped := c.dropped + (K - good.length) }) ∧
    (c.op = .pkmrg f →
      let count := b 0 32 32
      let index (k : Nat) : Nat := word (b 1 32 32 + 4 * k)
      let value (k e : Nat) : Nat := word (b 1 0 32 + 4 * (k * D + e))
      let merged (v e : Nat) : Nat := match ((List.range count).filter (fun k => index k == v)).map (fun k => value k e) with
        | [] => 0
        | x :: rest => rest.foldl plus32 x
      (c.vals = [] → ∃ keys : List Nat, keys.Pairwise (· < ·) ∧ (∀ v, v ∈ keys ↔ ∃ k < count, index k = v) ∧
        Completes (.engineElementPerform n) s (putCmd s
          { c with vals := keys.length :: keys.flatMap (fun v => v :: (List.range D).map (merged v)) })) ∧
      (∀ U rest, c.vals = U :: rest →
        let ent := (rest.drop (i * (D + 1))).take (D + 1)
        let s1 := if i < U then (s.sramWr c.die (b 2 32 32 + 4 * i) 4 (ent.headD 0)).sramWr c.die (b 2 0 32 + 4 * i * D) (4 * D) (wordsOf ent.tail)
          else s
        yields (if i + 1 = c.total then s1.sramWr c.die (b 3 32 32) 4 U else s1)
          { c with bad := c.bad + if i < U then ent.tail.countP unbounded else 0 }))

/-- R219, R252: a guard of 0 keeps `nmopt` waiting, 1 lets it start, 2 skips it and any other value is PARAM; the guard is a word of 32 bits (log
entry 19). An accepted addition performs once, after every earlier one to its word; the port's checks are made then, and a fault holds
or drops it (log entry 20). -/
def Sys2Proof.Spec.GuardsAndAdditions : Prop :=
  (∀ (n : Nat) (s : State) (c : Cmd), command s n = some c →
    let guard := (c.xbuf, packOf c 6, 4)
    (¬ waitsForGuard c → Completes (.nmoptGuardRead n) s s) ∧
    (waitsForGuard c → ∀ v k, s.fetch c [guard] = .vals [(v, k)] →
      let x := s.fetched c [guard]
      (v = 0 → Completes (.nmoptGuardRead n) s { x with out := x.out.filter (fun o => o.cmd != c.id) }) ∧
      (v = 1 → Completes (.nmoptGuardRead n) s { putCmd x { c with vals := c.vals ++ [1], st := if c.total = 0 then .done else .running } with
        out := x.out.filter (fun o => o.cmd != c.id) }) ∧
      (v = 2 → Completes (.nmoptGuardRead n) s (settled x { c with st := .done, status := 11 })) ∧
      (2 < v → Completes (.nmoptGuardRead n) s (settled x { c with st := .done, status := 5 })))) ∧
  (∀ (n : Nat) (s : State) (a : RfAdd), s.eng.adds[n]? = some a →
    let i : Instr := .returnFreeAddPerform n
    let earlier : Prop := ∃ b ∈ s.eng.adds.take n, b.ctx = a.ctx ∧ b.buf = a.buf ∧ b.off = a.off
    (a.held = true ∨ earlier → Completes i s s) ∧
    (a.held = false → ¬ earlier → s.atomicErr a.die a.ctx a.buf a.off 4 = none →
      let x := s.bufPut a.die a.ctx a.buf a.off 4 (plus32 (s.bufRd a.die a.ctx a.buf a.off 4) a.val.toNat) true
      Completes i s { x with eng := { x.eng with adds := s.eng.adds.eraseIdx n } }) ∧
    (a.held = false → ¬ earlier → ∀ e, s.atomicErr a.die a.ctx a.buf a.off 4 = some e → ∃ x, Completes i s x ∧ x.mem.hbm = s.mem.hbm ∧
      (e.kind = 5 ∨ e.kind = 7 → x.eng = { s.eng with adds := s.eng.adds.set n { a with held := true }, tlb := x.eng.tlb } ∧ x.ctxs = s.ctxs ∧
        (∀ u ∈ s.eng.tlb, u ∈ x.eng.tlb) ∧
        ((s.bufEntry a.ctx a.buf).remote = false → ∃ u ∈ x.eng.tlb, u.die = a.die ∧ u.ctx = a.ctx ∧ u.buf = a.buf)) ∧
      (e.kind ≠ 5 ∧ e.kind ≠ 7 → x.eng = { s.eng with adds := s.eng.adds.eraseIdx n } ∧ (x.ctx a.ctx).ffault.isSome)))

/-- R174, R175, R288, R338, R346: a held allocation failure traps before the next issue, outside trap mode, lowest position first, once no result
due waits for its load; the results due land. A task without a handler ends its context by it, and the record names the instance and its
buffer (ARR and POS: log entry 53). -/
def Sys2Proof.Spec.AllocationTraps : Prop :=
  ∀ (head : Nat) (s : State) (t : Task) (a : AllocTrap) (before after : List AllocTrap), At s head t → t.allocs = before ++ a :: after →
    (∀ x ∈ before, a.pos < x.pos) → (∀ x ∈ after, a.pos ≤ x.pos) → t.errs = [] →
    let i : Instr := .allocTrapTake head
    let waits : Prop := t.sys.tm = true ∨ t.ctl.ending = true ∨ t.ctl.halted = true ∨ (s.ctx t.id.ctx).ffault.isSome ∨ s.part.stopped = true ∨
      ∃ h ∈ t.held, due t h ∧ h.pend.isSome
    let u : Task := { t.land with
      allocs := before ++ after
      ctl := { t.ctl with waiting := .none, yieldable := false, early := none } }
    (waits → Completes i s s) ∧
    (¬ waits → t.prog.hdr.trapv = true → ∃ x : State, Completes i s x ∧ x = { s with
        ctxs := x.ctxs
        tasks := finsert s.tasks t.id.uid { u with
          sys := { t.sys with cause := 0x2A8, tval := a.tval, fmask := 0, epc := BitVec.ofNat 64 t.ctl.pc, tm := true }
          ctl := { u.ctl with pc := t.prog.hdr.trapvec } } }) ∧
    (¬ waits → t.prog.hdr.trapv = false → ∃ x : State, Completes i s x ∧ x = { s with
        ctxs := x.ctxs
        tasks := finsert s.tasks t.id.uid u } ∧
      (x.ctx t.id.ctx).ffault = some ⟨0x2A8, dieOf t a.pos, t.id.head + a.pos, a.pos, 0xFF, 0xFF, t.id.taskid % 2 ^ 32, t.ctl.pc, a.tval.toNat,
        a.buf, 0, a.tval.toNat % 2 ^ 24⟩)

/-- R284, R287: a die acknowledges a shoot-down once no element of the volume is under way on it, and drops its entries; the last
acknowledgement ends the command, and that of an INIT makes the buffer a volume, unless it has been replaced since (R275). An element that
waits for a handler's `vxpool` does not hold that `vxpool` back (log entry 67). -/
def Sys2Proof.Spec.ShootDowns : Prop :=
  ∀ (die n : Nat) (s : State) (c : Cmd), command s n = some c →
    let i : Instr := .shootdownAck die n
    let v := c.vol
    let busy : Prop := ∃ d ∈ s.eng.cmds, d.die = die ∧ d.opcode / 16 = 6 ∧ hasStart d.op = true ∧ d.vals ≠ [] ∧ s.volOf d = v ∧
      ¬ (c.opcode = 0x65 ∧ c.handler = true ∧ c.task = d.task ∧ d.st = .allocWait)
    let cleared : Engines := { s.eng with look := s.eng.look.filter (fun e => e.die != die || s.volKey e.ctx e.buf != v) }
    (c.st ≠ .shooting ∨ 24 ≤ die ∨ die ∈ c.acks ∨ busy → Completes i s s) ∧
    (c.st = .shooting → die < 24 → die ∉ c.acks → ¬ busy →
      (c.acks.length < 23 → Completes i s (putCmd { s with eng := cleared } { c with acks := die :: c.acks })) ∧
      (23 ≤ c.acks.length → (∀ f, c.op ≠ .vxpoolInit f) →
        Completes i s (putCmd { s with eng := cleared } { c with acks := [], st := .done })) ∧
      (∀ f, 23 ≤ c.acks.length → c.op = .vxpoolInit f → c.vals = [] →
        Completes i s (putCmd { s with eng := cleared } { c with acks := [], st := .done })) ∧
      (∀ f, 23 ≤ c.acks.length → c.op = .vxpoolInit f → c.vals ≠ [] →
        Completes i s { putCmd { s with eng := cleared } { c with acks := [], st := .done } with
          ctxs := finsert s.ctxs v.1 { s.ctx v.1 with volInit := finsert (s.ctx v.1).volInit v.2 1 } }))

namespace Sys2Proof.Spec

/-- Field of a volume descriptor: offset and bytes (R275). -/
def volField (img off n : Nat) : Nat := img / 2 ^ (8 * off) % 2 ^ (8 * n)
/-- Bytes of an element (R273). -/
def volElem (img : Nat) : Nat :=
  let fmt := volField img 4 1
  volField img 5 1 * (if fmt = 2 ∨ fmt = 8 then 4 else if fmt = 9 ∨ fmt = 10 then 2 else 1)
/-- FMT is accepted, and `T` is the tile stride (R273). -/
def volLayout (img T : Nat) : Prop :=
  volField img 4 1 ∈ [0, 2, 4, 8, 9, 10, 11, 12] ∧ 1 ≤ volField img 5 1 ∧ volField img 5 1 ≤ 16 ∧
  (∃ k, T = 2 ^ k) ∧ 512 * volElem img ≤ T ∧ (512 < T → T < 2 * (512 * volElem img))
/-- Where a tile's element at a coordinate lies (R273). -/
def volAt (img T tile x y z : Nat) : Nat := volField img 0x28 8 + T * tile + (z % 8 * 64 + y % 8 * 8 + x % 8) * volElem img
/-- The pointers a walk meets from node `n` of level `l` down: level, place, pointer (R272, R281). -/
def volPath (s : State) (c : Cmd) (img x y z : Nat) : Nat → Nat → List (Nat × Nat × Nat)
  | 0, _ => []
  | l + 1, n =>
    let k := z / 8 ^ (l + 1) % 8 * 64 + y / 8 ^ (l + 1) % 8 * 8 + x / 8 ^ (l + 1) % 8
    let a := volField img 0x20 8 + 4096 * n + 8 * k
    let p := s.bufRd c.die c.ctx (bitsOf c 0 0 12) a 8
    (l + 1, a, p) :: if p = 0 then [] else volPath s c img x y z l (p % 2 ^ 32)
/-- A pointer of level `l` keeps the table of R274. -/
def volPointer (img l p : Nat) : Prop :=
  p = 0 ∨ (p.testBit 63 = true ∧ p.testBit 62 = decide (l = 1) ∧ p / 2 ^ 32 % 2 ^ 30 = 0 ∧
    p % 2 ^ 32 < if l = 1 then volField img 0x18 4 else volField img 0x14 4)
/-- Free list of nodes or tiles: its counter, its numbers, its size (R276). -/
def volList (img : Nat) (node : Bool) : Nat × Nat × Nat :=
  if node then (8, volField img 0x30 8, volField img 0x14 4) else (0, volField img 0x38 8, volField img 0x18 4)
/-- A number pushed on a free list; a full one drops it (R276). -/
def volPushed (s : State) (c : Cmd) (img : Nat) (node : Bool) (num : Nat) : State :=
  let l := volList img node
  let buf := bitsOf c 0 0 12
  let m := s.bufRd c.die c.ctx buf l.1 8
  if l.2.2 ≤ m then s else (s.bufPut c.die c.ctx buf (l.2.1 + 4 * m) 4 num true).bufPut c.die c.ctx buf l.1 8 (m + 1) true
/-- One channel of VXADD (R280). -/
def volSum (fmt a b : Nat) : Nat :=
  if fmt = 2 then (a + b) % 2 ^ 32 else (round (addRv (dec (typeFmt fmt) a) (dec (typeFmt fmt) b) false).1 (typeFmt fmt) .rne false false).1
/-- VXADD, channel by channel (R280). -/
def volAdd (img a b : Nat) : Nat :=
  let ch := volField img 5 1
  let w := 8 * (volElem img / ch)
  ((List.range ch).map (fun i => volSum (volField img 4 1) (a / 2 ^ (w * i) % 2 ^ w) (b / 2 ^ (w * i) % 2 ^ w) * 2 ^ (w * i))).sum

/-- R279 to R281, R288: what the walk of a coordinate from node `n` of level `l` down comes to in state `y`: a tile, whose element is read or
written; an empty pointer, which gives a read BG and makes a write pop and fill a child, or stop when the list is empty. The numbers
under which a popped child waits, and the three steps of allocation, publication and access, are the model's (log entry 62). -/
def volComesTo (done : State → Prop) (y : State) (c : Cmd) (img T x u z n l : Nat) : Prop :=
  let buf := bitsOf c 0 0 12
  let E := volElem img
  let data := packOf c 1 % 2 ^ 32 + c.elem * E
  let free : Cmd := { c with vals := [] }
  let path := volPath y c img x u z l n
  let get : Prop := ∃ f, c.op = .vxget f
  let held (w : State) (L : List LookEntry) : State := { w with eng := { w.eng with look := L } }
  let at_ (tile : Nat) : Prop :=
    let a := volAt img T tile x u z
    let old := y.bufRd c.die c.ctx buf a E
    let new := rdNat y.mem.sram (2 ^ 27 * c.die + data) E
    (get → y.portErr c.die c.ctx buf a E false = none →
      ∃ L, done (settled (((held y L).portTouch c.die c.ctx buf a E).sramWr c.die data E old) (advanced free))) ∧
    (y.atomicErr c.die c.ctx buf a E = none →
      (∀ f, c.op = .vxput f → ∃ L, done (settled ((held y L).bufPut c.die c.ctx buf a E new true) (advanced free))) ∧
      (∀ f, c.op = .vxadd f → ∃ L, done (settled ((held y L).bufPut c.die c.ctx buf a E (volAdd img old new) true) (advanced free))))
  (∀ e ∈ path, y.portErr c.die c.ctx buf e.2.1 8 false = none ∧ volPointer img e.1 e.2.2) →
    (l = 0 → at_ n) ∧
    (∀ k a p, path.getLast? = some (k, a, p) →
      (p ≠ 0 → at_ (p % 2 ^ 32)) ∧
      (p = 0 → get → ∃ L, done (settled ((held y L).sramWr c.die data E (volField img 0x40 64)) (advanced free))) ∧
      (p = 0 → ¬ get →
        let node : Bool := decide (1 < k)
        let li := volList img node
        let m := y.bufRd c.die c.ctx buf li.1 8
        y.atomicErr c.die c.ctx buf li.1 8 = none →
        (m = 0 → bitsOf c 0 12 1 = 0 → done (settled y { free with st := .done, status := 12 })) ∧
        (m = 0 → bitsOf c 0 12 1 = 1 → ∀ t, fget? y.tasks c.task = some t → t.id.uid = c.task → t.ctl.running = true →
          done { putCmd y { c with vals := [1], st := .allocWait } with
            tasks := finsert y.tasks c.task { t with allocs := t.allocs ++ [⟨some c.id, c.pos,
              BitVec.ofNat 64 ((if node then 2 ^ 36 else 0) + c.pos * 2 ^ 30 + c.slot * 2 ^ 24 + c.elem), buf⟩] } }) ∧
        (0 < m → y.atomicErr c.die c.ctx buf (li.2.1 + 4 * (m - 1)) 4 = none →
          let num := y.bufRd c.die c.ctx buf (li.2.1 + 4 * (m - 1)) 4
          let area := if node then (volField img 0x20 8 + 4096 * num, 4096) else (volField img 0x28 8 + T * num, 512 * E)
          let less := y.bufPut c.die c.ctx buf li.1 8 (m - 1) true
          y.atomicErr c.die c.ctx buf area.1 area.2 = none →
          done (putCmd (if node then less.bufPut c.die c.ctx buf area.1 4096 0 true
              else (List.range 512).foldl (fun w e => w.bufPut c.die c.ctx buf (area.1 + e * E) E (volField img 0x40 64) true) less)
            { c with vals := [img, x, u, z, k, a, num] }))))

end Sys2Proof.Spec

open Sys2Proof Sys2Proof.Machine Sys2Proof.Spec

/-- R272 to R276, R279 to R283, R288: an element of `vxget`, `vxput` and `vxadd` on a volume of this module. Outside the volume a read
gives BG and a write counts a drop, as does a write begun under static MODE. Without a look-aside entry it walks from ROOT. A child that
waits is published where its pointer is still empty, once no die says that the place is empty; else it goes back, RACES counts it, and the
walk goes on (steps: log entry 62). An element reads its descriptor first. -/
def Sys2Proof.Spec.VolumeAccesses : Prop :=
  ∀ (n : Nat) (s : State) (c : Cmd) (f : FmtE) (T : Nat), Runs s n c → entrySound s c → c.opcode / 16 = 6 →
    c.op = .vxget f ∨ c.op = .vxput f ∨ c.op = .vxadd f →
    let buf := bitsOf c 0 0 12
    let done (t : State) : Prop := Completes (.engineElementPerform n) s t
    let data (img : Nat) : Nat := packOf c 1 % 2 ^ 32 + c.elem * volElem img
    let img := s.devRd ((s.useEntry c.ctx buf).addr + 0x80) 128
    let w (k : Nat) : Int := (BitVec.ofNat 32 (wordAt s c (packOf c 1 / 2 ^ 32 + 12 * c.elem + 4 * k))).toInt
    let inside : Prop := ∀ k < 3, 0 ≤ w k ∧ w k < (volField img (8 + 4 * k) 4 : Int)
    let x := (w 0).toNat
    let y := (w 1).toNat
    let z := (w 2).toNat
    let dropped : Prop := s.atomicErr c.die c.ctx buf 0x10 8 = none →
      done (settled (s.bufPut c.die c.ctx buf 0x10 8 ((s.bufRd c.die c.ctx buf 0x10 8 + 1) % 2 ^ 64) true) (advanced c))
    let seen := s.eng.look.find? (fun e => e.die == c.die && e.ctx == c.ctx && e.buf == buf && e.x == x / 8 && e.y == y / 8 && e.z == z / 8)
    (c.vals = [] → volLayout img T →
      (¬ inside → c.op = .vxget f → done (settled (s.sramWr c.die (data img) (volElem img) (volField img 0x40 64)) (advanced c))) ∧
      (¬ inside → c.op ≠ .vxget f → dropped) ∧
      (inside → c.op ≠ .vxget f → volField img 6 1 = 0 → dropped) ∧
      (inside → c.op = .vxget f ∨ volField img 6 1 = 1 →
        (seen = none → volComesTo done s c img T x y z (volField img 0 4) 5) ∧
        (∀ e t, seen = some e → e.tile = some t → (∀ d ∈ s.eng.cmds, d.shootPending = false) → volComesTo done s c img T x y z t 0))) ∧
    (∀ img x y z l a num, c.vals = [img, x, y, z, l, a, num] → 1 ≤ l → volLayout img T → c.op ≠ .vxget f →
      s.atomicErr c.die c.ctx buf a 8 = none →
      let q := s.bufRd c.die c.ctx buf a 8
      let put := s.bufPut c.die c.ctx buf a 8 (2 ^ 63 + (if l = 1 then 2 ^ 62 else 0) + num) true
      (q = 0 → volComesTo done { put with eng := { put.eng with look := put.eng.look.filter (fun e => e.tile.isSome ||
        put.volKey e.ctx e.buf != put.volKey c.ctx buf) } } c img T x y z num (l - 1)) ∧
      (q ≠ 0 → volPointer img l q →
        let node : Bool := decide (1 < l)
        let li := volList img node
        let m := s.bufRd c.die c.ctx buf li.1 8
        let back := volPushed s c img node num
        s.atomicErr c.die c.ctx buf li.1 8 = none → (m < li.2.2 → s.atomicErr c.die c.ctx buf (li.2.1 + 4 * m) 4 = none) →
        s.atomicErr c.die c.ctx buf 0x18 8 = none →
        volComesTo done (back.bufPut c.die c.ctx buf 0x18 8 ((back.bufRd c.die c.ctx buf 0x18 8 + 1) % 2 ^ 64) true) c img T x y z
          (q % 2 ^ 32) (l - 1)))

/-- R276, R284, R286, R287: an entry of `vxinv` empties the leaf's pointer and gives its tile number, or 0xFFFFFFFF; one of `vxtile` is
pushed unless its number is none of the volume's; `vxpool` pushes from the highest number down, INIT installs its image, a zero control
block and an empty root. After the last entry of `vxinv` MODE changes, if the owner check passes (R323); it and INIT send their
shoot-downs. -/
def Sys2Proof.Spec.VolumePools : Prop :=
  ∀ (n : Nat) (s : State) (c : Cmd) (f : FmtE), Runs s n c → entrySound s c → c.opcode / 16 = 6 →
    let buf := bitsOf c 0 0 12
    let at_ := (s.useEntry c.ctx buf).addr + 0x80
    let img := s.devRd at_ 128
    let done (t : State) : Prop := Completes (.engineElementPerform n) s t
    let last : Prop := c.total ≤ c.elem + 1 ∧ c.status = 0
    let shooting : Cmd := { advanced c with st := .shooting, acks := [] }
    let pushes (node : Bool) (num : Nat) : Prop :=
      let li := volList img node
      let m := s.bufRd c.die c.ctx buf li.1 8
      s.atomicErr c.die c.ctx buf li.1 8 = none → (m < li.2.2 → s.atomicErr c.die c.ctx buf (li.2.1 + 4 * m) 4 = none) →
        done (settled (volPushed s c img node num) (advanced c))
    (c.op = .vxinv f →
      let w (k : Nat) : Int := (BitVec.ofNat 32 (wordAt s c (packOf c 1 / 2 ^ 32 + 12 * c.elem + 4 * k))).toInt
      let inside : Prop := ∀ k < 3, 0 ≤ w k ∧ w k < (volField img (8 + 4 * k) 4 : Int)
      let path := volPath s c img (w 0).toNat (w 1).toNat (w 2).toNat 5 (volField img 0 4)
      let finish (y : State) : Prop :=
        (¬ last → done (settled y (advanced c))) ∧
        (last → bitsOf c 0 13 1 = 0 → done (settled y shooting)) ∧
        (last → bitsOf c 0 13 1 = 1 → entrySound y c → OwnerHolds y c →
          done (settled (y.devWr ((y.useEntry c.ctx buf).addr + 0x86) 1 (bitsOf c 0 14 1)) shooting)) ∧
        (last → bitsOf c 0 13 1 = 1 → entrySound y c → ¬ OwnerHolds y c → ∃ t : State, done t ∧ (t.ctx c.ctx).ffault.isSome = true)
      let gives (y : State) (v : Nat) : State := y.sramWr c.die (packOf c 1 % 2 ^ 32 + 4 * c.elem) 4 v
      (¬ inside → finish (gives s 0xFFFFFFFF)) ∧
      (inside → (∀ e ∈ path, s.portErr c.die c.ctx buf e.2.1 8 false = none ∧ volPointer img e.1 e.2.2) → ∀ l a p, path.getLast? = some (l, a, p) →
        (p = 0 → finish (gives s 0xFFFFFFFF)) ∧
        (p ≠ 0 → s.atomicErr c.die c.ctx buf a 8 = none → finish (gives (s.bufPut c.die c.ctx buf a 8 0 true) (p % 2 ^ 32))))) ∧
    (c.op = .vxtile f →
      let t := wordAt s c (packOf c 1 / 2 ^ 32 + 4 * c.elem)
      (volField img 0x18 4 ≤ t → done (settled s (advanced c))) ∧ (t < volField img 0x18 4 → pushes false t)) ∧
    (c.op = .vxpoolAddt f → pushes false (packOf c 1 / 2 ^ 32 + packOf c 1 % 2 ^ 32 - 1 - c.elem)) ∧
    (c.op = .vxpoolAddn f → pushes true (packOf c 1 / 2 ^ 32 + packOf c 1 % 2 ^ 32 - 1 - c.elem)) ∧
    (∀ v, c.op = .vxpoolInit f → c.vals.head? = some v →
      let root := volField v 0x20 8 + 4096 * volField v 0 4
      s.atomicErr c.die c.ctx buf 0 64 = none → s.atomicErr c.die c.ctx buf root 4096 = none →
      let y := ((s.devWr at_ 128 v).bufPut c.die c.ctx buf 0 64 0 true).bufPut c.die c.ctx buf root 4096 0 true
      (¬ last → done (settled y (advanced c))) ∧ (last → done (settled y shooting)))

/-- R228 to R230, R272 to R289: what ends a command, or an element of one: completion, allocation traps, shoot-downs, and the elements of
volumes. -/
def Obligations.EngineCommandsComplete : Prop :=
  CommandsComplete ∧ AllocationTraps ∧ ShootDowns ∧ VolumeAccesses ∧ VolumePools

/-- R219, R233, R241 to R245, R252, R258 to R265, R309: what the engines do beside starting and completing: rows and detaches, collectives,
image patches, lookup elements, guards and return-free additions. -/
def Obligations.EngineHandshakes : Prop := DrainRowsAndDetach ∧ CollectiveResults ∧ ImagePatches ∧ LookupElements ∧ GuardsAndAdditions

namespace Sys2Proof.Spec

/-- Tasks stand under their own numbers, each once, and no number is in use that Rambler has still to give out. -/
def TasksNumbered (s : State) : Prop :=
  (s.tasks.map (·.1)).Nodup ∧ ∀ e ∈ s.tasks, e.2.id.uid = e.1 ∧ e.1 < s.ram.nextTask

/-- Everything a task has committed has performed, in its cells, at its edges and in its rings, and no tile is busy (R131, R347). -/
def Drained (t : Task) : Prop :=
  t.flights = [] ∧ t.pubs = [] ∧ t.pstores = [] ∧ (∀ e ∈ t.pos, e.2.ld = [] ∧ e.2.st = []) ∧ ∀ e ∈ t.busy, e.2.1 ≤ t.ctl.cyc

/-- `s` with task `t` under its number. -/
def putT (s : State) (t : Task) : State := { s with tasks := finsert s.tasks t.id.uid t }

/-- Every other task that still runs has left the arrays of `t` (R300). -/
def WindowLeft (s : State) (t : Task) : Prop :=
  ∀ e ∈ s.tasks, e.1 ≠ t.id.uid → e.2.ctl.running = true → e.2.ctl.bound = true →
    t.id.head + t.prog.hdr.chain ≤ e.2.id.head ∨ e.2.id.head + e.2.prog.hdr.chain ≤ t.id.head

/-- The home's group of a system-level message (R309); `coll` tells collectives from barriers. -/
def homeGroup (s : State) (m : SysMsg) : BarGroup :=
  let k := if m.coll then 1 else 0
  (s.ram.sysGroups.find? (fun g => g.level == m.sdom && g.grp == m.group && g.die == k)).getD ⟨m.sdom, m.group, 0, 0, k, 0⟩

/-- A message of the same group as `m`. -/
def sameGroup (m x : SysMsg) : Bool := x.sdom == m.sdom && x.group == m.group && x.coll == m.coll

/-- `s` with the home's group put back. -/
def putHome (s : State) (g : BarGroup) (members done : List SysMsg) : State :=
  { s with ram := { s.ram with
      sysGroups := g :: s.ram.sysGroups.filter (fun h => h.level != g.level || h.grp != g.grp || h.die != g.die)
      sysMembers := members
      sysDone := done } }

/-- A reservation of a candidate of context `k`: a task of it, or a set of it (R301). -/
def reservedBy (s : State) (k : Nat) (r : Reservation) : Prop :=
  (r.cand.1 = 0 ∧ ∀ t, fget? s.tasks r.cand.2 = some t → t.id.ctx = k) ∨ (r.cand.1 ≠ 0 ∧ ∃ l ∈ s.ram.sets, l.id = r.cand.2 ∧ l.ctx = k)

/-- What the end of context `k` leaves (R320, R344): its tasks, commands, sets and reservations are gone and it lives no more; every other
context stands. An access to another module that is still on its way stays noted, for the route it holds (R370). -/
def ContextEnded (s x : State) (k : Nat) : Prop :=
  x.tasks = s.tasks.filter (fun e => e.2.id.ctx != k) ∧ x.eng.cmds = s.eng.cmds.filter (fun c => c.ctx != k) ∧
  (∀ l, l ∈ x.ram.sets ↔ l ∈ s.ram.sets ∧ l.ctx ≠ k ∧ ∀ d ∈ s.ram.sets, d.ctx = k → d.id ≠ l.id) ∧
  (∀ r, r ∈ x.ram.resv ↔ r ∈ s.ram.resv ∧ ¬ reservedBy s k r) ∧
  (∀ o, o ∈ x.out ↔ o ∈ s.out ∧ ((∀ c ∈ s.eng.cmds, c.ctx = k → c.id ≠ o.cmd) ∨ (o.answer = none ∧ o.access.toModule ≠ s.mod.modid))) ∧
  (x.ctx k).live = false ∧ (x.ctx k).queues = [] ∧ (x.ctx k).sems = [] ∧ (x.ctx k).groups = [] ∧ (x.ctx k).ffault = none ∧ (x.ctx k).migs = [] ∧
  (∀ j, j ≠ k → x.ctx j = s.ctx j) ∧ x.mod = s.mod ∧ x.part = s.part ∧ x.parts = s.parts ∧ x.route = s.route ∧ x.ports = s.ports

/-- The engine commands stand, but for an INIT in its shoot-down whose buffer is no longer the one it wrote: it will mark none (R275). -/
def CmdsStand (s x : State) : Prop :=
  x.eng.cmds.length = s.eng.cmds.length ∧ ∀ (i : Nat) (c d : Cmd), s.eng.cmds[i]? = some c → x.eng.cmds[i]? = some d →
    d = c ∨ (c.st = .shooting ∧ c.opcode = 0x65 ∧ d = { c with vals := [] })

/-- Sets stand under their own numbers. -/
def SetsNumbered (s : State) : Prop := (s.ram.sets.map (·.id)).Nodup ∧ ∀ l ∈ s.ram.sets, l.id < s.ram.nextSet

/-- Nothing stands between SCHEDULE and its candidates: no page migrates, every queue is mapped and `but` for one empty, every set admitted,
no task is ending or placed, tasks and sets stand under their own numbers, and no burst of HBM4E has an error. -/
def Quiet (s : State) (but : Nat → Nat → Prop) : Prop :=
  s.part.stopped = false ∧ s.mod.pstate = 0 ∧ s.mem.err = [] ∧ s.mem.poison = [] ∧ TasksNumbered s ∧ SetsNumbered s ∧
  (∀ l ∈ s.ram.sets, l.prog.isSome = true) ∧ (∀ e ∈ s.tasks, e.2.ctl.ending = false ∧ e.2.ctl.placed = false) ∧
  (s.ctxs.map (·.1)).Nodup ∧ ∀ e ∈ s.ctxs, e.2.migs = [] ∧ (e.2.queues.map (·.1)).Nodup ∧
    ∀ q ∈ e.2.queues, q.2.mapped = true ∧ (but e.1 q.1 ∨ q.2.headc = q.2.tail)

/-- Candidate `c` offers a task (R297, R303, R312): a pre-empted task itself, or the next index of an admitted set, less than 256 ahead of
the retired ones. -/
def Offers (s : State) (c : Cand) : Prop :=
  (∃ e ∈ s.tasks, let t := e.2
    t.ctl.bound = false ∧ t.ctl.halted = false ∧ (s.ctx t.id.ctx).ffault = none ∧ (t.id.poolSet = true ∨ s.isMapped t.id.ctx t.id.queue = true) ∧
    c = ⟨0, t.id.uid, t.id.ctx, t.id.queue, t.id.eprio, ((s.ram.sets.find? (fun l => l.id == t.id.set)).map (·.age)).getD t.ctl.age, t.id.idx,
      t.prog.hdr.chain, some t.id.head, 0, t.prog.hdr.imageSize, []⟩) ∨
  (∃ l ∈ s.ram.sets, ∃ p, l.prog = some p ∧ l.next < l.rec_.setsize ∧ l.next < l.retired + 256 ∧ (s.ctx l.ctx).ffault = none ∧
    ∃ kind, (match l.src with | .host _ => kind = 1 ∧ s.isMapped l.ctx l.queue = true | .pool .. => kind = 2) ∧
      c = ⟨kind, l.id, l.ctx, l.queue, s.eprio l.ctx l.queue, l.age, l.next, p.hdr.chain,
        if l.rec_.head = 0xFF then none else some (l.rec_.head + l.next * p.hdr.chain), p.hdr.stack, p.hdr.imageSize, p.hdr.rings⟩)

/-- Candidate `c` goes before `d` (R298): priority, age, round robin, and the ties within one queue. -/
def Before (s : State) (c d : Cand) : Prop :=
  let after (x : Cand) : Nat := match fget? s.ram.rr x.eprio with
    | none => 64 * x.ctx + x.queue
    | some (k, q) => (64 * x.ctx + x.queue + 4095 - (64 * k + q)) % 4096
  let tie (x : Cand) : Nat := if x.kind = 0 then x.age else x.key
  d.eprio < c.eprio ∨ d.eprio = c.eprio ∧ (c.age < d.age ∨ c.age = d.age ∧ (after c < after d ∨ after c = after d ∧
    (c.kind < d.kind ∨ c.kind = d.kind ∧ (tie c < tie d ∨ tie c = tie d ∧ c.idx < d.idx))))

/-- Task `t` is bound to an array of the `n` from `a` on. -/
def holdsSome (t : Task) (a n : Nat) : Bool := t.ctl.bound && decide (t.id.head < a + n ∧ a < t.id.head + t.prog.hdr.chain)

/-- How many arrays the tasks of context `k` that `keep` names are bound to. -/
def heldBy (s : State) (k : Nat) (keep : Task → Bool) : Nat :=
  ((List.range 48).filter (fun a => s.tasks.any (fun e => e.2.id.ctx == k && keep e.2 && holdsSome e.2 a 1))).length

/-- Start `a` serves candidate `c`, whoever holds the arrays: its head, the partitions of the dies, the room of its save area, its carve-out,
and no other candidate's reservation (R168, R298, R301, R316, R348). -/
def Serves (s : State) (c : Cand) (a : Nat) : Prop :=
  let entry := (s.ctx c.ctx).savebase + 16 * a
  let at_ := s.devRd entry 8
  let cap := s.devRd (entry + 8) 8
  let fn := s.fnb (s.ctx c.ctx).fn
  let part := s.partOf c.ctx (a / 2)
  a + c.len ≤ 48 ∧ (∀ h, c.fixed = some h → h = a) ∧
  (∀ i < c.len, (s.partOf c.ctx ((a + i) / 2)).ssbase < (s.partOf c.ctx ((a + i) / 2)).sslim) ∧
  (c.img ≠ 0 → c.img ≤ cap ∧ at_ ≠ 0 ∧ at_ / 2 ^ 36 = (at_ + cap - 1) / 2 ^ 36 ∧ fn.extBase ≤ at_ ∧ at_ + cap ≤ fn.extLim) ∧
  (c.kind ≠ 0 → c.stack ≠ 0 → ∃ b, b % 128 = 0 ∧ part.ssbase ≤ b ∧ b + c.stack ≤ part.sslim ∧
    ∀ g ∈ s.takenRanges c.ctx (a / 2), b + c.stack ≤ g.1 ∨ g.1 + g.2 ≤ b) ∧
  ∀ r ∈ s.ram.resv, r.cand ≠ (c.kind, c.key) → ∀ i < c.len, ¬ (r.first ≤ a + i ∧ a + i < r.first + r.len)

/-- The window from `a` on is free for `c` (FREEWIN of R298); its context stays within MAXARR (R316). -/
def FreeFor (s : State) (c : Cand) (a : Nat) : Prop :=
  Serves s c a ∧ (∀ e ∈ s.tasks, holdsSome e.2 a c.len = false) ∧ heldBy s c.ctx (fun _ => true) + c.len ≤ (s.ctx c.ctx).maxarr

/-- `c` may take the window from `a` on (TAKEWIN of R300). -/
def Takes (s : State) (c : Cand) (a : Nat) : Prop :=
  Serves s c a ∧ heldBy s c.ctx (fun t => !holdsSome t a c.len) + c.len ≤ (s.ctx c.ctx).maxarr ∧
  ∀ e ∈ s.tasks, holdsSome e.2 a c.len = true → e.2.ctl.running = true ∧ e.2.ctl.ending = false ∧
    (e.2.id.eprio < c.eprio ∨ e.2.id.eprio = c.eprio ∧ e.2.ctl.sliceDone = true ∨ e.2.ctl.yieldable = true ∧ s.stillWaits e.2 = true)

/-- `a` is the lowest number that meets `P`. -/
def Lowest (P : Nat → Prop) (a : Nat) : Prop := P a ∧ ∀ b < a, ¬ P b

/-- The task that `c` offers is bound to the arrays from `a` on: a task that resumes keeps its number, a set's next task is new and starts with
its launch record's arguments; it runs at once unless `wait` (R53, R63, R298, R300). -/
def BoundAt (s x : State) (c : Cand) (a : Nat) (wait : Bool) : Prop :=
  if c.kind = 0 then ∃ u, fget? x.tasks c.key = some u ∧ u.ctl.bound = true ∧ u.id.head = a ∧ u.ctl.imgBound = s.devRd ((s.ctx c.ctx).savebase + 16 * a) 8
  else ∃ u l p, fget? x.tasks s.ram.nextTask = some u ∧ l ∈ s.ram.sets ∧ l.id = c.key ∧ l.prog = some p ∧ u.prog = p ∧
    u.ctl.bound = true ∧ u.ctl.running = !wait ∧ u.ctl.placed = wait ∧ u.id.head = a ∧ u.id.ctx = c.ctx ∧ u.id.set = c.key ∧ u.id.idx = c.idx ∧
    u.id.setsize = l.rec_.setsize ∧ u.id.taskid = (s.ctx c.ctx).bound ∧ u.id.eprio = c.eprio ∧ u.ctl.pc = 0 ∧ u.ctl.bcnt = 0 ∧
    (∀ k, fget u.r.s 0 k = if k < 16 then l.rec_.args.getD k 0 else 0) ∧ (∀ k < 16, fget u.r.ft 0 k = p.hdr.ft.getD k 0)

/-- No array serves two tasks (R298, R300): tasks bound to one array are one that still runs there and one that waits for it to leave. -/
def ArraysApart (s : State) : Prop :=
  (∀ e ∈ s.tasks, (e.2.ctl.running = true → e.2.ctl.bound = true ∧ e.2.ctl.placed = false) ∧ (e.2.ctl.placed = true → e.2.ctl.bound = true)) ∧
  ∀ e ∈ s.tasks, ∀ d ∈ s.tasks, e.1 ≠ d.1 → e.2.ctl.bound = true → holdsSome d.2 e.2.id.head e.2.prog.hdr.chain = true →
    e.2.ctl.running ≠ d.2.ctl.running

/-- The 32 bytes of a fault record of context `k` as one number (R346). -/
def recordBytes (r : FaultRec) (k : Nat) : Nat :=
  let at_ (off size v : Nat) : Nat := v % 2 ^ (8 * size) * 2 ^ (8 * off)
  at_ 0 2 (r.cause % 2 ^ 10) + at_ 2 1 k + at_ 3 1 r.die + at_ 4 1 r.arr + at_ 5 1 r.pos + at_ 6 1 r.row + at_ 7 1 r.col + at_ 8 4 r.task +
  at_ 0xC 4 r.epc + at_ 0x10 8 r.tval + at_ 0x18 2 r.buf + at_ 0x1A 2 (r.fmask % 2 ^ 9) + at_ 0x1C 4 r.elem

/-- A wait graph has a cycle (R310). -/
def Cyclic (es : List (Nat × Nat)) : Prop := ∃ n, Relation.TransGen (fun a b => (a, b) ∈ es) n n

end Sys2Proof.Spec

open Sys2Proof Sys2Proof.Machine Sys2Proof.Spec

/-- R298, R300, R348, R359, R368, R374, R375: SCHEDULE counts a tick in every power state but P3, stopped or not; the junction stays below
105 °C, throttling 115 °C. In P0 it copies lines of migrating pages and may bind, stop or map, changing nothing else of a task that has
not ended. A tick is 1 µs (log entry 7), TEMP is free (42), what a SCHEDULE copies 24. -/
def Sys2Proof.Spec.ScheduleTicks : Prop :=
  ∀ s : State,
    let warm (T : Nat) : Prop := if s.part.stopped then T = s.mod.temp else T < if s.part.throttle then 115 else 105
    (s.mod.pstate = 3 → Completes .schedule s s) ∧
    (s.mod.pstate ≠ 3 → s.part.stopped = true ∨ s.mod.pstate ≠ 0 → ∃ T, warm T ∧
      Completes .schedule s { s with ram := { s.ram with tick := s.ram.tick + 1 }, mod := { s.mod with temp := T } }) ∧
    (s.part.stopped = false → s.mod.pstate = 0 → TasksNumbered s → ∃ x : State, Completes .schedule s x ∧
      x.ram.tick = s.ram.tick + 1 ∧ x.mod = { s.mod with temp := x.mod.temp } ∧ warm x.mod.temp ∧ x.part = s.part ∧ x.parts = s.parts ∧
      x.route = s.route ∧ x.ports = s.ports ∧ x.out = s.out ∧ CmdsStand s x ∧ x.cycle = s.cycle ∧ x.mem.ws = s.mem.ws ∧
      ∀ n t, fget? s.tasks n = some t → t.ctl.ending = false → ∃ u : Task, fget? x.tasks n = some u ∧
        u = { t with ctl := { t.ctl with
          bound := u.ctl.bound, stopReq := u.ctl.stopReq, sliceDone := u.ctl.sliceDone, yieldable := u.ctl.yieldable, imgBound := u.ctl.imgBound
          running := u.ctl.running, placed := u.ctl.placed, sliceAt := u.ctl.sliceAt, now := u.ctl.now } } ∧
        (t.ctl.bound = true → u.ctl.bound = true ∧ u.ctl.imgBound = t.ctl.imgBound) ∧
        (let start : Prop := u.ctl.running = true ∧ u.ctl.placed = false ∧ u.ctl.sliceAt = s.ram.tick + 1 ∧ u.ctl.now = s.cycle
         let same : Prop := u.ctl.running = t.ctl.running ∧ u.ctl.placed = t.ctl.placed ∧ u.ctl.sliceAt = t.ctl.sliceAt ∧ u.ctl.now = t.ctl.now
         (t.ctl.placed = false → same) ∧ (start ∨ same) ∧ (t.ctl.placed = true → WindowLeft s t → start)))

/-- R297, R298, R300, R301, R303: the first candidate takes the lowest free window, else the lowest whose holders yield and are asked to
stop, else, after 1 ms, the lowest reservation. No array comes to serve two tasks; none is dispatched 256 past the retired ones. -/
def Sys2Proof.Spec.CandidatesArePlaced : Prop :=
  (∀ s x : State, TasksNumbered s → SetsNumbered s → ArraysApart s → Completes .schedule s x → ArraysApart x) ∧
  (∀ s x : State, SetsNumbered s → (∀ l ∈ s.ram.sets, l.next ≤ l.retired + 256) → Completes .schedule s x → ∀ l ∈ x.ram.sets, l.next ≤ l.retired + 256) ∧
  ∀ (s : State) (c : Cand), Quiet s (fun _ _ => False) → Offers s c → 0 < c.len → (∀ d, Offers s d → d.eprio ≤ 3 ∧ (d = c ∨ Before s c d)) →
    ∃ x : State, Completes .schedule s x ∧
      (∀ a, Lowest (FreeFor s c) a → BoundAt s x c a false) ∧
      (∀ a, (∀ b, ¬ FreeFor s c b) → Lowest (Takes s c) a → BoundAt s x c a true ∧
        ∀ e ∈ s.tasks, holdsSome e.2 a c.len = true → ∃ u, fget? x.tasks e.1 = some u ∧ u.ctl.stopReq = true) ∧
      ((∃ a, FreeFor s c a ∨ Takes s c a) → (∀ r ∈ x.ram.resv, r.cand ≠ (c.kind, c.key) ∨ c.kind ≠ 0) ∧
        ((∀ d, Offers s d → d.eprio = c.eprio → d = c) → fget? x.ram.rr c.eprio = some (c.ctx, c.queue))) ∧
      ((∀ b, ¬ FreeFor s c b ∧ ¬ Takes s c b) →
        (if c.kind = 0 then ∀ u, fget? x.tasks c.key = some u → u.ctl.bound = false else ∀ l ∈ x.ram.sets, l.id = c.key → l.next = c.idx) ∧
        (s.ram.tick + 1 < c.age + 1000 → ∀ r ∈ x.ram.resv, r.cand = (c.kind, c.key) → r ∈ s.ram.resv) ∧
        (c.age + 1000 ≤ s.ram.tick + 1 → (∀ r ∈ s.ram.resv, r.cand ≠ (c.kind, c.key)) →
          ∀ a, Lowest (fun a => a + c.len ≤ 48 ∧ (∀ h, c.fixed = some h → h = a) ∧
              ∀ r ∈ s.ram.resv, ¬ (r.first < a + c.len ∧ a < r.first + r.len)) a → ⟨(c.kind, c.key), a, c.len⟩ ∈ x.ram.resv))

/-- R295, R296, R310, R386: the record of a mapped queue is admitted, its wait edges joining the graph; a bad record or program, a misfit,
or a cycle completes it with REJECT; one that cannot be read sets RDERR, one on an absent page is told of and waits. -/
def Sys2Proof.Spec.RecordsAreAdmitted : Prop :=
  ∀ (s : State) (k q : Nat) (y : Queue), Quiet s (fun a b => a = k ∧ b = q) → (s.ctx k).live = true → (k, s.ctx k) ∈ s.ctxs →
    fget? (s.ctx k).queues q = some y → y.headc ≠ y.tail → y.told = [] → q < 64 →
    (∀ l ∈ s.ram.sets, l.ctx = k → l.queue = q → (match l.src with | .host _ => False | .pool .. => True)) →
    let off := y.roff + 256 * (y.headc.toNat % 2 ^ y.log2n)
    let rec_ := readRecord (fun o n => s.bufRd y.home k y.rbuf (off + o) n)
    let edges (p : Program) : List (Nat × Nat) := (p.hdr.waits.filter (fun w => w.skind == 1)).map (fun w => (q, w.signaller))
    let graph : List (Nat × Nat) := (s.ram.edges.filter (fun e => e.1 == k)).map (fun e => (e.2.2.1, e.2.2.2))
    let fits (p : Program) : Prop := (s.makeBufs k p.hdr.bufs).isSome = true ∧ (rec_.head = 0xFF ∨ rec_.head + rec_.setsize * p.hdr.chain ≤ 48) ∧
      ¬ Cyclic (graph ++ edges p)
    let now (x : State) (z : Queue) : Prop := Completes .schedule s x ∧ fget? (x.ctx k).queues q = some z
    let passed (x : State) : Prop := ∃ z, now x z ∧ z.headc = y.headc + 1 ∧ z.mapped = true ∧ z.rderr = y.rderr
    let done (x : State) (z : Queue) : Prop := z.headc = y.headc + 1 ∧ (y.doneRecs = [] → y.cmpl = y.headc → z.cmpl = y.cmpl + 1) ∧
      (∀ l ∈ x.ram.sets, l.ctx = k → l.queue = q → match l.src with | .host _ => False | .pool .. => True) ∧
      x.mem = if (s.portErr y.home k y.rbuf (off + 0xA0) 8 true).isNone then (s.bufPut y.home k y.rbuf (off + 0xA0) 8 (1 + 2 ^ 31) true).mem else s.mem
    (∀ e ∈ graph, e.1 < 128 ∧ e.2 < 128) →
    (∀ e, s.portErr y.home k y.rbuf off 256 false = some e → ∃ x z, now x z ∧
      if e.kind = 5 then z.headc = y.headc ∧ z.told = [(y.rbuf, e.off)] else z.rderr = true ∧ done x z) ∧
    (s.portErr y.home k y.rbuf off 256 false = none → rec_.ok = false → ∃ x z, now x z ∧ z.rderr = y.rderr ∧ done x z) ∧
    (s.portErr y.home k y.rbuf off 256 false = none → rec_.ok = true → match s.loadProgram y.home k rec_.cbuf rec_.hoff with
      | .retry e => ∃ x z, now x z ∧ z.headc = y.headc ∧ z.told = [(rec_.cbuf, e.off)]
      | .reject => ∃ x z, now x z ∧ z.rderr = y.rderr ∧ done x z
      | .ok p => (∀ w ∈ p.hdr.waits, w.signaller < 128) →
        (¬ fits p → ∃ x z, now x z ∧ z.rderr = y.rderr ∧ done x z) ∧
        (fits p → ∃ x, passed x ∧ (∀ e ∈ edges p, (k, s.ram.nextSet, e.1, e.2) ∈ x.ram.edges) ∧ (∀ d ∈ p.hdr.sems, (fget? (x.ctx k).sems d.sem).isSome = true) ∧
          ∃ l ∈ x.ram.sets, l.id = s.ram.nextSet ∧ l.ctx = k ∧ l.queue = q ∧ l.src = .host y.headc.toNat ∧ l.rec_ = rec_ ∧ l.prog = some p ∧
            l.age = y.readyAt.getD (s.ram.tick + 1)))

/-- R300, R311, R347, R352: at its slice's end a task lets equals take its arrays; a wait of BQUANT (semw, bar, twait on an open
collective) makes it yieldable. Asked to stop, it leaves its arrays once drained: image written, errors corrected and counted for their
dies; an uncorrectable one ends the context. Private regions: log entry 14, the order of errors 25. -/
def Sys2Proof.Spec.TaskLeaves : Prop :=
  ∀ (head : Nat) (s : State) (t : Task), At s head t →
    (Completes (.timeSliceExpire head) s (if t.ctl.sliceAt + s.mod.tslice ≤ s.ram.tick then
        putT s { t with ctl := { t.ctl with
          sliceDone := true
          sliceAt := s.ram.tick
          stopReq := t.ctl.stopReq || s.ram.resv.any (fun r => r.cand != (0, t.id.uid) &&
            decide (r.first < t.id.head + t.prog.hdr.chain ∧ t.id.head < r.first + r.len)) } } else s)) ∧
    (t.ctl.waiting = .none → Completes (.blockingQuantumExpire head) s s) ∧
    (∀ n m w rest, t.ctl.waiting = .semw n → fget? (s.ctx t.id.ctx).sems n = some m → m.waiters = w :: rest →
      Completes (.blockingQuantumExpire head) s
        (if ¬ (w.1 = t.id.uid ∧ w.2 ≤ m.val) ∧ t.ctl.waitFrom + s.mod.bquant ≤ s.ram.tick
         then putT s { t with ctl := { t.ctl with yieldable := true } } else s)) ∧
    (∀ lvl gen, t.ctl.waiting = .bar → t.ctl.arrived = some (lvl, gen) → Completes (.blockingQuantumExpire head) s
      (if (if lvl = 3 then gen ≠ 1 ∧ gen ≠ 2 else ∃ g ∈ (s.ctx t.id.ctx).groups, g.level = lvl ∧ g.grp = t.id.dom.toNat / 2 ^ (16 * lvl) % 2 ^ 16 ∧ g.gen = gen) ∧
          t.ctl.waitFrom + s.mod.bquant ≤ s.ram.tick
       then putT s { t with ctl := { t.ctl with yieldable := true } } else s)) ∧
    (∀ g, t.ctl.waiting = .collective g → Completes (.blockingQuantumExpire head) s
      (if (∃ c ∈ s.eng.cmds, c.group = g ∧ c.opcode / 16 = 3 ∧ (c.st = .queued ∨ c.st = .running ∧
            if bitsOf c 4 46 2 = 3 then c.acks.headD 0 < 2 else ∃ k ∈ s.eng.colls, k.members.length < k.np ∧ ∃ m ∈ k.members, m.1 = c.id)) ∧
          t.ctl.waitFrom + s.mod.bquant ≤ s.ram.tick
       then putT s { t with ctl := { t.ctl with yieldable := true } } else s)) ∧
    (let ready : Prop := t.ctl.stopReq = true ∧ Drained t ∧ t.ctl.ending = false ∧ (s.ctx t.id.ctx).ffault = none
     let lostCell (c : Nat × Cell) : Prop := c ∈ t.cells ∧ ∃ e ∈ c.2.errs, e.hard = true
     let lostEdge (p : Nat × Pos) : Prop := p ∈ t.pos ∧ ∃ e ∈ p.2.errs, e.hard = true
     let lostSeq : Prop := ∃ e ∈ t.errs, e.hard = true
     let lost : Prop := lostSeq ∨ (∃ c, lostCell c) ∨ ∃ p, lostEdge p
     let at_ (r : FaultRec) (j row col : Nat) : Prop := r.die = dieOf t j ∧ r.arr = t.id.head + j ∧ r.pos = j ∧ r.row = row ∧ r.col = col
     (¬ ready → Completes (.preempt head) s s) ∧
     (ready → lost → ∃ r : FaultRec, Completes (.preempt head) s (contextFaults s t.id.ctx r) ∧ r.cause = 0x1BB ∧
       (lostSeq → r.arr = t.id.head ∧ r.pos = 0 ∧ r.row = 0xFF ∧ r.col = 0xFF) ∧
       (¬ lostSeq → (∃ c, lostCell c) → ∃ c, lostCell c ∧ at_ r (c.1 / 1024) (c.1 % 1024 / 32) (c.1 % 32)) ∧
       (¬ lostSeq → (∀ c, ¬ lostCell c) → ∃ p, lostEdge p ∧ at_ r p.1 0xFF 0xFF)) ∧
     (ready → ¬ lost → ∃ x : State, Completes (.preempt head) s x ∧
       x = { s with
         ctxs := finsert s.ctxs t.id.ctx { s.ctx t.id.ctx with
           sems := (s.ctx t.id.ctx).sems.map (fun e => (e.1, { e.2 with waiters := e.2.waiters.filter (fun w => w.1 != t.id.uid) })) }
         mem := { s.mem with hbm := x.mem.hbm, err := x.mem.err, poison := x.mem.poison, sb := x.mem.sb, fixed := x.mem.fixed }
         tasks := finsert s.tasks t.id.uid { t with
           busy := []
           ready := []
           errs := []
           cells := t.cells.map (fun e => (e.1, { e.2 with errs := [] }))
           pos := t.pos.map (fun e => (e.1, { e.2 with errs := [] }))
           ctl := { t.ctl with
             bound := false, running := false, stopReq := false, waiting := .none, yieldable := false, sliceDone := false
             aggAt := 0, early := none, imgKey := s.free } } } ∧
       (∀ d, fget x.mem.fixed 0 d = fget s.mem.fixed 0 d +
         (if d = t.die then t.errs.length else 0) + (t.cells.map (fun e => if d = dieOf t (e.1 / 1024) then e.2.errs.length else 0)).sum +
         (t.pos.map (fun e => if d = dieOf t e.1 then e.2.errs.length else 0)).sum) ∧
       x.mem.hbm = (s.saveImage t).mem.hbm))

/-- R298, R300, R347, R348, R351, R352: a task bound again, and not halted, goes on as its image says once its arrays have been left. An
image with an uncorrectable burst, or a private region written over, ends the context with 0xBB at that address. -/
def Sys2Proof.Spec.TaskResumes : Prop :=
  ∀ (n : Nat) (s : State) (t : Task), fget? s.tasks n = some t → n = t.id.uid →
    let n := t.prog.hdr.imageSize
    let burst (u : Nat) : Prop := 64 * u < t.ctl.img + n ∧ t.ctl.img < 64 * u + 64 ∧
      ((∃ e ∈ s.mem.poison, e.1 = u ∧ e.2 ≠ 0) ∨ ∃ e ∈ s.mem.err, e.1 = u ∧ 3 ≤ e.2)
    let spoilt (p : Nat × Nat) : Prop := p ∈ t.prog.hdr.privateRegions ∧
      s.devRd (t.ctl.img + p.1) p.2 ≠ Config.freePrivate t.ctl.imgKey p.1 % 2 ^ (8 * p.2)
    let bad : Prop := (∃ u, burst u) ∨ ∃ p, spoilt p
    let may : Prop := t.ctl.bound = true ∧ t.ctl.running = false ∧ t.ctl.placed = false ∧ t.ctl.halted = false ∧
      (s.ctx t.id.ctx).ffault = none ∧ WindowLeft s t
    let touched (x : State) : Prop := ∃ err poison scrub, x = { s with mem := { s.mem with err := err, poison := poison }, scrub := scrub } ∧
      (s.mem.err = [] → x = s)
    (¬ may → Completes (.resume n) s s) ∧
    (may → bad → ∃ (r : FaultRec) (x : State), touched x ∧ Completes (.resume n) s (contextFaults x t.id.ctx r) ∧ r.cause = 0x1BB ∧
      (∀ u, Lowest burst u → r.tval = 64 * u) ∧ ((∀ u, ¬ burst u) → ∃ p, spoilt p ∧ r.tval = t.ctl.img + p.1)) ∧
    (may → ¬ bad → ∃ (u : Task) (x : State), touched x ∧ Completes (.resume n) s (putT x u) ∧ u.id = t.id ∧ u.prog = t.prog ∧
      u.ctl.running = true ∧ u.ctl.sliceAt = s.ram.tick ∧ u.ctl.now = s.cycle ∧ u.ctl.img = t.ctl.imgBound ∧
      u.ctl.pc = s.devRd (t.ctl.img + 0xA00) 8 ∧ u.ctl.bcnt = s.devRd (t.ctl.img + 0xA08) 8 ∧
      (∀ k < 64, fget u.r.s 0 k = BitVec.ofNat 64 (s.devRd (t.ctl.img + 8 * k) 8)) ∧
      (∀ k < 15, fget u.r.q false k = (s.devRd (t.ctl.img + 0x200) 2).testBit k) ∧
      u.sys.epc = BitVec.ofNat 64 (s.devRd (t.ctl.img + 0xA38) 8) ∧ u.sys.tm = (s.devRd (t.ctl.img + 0xA18) 8).testBit 0)

/-- R309, R311, R320, R344, R345: a fault ends its context, the record at SAVEBASE + 0x300 and in the fault queue. A member of a
system-level barrier, or an accepted LEVEL-3 collective, reaches its home, which counts it; at the first's count every member is told; of
counts that differ each is told so, by a completion of count 0 (log entry 57). The codes of an arrival: 6. -/
def Sys2Proof.Spec.ContextsAndHomes : Prop :=
  (∀ (k : Nat) (s : State), ((s.ctx k).ffault = none → Completes (.contextEndFault k) s s) ∧
    (∀ r, (s.ctx k).ffault = some r → ∃ x : State, Completes (.contextEndFault k) s x ∧ ContextEnded s x k ∧
      let b := s.fnb (s.ctx k).fn
      let room : Prop := (b.fqtail + 2 ^ 32 - b.fqhead) % 2 ^ 32 < 2 ^ b.fqlog2
      ((∀ l ∈ s.ram.sets, l.ctx ≠ k) → (∀ c ∈ s.eng.cmds, c.ctx ≠ k) →
        x.mem.hbm = wrNat s.mem.hbm ((s.ctx k).savebase + 0x300) 32 (recordBytes r k) ∧
        x.mem.host = (if room then wrNat s.mem.host (hostKey (s.ctx k).fn (b.fqbase + 32 * (b.fqtail % 2 ^ b.fqlog2))) 32 (recordBytes r k) else s.mem.host) ∧
        x.fns = finsert s.fns (s.ctx k).fn (if room then { b with fqtail := (b.fqtail + 1) % 2 ^ 32, msix0 := b.msix0 + 1 }
          else { b with fqdrop := min (b.fqdrop + 1) (2 ^ 64 - 1) })))) ∧
  (∀ (m : SysMsg) (s : State), m.module = s.mod.modid →
    let g := homeGroup s m
    let told := s.ram.sysMembers.filter (fun x => !sameGroup m x)
    let mates := s.ram.sysMembers.filter (sameGroup m)
    let heard : State := { s with ram := { s.ram with sysDone := s.ram.sysDone.erase m } }
    (∀ t : Task, m.coll = false → s.sysTask m = some t →
      let here : Prop := (s.ctx t.id.ctx).shome = s.mod.modid
      let arrive : Prop := t.ctl.arrived = some (3, 0) ∧ here ∧ m.count = (t.id.barn.extractLsb' 48 16).toNat
      let u := putT s { t with ctl := { t.ctl with arrived := some (3, 3) } }
      (¬ arrive → Completes (.systemBarArrival m) s s) ∧
      (arrive → Completes (.systemBarArrival m) s
        (if g.arrived ≠ 0 ∧ g.need ≠ m.count
           then { u with ram := { s.ram with sysDone := s.ram.sysDone ++ [{ m with count := 0 }] } }
         else if m.count ≤ g.arrived + 1 then putHome u { g with arrived := 0, need := 0, gen := g.gen + 1 } told (s.ram.sysDone ++ mates ++ [m])
         else putHome u { g with arrived := g.arrived + 1, need := m.count } (s.ram.sysMembers ++ [m]) s.ram.sysDone)) ∧
      (let hears : Prop := if here then m ∈ s.ram.sysDone else t.ctl.arrived = some (3, 0)
       (¬ hears → Completes (.systemBarCompletion m) s s) ∧
       (hears → Completes (.systemBarCompletion m) s
         (putT heard { t with ctl := { t.ctl with arrived := some (3, if m.count = 0 then 2 else 1) } })))) ∧
    (∀ c : Cmd, m.coll = true → s.sysCmd m = some c →
      let here : Prop := (s.ctx c.ctx).shome = s.mod.modid
      let arrive : Prop := c.acks = [] ∧ here ∧ m.count = bitsOf c 3 16 16
      let put (x : State) (d : Cmd) : State := { x with eng := { x.eng with cmds := x.eng.cmds.map (fun e => if e.id == c.id then d else e) } }
      let u := put s { c with acks := [1] }
      let need := if g.arrived = 0 then m.count else g.need
      let all := mates ++ [m]
      let agree : Bool := all.all (fun x => x.count == need)
      (¬ arrive → Completes (.systemBarArrival m) s s) ∧
      (arrive → Completes (.systemBarArrival m) s
        (if need ≤ g.arrived + 1 then putHome u { g with arrived := 0, need := 0, gen := g.gen + 1 } told
            (s.ram.sysDone ++ all.map (fun x => { x with count := if agree then x.count else 0, gen := g.gen }))
         else putHome u { g with arrived := g.arrived + 1, need := need } (s.ram.sysMembers ++ [m]) s.ram.sysDone)) ∧
      (let hears : Prop := if here then m ∈ s.ram.sysDone else c.acks = []
       (¬ hears → Completes (.systemBarCompletion m) s s) ∧
       (hears → m.count ≠ 0 → Completes (.systemBarCompletion m) s (put heard { c with acks := [2, m.gen] })) ∧
       (hears → m.count = 0 → ∃ t : State, Completes (.systemBarCompletion m) s t ∧
         t = { put heard { c with st := .done, status := 8 } with out := t.out, eng := t.eng } ∧
         t.eng.cmds = s.eng.cmds.map (fun e => if e.id == c.id then { c with st := .done, status := 8 } else e) ∧
         ∀ k ∈ t.eng.colls, ∀ x ∈ k.members, x.1 ≠ c.id))))

/-- Rambler's events: SCHEDULE, slices and blocking quanta, pre-emption and resumption, the end of a context, the homes of barriers and
collectives. -/
def Obligations.SchedulerEvents : Prop := ScheduleTicks ∧ CandidatesArePlaced ∧ RecordsAreAdmitted ∧ TaskLeaves ∧ TaskResumes ∧ ContextsAndHomes

namespace Sys2Proof.Spec

/-- Port `p`. -/
def portOf (s : State) (p : Nat) : LinkPort := fget s.ports default p
/-- `s` with port `p` replaced. -/
def putPort (s : State) (p : Nat) (q : LinkPort) : State := { s with ports := finsert s.ports p q }

/-- The stack's burst that the scrubber reads next (R356). -/
def scrubbed (s : State) (stack : Nat) : Nat := stack * 2 ^ 30 + (fget s.scrub default stack).nextBurst

/-- What the host's copy engine is doing: device side, length, bytes moved, and the next piece, up to a multiple of 64 (R363). -/
def copyAt (b : FnBlock) : Nat := b.dcrun.getD 1 0
/-- The length of the copy. -/
def copyLen (b : FnBlock) : Nat := b.dcrun.getD 2 0
/-- The length of its next piece. -/
def copyPiece (b : FnBlock) : Nat := min (copyLen b - b.dcdone) (64 - (copyAt b + b.dcdone) % 64)

/-- `s` with the block of function `fn` replaced. -/
def putFn (s : State) (fn : Nat) (b : FnBlock) : State := { s with fns := finsert s.fns fn b }

/-- A migration reads the tables of a page: with an uncorrectable error in them `ends` holds of the fault that ends the context, else `goes`
of the state in which what they held is corrected (R354, R355). -/
def TablesMeet (s : State) (k buf page : Nat) (ends : State → FaultRec → Prop) (goes : State → Prop) : Prop :=
  let tables := s.entryBursts k buf ++ s.walkBursts (s.bufEntry k buf) page
  let lost (u : Nat) : Prop := fget s.mem.poison 0 u ≠ 0 ∨ 3 ≤ fget s.mem.err 0 u
  ((∃ u ∈ tables, lost u) → ∃ (y : State) (r : FaultRec), y = { s with mem := { s.mem with err := y.mem.err, poison := y.mem.poison }, scrub := y.scrub } ∧
    r.cause = 0x1BB ∧ r.buf = buf ∧ (∃ u ∈ tables, lost u ∧ r.tval = 64 * u) ∧ ends y r) ∧
  ((∀ u ∈ tables, ¬ lost u) → ∃ y : State, y = { s with mem := { s.mem with err := y.mem.err }, scrub := y.scrub } ∧
    (∀ u ∈ tables, fget y.mem.err 0 u = 0) ∧ goes y)

/-- Every translation of a page has gone, and no other (R329, R332). -/
def NoPage (s t : State) (k buf page : Nat) : Prop :=
  ∀ y, y ∈ t.eng.tlb ↔ y ∈ s.eng.tlb ∧ ¬ (((y.ctx = k ∧ y.buf = buf) ∨ y.ent.addr = (s.ctx k).btbase + 256 * buf) ∧ y.page = page)

/-- A BAR0 access or a flit starts the exit from P1 or P2 (R374). -/
def woken (s : State) : State := if s.mod.pstate = 1 ∨ s.mod.pstate = 2 then { s with mod := { s.mod with waking := true } } else s

/-- A flit for another module leaves by the port of its route, which keeps the last 1,024 for replay; without a route there is none (R357, R370). -/
def sentOn (s : State) (module : Nat) (answer : Bool) (a : LinkAccess) : State :=
  let p := fget s.route 0xFF module
  let q := portOf s p
  let f : Flit := ⟨q.txSeq, true, answer, a⟩
  if module = s.mod.modid ∨ 18 ≤ p then s
  else { putPort s p { q with
      txSeq := (q.txSeq + 1) % 4096
      kept := (q.kept ++ [f]).drop (q.kept.length + 1 - 1024)
      wire := q.wire ++ [.flit f] } with mod := { s.mod with flitAt := s.ram.tick } }

/-- An answer reaches the access that waits for it; accesses whose command has left go with their answer. -/
def heardAnswer (s : State) (a : LinkAccess) : State :=
  { s with out := (s.out.map (fun o => if o.access.id == a.id && o.access.toModule == a.toModule && o.answer.isNone
      then { o with answer := some a } else o)).filter (fun o => o.answer.isNone || (command s o.cmd).isSome) }

end Sys2Proof.Spec

open Sys2Proof Sys2Proof.Machine Sys2Proof.Spec

/-- R357, R370, R374: a flit is taken only in sequence and only if its CRC holds; a bad one makes the port ask for a replay from the
number it expects. Taken, it reaches its access or the inbox of the port, or goes on to its module. A replay request sends what is kept
from the named flit on; after eight of one flit (log entry 36) the port trains anew. In P2 a flit only starts the exit. -/
def Sys2Proof.Spec.Flits : Prop :=
  (∀ (p : Nat) (f : Flit) (s : State),
    let q := portOf s p
    let on : Prop := p < 18 ∧ q.state = 2 ∧ s.part.stopped = false ∧ s.mod.pstate ≤ 2
    let b := woken { s with mod := { s.mod with flitAt := s.ram.tick } }
    let x := putPort b p { q with rxSeq := (q.rxSeq + 1) % 4096 }
    let goes : Prop := on ∧ s.mod.pstate < 2
    (¬ on → Completes (.flitReceive p f) s s) ∧
    (on → s.mod.pstate = 2 → Completes (.flitReceive p f) s b) ∧
    (goes → f.crcOk = false → Completes (.flitReceive p f) s
      (putPort b p { q with crcfails := min (q.crcfails + 1) (2 ^ 64 - 1), wire := q.wire ++ [.replay q.rxSeq] })) ∧
    (goes → f.crcOk = true → f.seq ≠ q.rxSeq → Completes (.flitReceive p f) s b) ∧
    (goes → f.crcOk = true → f.seq = q.rxSeq →
      (f.answer = false → f.access.toModule = s.mod.modid →
        Completes (.flitReceive p f) s (putPort b p { q with rxSeq := (q.rxSeq + 1) % 4096, inbox := q.inbox ++ [f.access] })) ∧
      (f.answer = true → f.access.fromModule = s.mod.modid → Completes (.flitReceive p f) s (heardAnswer x f.access)) ∧
      (f.answer = false → f.access.toModule ≠ s.mod.modid → Completes (.flitReceive p f) s (sentOn x f.access.toModule false f.access)) ∧
      (f.answer = true → f.access.fromModule ≠ s.mod.modid → Completes (.flitReceive p f) s (sentOn x f.access.fromModule true f.access)))) ∧
  (∀ (p seq : Nat) (s : State),
    let q := portOf s p
    let n := if q.againSeq = seq then q.again + 1 else 1
    let on : Prop := p < 18 ∧ q.state = 2 ∧ ∃ f ∈ q.kept, f.seq = seq
    let r : LinkPort := { q with replays := min (q.replays + 1) (2 ^ 64 - 1), againSeq := seq, again := if 8 ≤ n then 0 else n }
    (¬ on → Completes (.replayRequest p seq) s s) ∧
    (∀ old f new, q.kept = old ++ f :: new → f.seq = seq → (∀ g ∈ old, g.seq ≠ seq) → p < 18 → q.state = 2 →
      let wire := q.wire ++ (f :: new).map LinkOut.flit
      (n < 8 → Completes (.replayRequest p seq) s (putPort s p { r with wire := wire })) ∧
      (8 ≤ n → Completes (.replayRequest p seq) s
        (putPort s p { r with wire := wire, state := 1, retrain := min (q.retrain + 1) (2 ^ 24 - 1) }))))

/-- R309, R357: an access to another module not performed in 10 ms ends the context of its command with code 0xBE, or is forgotten if the
command has left; so does what waits for the home, or for elements, of another module. Numbers for these, and that they have no timer: log entry 61. -/
def Sys2Proof.Spec.TimeOuts : Prop :=
  (∀ (n : Nat) (s : State) (o : Outstanding), n < 2 ^ 64 → s.out.find? (fun o => o.access.id == n) = some o →
    let late : Prop := o.answer = none ∧ o.access.toModule ≠ s.mod.modid ∧ o.sentAt + 10000 ≤ s.ram.tick
    (¬ late → Completes (.linkAccessTimeout n) s s) ∧
    (late → command s o.cmd = none → Completes (.linkAccessTimeout n) s { s with out := s.out.filter (fun x => x.access.id != n) }) ∧
    (late → ∀ c, command s o.cmd = some c → (s.ctx c.ctx).ffault = none →
      Completes (.linkAccessTimeout n) s (contextFaults s c.ctx (faultOf c 0x1BE o.access.off o.buf)))) ∧
  (∀ (n : Nat) (s : State) (t : Task), n < 2 ^ 64 → fget? s.tasks n = some t → (s.ctx t.id.ctx).ffault = none →
    let late : Prop := t.ctl.arrived = some (3, 0) ∧ (s.ctx t.id.ctx).shome ≠ s.mod.modid
    (¬ late → Completes (.linkAccessTimeout (2 ^ 64 + n)) s s) ∧
    (late → ∃ r : FaultRec, Completes (.linkAccessTimeout (2 ^ 64 + n)) s (contextFaults s t.id.ctx r) ∧ r.cause = 0x1BE ∧ r.epc = t.ctl.pc)) ∧
  (∀ (n : Nat) (s : State) (c : Cmd), command s n = some c → (s.ctx c.ctx).ffault = none →
    let sameColl (d : Cmd) : Bool := (s.ctx d.ctx).sdom == (s.ctx c.ctx).sdom && s.sysKey d == s.sysKey c
    let away (gen : Nat) : Prop := (s.eng.shares.filter (fun h => h.sdom == (s.ctx c.ctx).sdom && h.group == s.sysKey c && h.gen == gen)).length +
      (s.eng.cmds.filter (fun d => d.opcode / 16 == 3 && bitsOf d 4 46 2 == 3 && d.acks == [2, gen] && sameColl d)).length < bitsOf c 3 16 16
    let late : Prop := c.opcode / 16 = 3 ∧ bitsOf c 4 46 2 = 3 ∧ c.st = .running ∧
      ((c.acks = [] ∧ (s.ctx c.ctx).shome ≠ s.mod.modid) ∨ ∃ gen, c.acks = [3, gen] ∧ away gen)
    (¬ late → Completes (.linkAccessTimeout (2 ^ 65 + n)) s s) ∧
    (late → Completes (.linkAccessTimeout (2 ^ 65 + n)) s (contextFaults s c.ctx (faultOf c 0x1BE 0 0xFFFF))))

/-- R221, R318, R323: an access of another module waits at its port until it performs here, once, after the owner's checks and those of an
access of this module, and its answer goes back: atomics and optimizer steps with the old value or the count; what fails names the check and
performs nothing, though it has several parts. A requester past the owner's check stays passed until an invalidation. -/
def Sys2Proof.Spec.RemoteAccesses : Prop :=
  ∀ (a : LinkAccess) (s : State), s.part.stopped = false →
    let die := 24 + 64 * a.fromModule + a.fromCtx
    let e := s.bufEntry a.ctx a.buf
    let owned : Prop := (∃ t ∈ s.eng.tlb, t.die = die ∧ t.ctx = a.ctx ∧ t.buf = a.buf) ∨
      (s.feat 1 = true ∧ (s.ctx a.ctx).live = true ∧ e.valid = true ∧ e.imp = false ∧ e.remote = false ∧
        bitAt e.expmask a.fromCtx = true ∧ bitAt e.pg 2 = true ∧ (s.ctx a.ctx).sdom = a.sdom)
    let replies (x : State) (answer : State → LinkAccess → Prop) : Prop :=
      let err (off len : Nat) : Option PortErr := s.portErr die a.ctx a.buf off len a.write
      let failed (f : PortErr) : Prop := answer ((if f.kind = 5 ∨ f.kind = 7 then holdingAt x die a.ctx a.buf else x).errSeen f)
        { a with data := 0, off := f.off, fail := f.kind + if f.sys then 16 else 0 }
      let there (y : State) := y.stackOf die a.ctx a.buf a.off
      (¬ owned → answer x { a with data := 0, fail := 13 }) ∧
      (owned → a.amo = 0 → a.parts = [] → ∀ f, err a.off a.len = some f → failed f) ∧
      (owned → a.amo = 0 → a.parts = [] → err a.off a.len = none →
        let y := x.portTouch die a.ctx a.buf a.off a.len
        (a.write = false → answer y { a with data := y.bufRd die a.ctx a.buf a.off a.len, stack := there y, fail := 0 }) ∧
        (a.write = true → answer (y.bufPut die a.ctx a.buf a.off a.len a.data true) { a with data := 0, stack := there y, fail := 0 })) ∧
      (owned → 1 ≤ a.amo → a.amo ≤ 9 → a.parts = [] →
        (∀ f, s.atomicErr die a.ctx a.buf a.off a.len = some f → failed f) ∧
        (s.atomicErr die a.ctx a.buf a.off a.len = none →
          let y := x.portTouch die a.ctx a.buf a.off a.len
          let put (n v r : Nat) : Prop := answer (y.bufPut die a.ctx a.buf a.off n v true) { a with data := r, stack := there y, fail := 0 }
          (a.amo ≤ 8 → let old := y.bufRd die a.ctx a.buf a.off a.len
            put a.len (atomicLeaves (a.amo - 1) a.len a.data old) old) ∧
          (a.amo = 9 → let old := y.bufRd die a.ctx a.buf a.off 16
            let step := a.data / 2 ^ 32 % 2 ^ 16
            let new := optimized (fun k => a.data / 2 ^ (64 + 32 * k) % 2 ^ 32) step (a.data % 2 ^ 32) old
            if a.data.testBit 48 = true ∧ old / 2 ^ 112 % 2 ^ 16 = step then answer y { a with data := 0, stack := there y, fail := 0 }
            else put 16 new (if recordUnbounded new then 1 else 0)))) ∧
      (owned → (∀ p ∈ a.parts, p.kind = 0) → ∀ front p back f, a.parts = front ++ p :: back → (∀ q ∈ front, err q.off q.len = none) →
        err p.off p.len = some f → failed f) ∧
      (owned → a.parts ≠ [] → a.write = true → (∀ p ∈ a.parts, p.kind = 0 ∧ err p.off p.len = none) →
        let y := a.parts.foldl (fun z p => z.portTouch die a.ctx a.buf p.off p.len) x
        let z := a.parts.foldl (fun z p => z.bufPut die a.ctx a.buf p.off p.len p.data true) y
        answer z { a with data := 0, stack := there y, fail := 0 })
    (∀ p, p < 18 → (portOf s p).inbox.head? = some a → (∀ j < p, (portOf s j).inbox.head? ≠ some a) →
      let x := putPort s p { portOf s p with inbox := (portOf s p).inbox.tail }
      (a.share = none → replies x (fun t r => Completes (.remoteAccess a) s (sentOn t a.fromModule true r))) ∧
      (∀ h, a.share = some h → Completes (.remoteAccess a) s x ∨
        Completes (.remoteAccess a) s { x with eng := { s.eng with shares := s.eng.shares ++ [h] } })) ∧
    ((∀ p < 18, (portOf s p).inbox.head? ≠ some a) →
      (∀ o, s.out.find? (fun o => o.access.toModule == s.mod.modid && o.answer.isNone) = some o → o.access = a →
        replies s (fun t r => Completes (.remoteAccess a) s (heardAnswer t r))) ∧
      ((∀ o ∈ s.out, o.access.toModule = s.mod.modid → o.answer ≠ none) → Completes (.remoteAccess a) s s))

/-- R329, R332, R355, R356, R363, R366: the scrubber corrects a burst or poisons it, counts it and goes on; a migration commits once its page
is marked and its passes are made, bad tables ending the context: the new frame holds what the old one held, every translation of the page
goes. An invalidation drops what it covers; a new buffer table takes effect once every buffer has had one asked for after it (log entry
33). A driver copy moves its next piece, and reports done or the error. -/
def Sys2Proof.Spec.MemoryEvents : Prop :=
  (∀ (stack : Nat) (s : State),
    let b := scrubbed s stack
    let e := fget s.mem.err 0 b
    let on : Prop := stack < 96 ∧ s.mod.bootstat = 5 ∧ s.mod.pstate < 2
    (¬ on → Completes (.scrubBurst stack) s s) ∧
    (on → (fget s.scrub default stack).nextBurst < 2 ^ 30 → ∃ h : ScrubHist,
      let old := fget s.scrub default stack
      Completes (.scrubBurst stack) s { s with
        scrub := finsert s.scrub stack h
        mem := if e = 0 then s.mem else if e ≤ 2 then { s.mem with err := ferase s.mem.err b }
          else { s.mem with err := ferase s.mem.err b, poison := finsert s.mem.poison b 1 } } ∧
      h.nextBurst = (old.nextBurst + 1) % 2 ^ 30 ∧
      h.corrected = (if e = 1 ∨ e = 2 then min (old.corrected + 1) (2 ^ 32 - 1) else old.corrected) ∧
      h.uncorrectable = (if 3 ≤ e then min (old.uncorrectable + 1) (2 ^ 32 - 1) else old.uncorrectable) ∧
      (e = 0 → h.events = old.events) ∧ (e ≠ 0 → h.events.getLast? = some (64 * b, if e ≤ 2 then 1 else 2, s.ram.tick)))) ∧
  (∀ (k : Nat) (s : State),
    let ready (g : Migration) : Prop :=
      let x := s.freshPte (s.bufEntry k g.buf) g.page
      g ∈ (s.ctx k).migs ∧ x.testBit 63 = true ∧ x.testBit 60 = true ∧ g.passes * ((s.bufEntry k g.buf).page / 64) ≤ g.copies
    ((∀ g, ¬ ready g) → Completes (.migrationCommit k) s s) ∧
    ((∃ g, ready g) → ∃ g, ready g ∧
      let e := s.bufEntry k g.buf
      let x := s.freshPte e g.page
      TablesMeet s k g.buf g.page (fun y r => (s.ctx k).ffault = none → Completes (.migrationCommit k) s (contextFaults y k r)) (fun _ =>
        ∃ t : State, Completes (.migrationCommit k) s t ∧
        t.ctx k = { s.ctx k with
          migst := if (s.ctx k).migst = 1 ∧ (s.ctx k).migs.getLast? = some g then 2 else (s.ctx k).migst
          migs := (s.ctx k).migs.filter (fun h => h.buf != g.buf || h.page != g.page) } ∧ (∀ j, j ≠ k → t.ctx j = s.ctx j) ∧
        NoPage s t k g.buf g.page ∧
        t.mem.sram = s.mem.sram ∧ t.mem.ws = s.mem.ws ∧ t.mem.host = s.mem.host ∧ t.tasks = s.tasks ∧ t.mod = s.mod ∧
        (∀ at_, e.size / e.page ≤ 2 ^ 17 → at_ = e.ptroot + 8 * g.page →
          (∀ n ∈ e.stk, at_ + 8 ≤ n * 2 ^ 36 + g.nframe * e.share ∨ n * 2 ^ 36 + (g.nframe + 1) * e.share ≤ at_) →
          let old := x % 2 ^ 48
          rdNat t.mem.hbm at_ 8 = (x - 2 ^ 60 - old + g.nframe) % 2 ^ 64 ∧
          (s.mem.hbm.wf = true → e.stk.Nodup → old ≠ g.nframe → (old + 1) * e.share ≤ 2 ^ 36 → (g.nframe + 1) * e.share ≤ 2 ^ 36 → ∀ n ∈ e.stk, ∀ i < e.share,
            rdByte t.mem.hbm (n * 2 ^ 36 + g.nframe * e.share + i) = rdByte s.mem.hbm (n * 2 ^ 36 + old * e.share + i)))))) ∧
  (∀ (k : Nat) (s : State), ((s.ctx k).inval = [] → Completes (.invalidationComplete k) s s) ∧
    (∀ v rest, (s.ctx k).inval = v :: rest → ∃ t : State, Completes (.invalidationComplete k) s t ∧
      t = { s with eng := { s.eng with tlb := t.eng.tlb, cmds := t.eng.cmds, look := t.eng.look }, ctxs := t.ctxs } ∧ CmdsStand s t ∧
      ((s.ctx k).btnext = none → t.eng.cmds = s.eng.cmds ∧ t.eng.look = s.eng.look) ∧ (∀ y ∈ t.eng.look, y ∈ s.eng.look) ∧
      (∀ y, y ∈ t.eng.tlb ↔ y ∈ s.eng.tlb ∧
        ¬ (((y.ctx = k ∧ y.buf = v % 2 ^ 12) ∨ y.ent.addr = (s.ctx k).btbase + 256 * (v % 2 ^ 12)) ∧
          (v / 2 ^ 43 % 2 ^ 21 = 0 ∨ if y.page = 2 ^ 64 then v / 2 ^ 12 % 2 ^ 31 = 0 ∧ y.ent.size ≤ y.ent.page * (v / 2 ^ 43 % 2 ^ 21)
            else v / 2 ^ 12 % 2 ^ 31 ≤ y.page ∧ y.page < v / 2 ^ 12 % 2 ^ 31 + v / 2 ^ 43 % 2 ^ 21))) ∧
      (∀ j, j ≠ k → t.ctx j = { s.ctx j with volInit := (t.ctx j).volInit }) ∧
      (let c := { s.ctx k with inval := rest }
       let seen := if v / 2 ^ 43 % 2 ^ 21 = 0 then v % 2 ^ 12 :: c.btdone else c.btdone
       ((s.ctx k).btnext = none → t.ctx k = c) ∧
       ((s.ctx k).btnext ≠ none → 0 < c.btskip → t.ctx k = { c with btskip := c.btskip - 1, volInit := (t.ctx k).volInit }) ∧
       (∀ n, (s.ctx k).btnext = some n → c.btskip = 0 → t.ctx k = (if ∀ i < c.btcount, i ∈ seen
         then { c with btbase := n.1, btcount := n.2, btnext := none, btdone := [], volInit := (t.ctx k).volInit }
         else { c with btdone := seen, volInit := (t.ctx k).volInit }))))) ∧
  (∀ (fn : Nat) (s : State),
    let b := fget s.fns FnBlock.init fn
    let a := copyAt b + b.dcdone
    let n := copyPiece b
    let bus := fn * 2 ^ 64 + b.dcrun.getD 0 0 + b.dcdone
    let whole : Prop := b.dcrun.getD 0 0 + b.dcdone + n ≤ 2 ^ 64
    let on : Prop := fn < 32 ∧ b.dcst % 4 = 1 ∧ s.mod.pstate < 2
    let moved (m : Mems) : State := putFn { s with mem := m } fn
      { b with dcdone := b.dcdone + n, dcst := if copyLen b ≤ b.dcdone + n then 2 else 1 }
    (¬ on → Completes (.driverCopyComplete fn) s s) ∧
    (on → b.dcctl / 4 % 4 = 1 → s.mem.err = [] → s.mem.poison = [] →
      let inside : Prop := b.extBase ≤ copyAt b ∧ copyAt b + copyLen b ≤ b.extLim
      (¬ inside → Completes (.driverCopyComplete fn) s (putFn s fn { b with dcst := 0x503 })) ∧
      (inside → Config.hostFails s.free = true → Completes (.driverCopyComplete fn) s (putFn s fn { b with dcst := 0x703 })) ∧
      (inside → Config.hostFails s.free = false → whole → b.dcctl / 2 % 2 = 0 → ∃ t : State, Completes (.driverCopyComplete fn) s t ∧
        t = { moved { s.mem with hbm := wrNat s.mem.hbm a n (rdNat s.mem.host bus n) } with ctxs := t.ctxs, eng := { s.eng with cmds := t.eng.cmds, look := t.eng.look } } ∧
        CmdsStand s t ∧ (∀ y ∈ t.eng.look, y ∈ s.eng.look) ∧ ∀ k, t.ctx k = { s.ctx k with volInit := (t.ctx k).volInit }) ∧
      (inside → Config.hostFails s.free = false → whole → b.dcctl / 2 % 2 = 1 →
        Completes (.driverCopyComplete fn) s (moved { s.mem with host := wrNat s.mem.host bus n (rdNat s.mem.hbm a n) }))))

/-- Koerorn Link and the memories of the device. The model's choices: ticks of 1 µs (log entry 7), the order of accesses that arrive and the
numbers a link's port translates under (35), a copy's pieces (34), whether the host fails one, a free value (30), the lines and order of
migrations (24), the codes of a scrubber's events (65), scrubbing, flits and copies only in P0 and P1 (42), bus addresses modulo 2^64 (74). -/
def Obligations.LinkAndMemoryEvents : Prop := Flits ∧ TimeOuts ∧ RemoteAccesses ∧ MemoryEvents

namespace Sys2Proof.Spec

/-- The write comes from the owner host through PF 0 (R368). -/
def byOwner (s : State) (r : Req) : Prop := r.fn = 0 ∧ s.mod.ownerValid = true ∧ r.rid = s.mod.owner

/-- Context `k` has a block, the function exists, and the module has power (R360, R374). -/
def blockThere (s : State) (r : Req) (k : Nat) : Prop := k < 64 ∧ r.fn < 32 ∧ s.mod.pstate ≠ 3

/-- The writer may write the block of context `k` (R366). -/
def mayWrite (s : State) (r : Req) (k : Nat) : Prop := byOwner s r ∨ (s.ctx k).fn = r.fn

/-- An ignored write enters the error log of a function (R362). -/
def ignored (s : State) (fn through off : Nat) : State :=
  putFn s fn { fget s.fns FnBlock.init fn with
    errlog := ((fget s.fns FnBlock.init fn).errlog + 1) % 2 ^ 32 + off % 2 ^ 24 * 2 ^ 32 + through % 2 ^ 5 * 2 ^ 56 }

/-- A write of a register: `x`, and in P1 and P2 it starts the exit (R374). -/
abbrev Written (i : Instr) (s x : State) : Prop := Completes i s (woken x)

/-- The writes of a context's block: who, which context, which offset (R361, R365, R366). -/
def blockWrite (i : Instr) : Option (Req × Nat × Nat) :=
  match i with
  | .tailWrite r k q _ => some (r, k, 0x810 + 32 * q)
  | .qdescWrite r k q _ => some (r, k, 0x800 + 32 * q)
  | .cdescWrite r k _ => some (r, k, 0)
  | .contextCreate r k => some (r, k, 0x20)
  | .contextEnd r k => some (r, k, 0x20)
  | .invalidate r k _ => some (r, k, 0x40)
  | .migrationStart r k _ => some (r, k, 0x60)
  | .migrationAbort r k => some (r, k, 0x60)
  | .faultResume r k _ => some (r, k, 0xA0)
  | .faultEndContext r k _ => some (r, k, 0xA0)
  | .debugAttach r k _ => some (r, k, 0xC0)
  | .debugStop r k _ => some (r, k, 0xC0)
  | .debugRelease r k => some (r, k, 0xC0)
  | .partitionWrite r k die _ _ => some (r, k, 0x1000 + 16 * die)
  | _ => none

/-- `s` with context `k` replaced. -/
def putCtx (s : State) (k : Nat) (c : Ctx) : State := { s with ctxs := finsert s.ctxs k c }

/-- The bytes `lo` to `hi - 1` of a memory that uses `2 ^ n` keys for a die read zero after, where `kept` bytes stand, and no
other byte has changed. -/
def gained (m m' : Mem) (n die lo hi klo khi : Nat) : Prop :=
  ∀ a, rdByte m' a =
    if die * 2 ^ n + lo ≤ a ∧ a < die * 2 ^ n + hi ∧ ¬ (die * 2 ^ n + klo ≤ a ∧ a < die * 2 ^ n + khi) then 0 else rdByte m a

/-- The registers of the module block that have a plain range: offset, lowest and highest value, and where the value is (R367). -/
def rangedRegister (m : ModRegs) (off v : Nat) : Option (Nat × Nat × ModRegs) :=
  match off with
  | 0x1020 => some (0, 2 ^ 28, { m with fwlen := v })
  | 0x1058 => some (1, 60, { m with lease := v })
  | 0x1100 => some (100, 100000, { m with tslice := v })
  | 0x1108 => some (1, 10000, { m with bquant := v })
  | 0x1110 => some (1, 168, { m with scrubper := v })
  | 0x1118 => some (0, 2 ^ 64 - 1, { m with ltol := v })
  | 0x1128 => some (8000, 24000, { m with plim := v })
  | 0x1210 => some (0, 2 ^ 19 - 1, { m with rtidx := v })
  | 0x1018 => some (0, 2 ^ 64 - 1, { m with fwaddr := v })
  | 0x1640 => some (0, 2 ^ 64 - 1, { m with attaddr := v })
  | _ => none

end Sys2Proof.Spec

open Sys2Proof Sys2Proof.Machine Sys2Proof.Spec

/-- R292, R293, R316 to R320, R329, R332, R342, R353, R365, R366: a write to the block of a context by anyone but the owner and the
context's function changes nothing but the function's error log; what the others write takes effect as the register says. What is logged
and ignored beyond the rights is log entries 32 and 33, a context's lives 38, an FRES that names no held fault and the end without a second
record 37, pages told of once more after TAIL 63, several migrations and MIGST 24. In P1 and P2 a write starts the exit too (R374). -/
def Obligations.ContextBlockWrites : Prop :=
  (∀ (i : Instr) (r : Req) (k off : Nat) (s : State), blockWrite i = some (r, k, off) →
    (¬ blockThere s r k → Completes i s s) ∧
    (blockThere s r k → ¬ mayWrite s r k → Written i s (ignored s (s.ctx k).fn r.fn (0x100000 + 0x10000 * k + off)))) ∧
  (∀ (r : Req) (k : Nat) (s : State), blockThere s r k → mayWrite s r k →
    let c := s.ctx k
    (∀ q v x, fget? c.queues q = some x →
      let tail : Word := BitVec.ofNat 32 v
      let room : Prop := (tail - x.cmpl).toNat ≤ 2 ^ x.log2n ∧ (tail - x.tail).toNat ≤ (tail - x.cmpl).toNat
      let put (y : Queue) : State := putCtx s k { c with queues := finsert c.queues q y }
      (room → Written (.tailWrite r k q v) s (put { x with tail := tail, told := [] })) ∧
      (¬ room → Written (.tailWrite r k q v) s (put { x with err := true, told := [] }))) ∧
    (∀ q d,
      let fits : Prop := c.live = true ∧ d.d0 % 256 = 0 ∧ d.d1 / 2 ^ 16 % 2 ^ 8 ≤ 12 ∧ d.d1 / 2 ^ 32 % 2 ^ 8 ≤ 23 ∧
        d.d1 / 2 ^ 40 % 2 ^ 8 = q ∧ q < 64
      (¬ fits → Written (.qdescWrite r k q d) s s) ∧
      (fits → fget? c.queues q = none → (BitVec.ofNat 32 d.d2).toNat ≤ 2 ^ (d.d1 / 2 ^ 16 % 2 ^ 8) →
        let x : Queue := ⟨d.d0, d.d1 % 2 ^ 16, d.d1 / 2 ^ 16 % 2 ^ 8, d.d1 / 2 ^ 24 % 4, d.d1 / 2 ^ 32 % 2 ^ 8, BitVec.ofNat 32 d.d2, 0, 0,
          false, false, false, [], [], none⟩
        Written (.qdescWrite r k q d) s (putCtx s k { c with queues := finsert c.queues q x })) ∧
      (fits → ∀ x, fget? c.queues q = some x →
        let tail : Word := BitVec.ofNat 32 d.d2
        let home := d.d1 / 2 ^ 32 % 2 ^ 8
        let moves : Prop := x.mapped = true ∧ x.home ≠ home
        let y : Queue := { x with roff := d.d0, rbuf := d.d1 % 2 ^ 16, log2n := d.d1 / 2 ^ 16 % 2 ^ 8, prio := d.d1 / 2 ^ 24 % 4, home := home, told := [] }
        let room : Prop := (tail - x.cmpl).toNat ≤ 2 ^ y.log2n ∧ (tail - x.tail).toNat ≤ (tail - x.cmpl).toNat
        let z : Queue := if room then { y with tail := tail } else { y with err := true }
        (¬ moves → Written (.qdescWrite r k q d) s (putCtx s k { c with queues := finsert c.queues q z })) ∧
        (moves → ∃ t : State, Written (.qdescWrite r k q d) s t ∧ t = { s with ctxs := t.ctxs, tasks := t.tasks } ∧
          fget? (t.ctx k).queues q = some { z with mapped := false } ∧ (∀ n, n ≠ q → fget? (t.ctx k).queues n = fget? c.queues n) ∧
          ∀ n, fget? t.tasks n = (fget? s.tasks n).map (fun u =>
            if u.id.ctx = k ∧ u.id.queue = q ∧ u.id.poolSet = false ∧ u.ctl.bound = true then { u with ctl := { u.ctl with stopReq := true } } else u)))) ∧
    (∀ d : Quad, byOwner s r → c.live = false → d.d0 < 2 ^ 64 → d.d1 < 2 ^ 64 → d.d2 < 2 ^ 64 → d.d3 < 2 ^ 64 →
      let f := fget s.fns FnBlock.init (d.d1 / 2 ^ 16 % 32)
      let count := d.d1 % 2 ^ 16
      let limits : Prop := d.d0 % 4096 = 0 ∧ 1 ≤ count ∧ count ≤ 4096 ∧ 1 ≤ d.d1 / 2 ^ 32 % 2 ^ 8 ∧ d.d1 / 2 ^ 32 % 2 ^ 8 ≤ 48 ∧
        d.d2 % 2 ^ 8 ≤ 3 ∧ d.d2 / 2 ^ 8 % 2 ^ 8 ≤ 23 ∧ d.d2 / 2 ^ 16 % 2 ^ 8 ≤ 13 ∧ d.d3 % 4096 = 0
      let placed : Prop := f.extBase ≤ d.d0 ∧ d.d0 + 256 * count ≤ f.extLim ∧ f.extBase ≤ d.d3 ∧ d.d3 + 4096 ≤ f.extLim
      (¬ limits → Written (.cdescWrite r k d) s s) ∧
      (limits → ¬ placed → Written (.cdescWrite r k d) s (ignored s c.fn r.fn (0x100000 + 0x10000 * k))) ∧
      (limits → placed → Written (.cdescWrite r k d) s (putCtx s k { c with
        btbase := d.d0, btcount := count, fn := d.d1 / 2 ^ 16 % 32, pcap := d.d1 / 2 ^ 24 % 4, maxarr := d.d1 / 2 ^ 32 % 2 ^ 8
        xflags := d.d1 / 2 ^ 40 % 8, sdom := d.d1 / 2 ^ 48, imode := d.d2 % 2 ^ 8, idie := d.d2 / 2 ^ 8 % 2 ^ 8
        igran := d.d2 / 2 ^ 16 % 2 ^ 8, shome := d.d2 / 2 ^ 32 % 2 ^ 19, savebase := d.d3, btnext := none, btskip := 0, btdone := [] }))) ∧
    (∀ d : Quad, byOwner s r → c.live = true → d.d0 < 2 ^ 64 → c.btbase < 2 ^ 64 → c.btcount < 2 ^ 16 → c.fn < 32 → c.pcap < 4 → c.xflags < 8 →
      c.sdom < 2 ^ 16 → c.shome < 2 ^ 19 → c.savebase < 2 ^ 64 → c.savebase % 4096 = 0 → 1 ≤ c.maxarr → c.maxarr ≤ 48 → c.imode ≤ 3 →
      c.idie ≤ 23 → c.igran ≤ 13 →
      let f := fget s.fns FnBlock.init c.fn
      let count := d.d1 % 2 ^ 16
      let limits : Prop := d.d0 % 4096 = 0 ∧ 1 ≤ count ∧ count ≤ 4096
      let placed : Prop := f.extBase ≤ d.d0 ∧ d.d0 + 256 * count ≤ f.extLim ∧ f.extBase ≤ c.savebase ∧ c.savebase + 4096 ≤ f.extLim
      (¬ limits → Written (.cdescWrite r k d) s s) ∧
      (limits → ¬ placed → Written (.cdescWrite r k d) s (ignored s c.fn r.fn (0x100000 + 0x10000 * k))) ∧
      (limits → placed → Written (.cdescWrite r k d) s
        (putCtx s k { c with btnext := some (d.d0, count), btskip := c.inval.length, btdone := [] }))) ∧
    (let may : Prop := s.mod.featgo = true ∧ s.mod.bootstat = 5 ∧ s.part.stopped = false ∧ c.live = false
     (¬ may → Written (.contextCreate r k) s s) ∧
     (may → ∃ x : State, Written (.contextCreate r k) s x ∧
       x = { putCtx s k { c with live := true, queues := [], sems := [], groups := [], bound := 0, volInit := [], ffault := none, migs := [] } with
         mem := x.mem
         eng := { s.eng with adds := s.eng.adds.filter (fun a => a.ctx != k), look := s.eng.look.filter (fun a => a.ctx != k) } } ∧
       x.mem.hbm = s.mem.hbm ∧ x.mem.host = s.mem.host ∧
       (∀ die < 24, ∀ a, (s.partOf k die).ssbase ≤ a → a < (s.partOf k die).sslim → rdByte x.mem.sram (die * 2 ^ 27 + a) = 0) ∧
       (∀ die < 24, ∀ a, (s.partOf k die).wsbase ≤ a → a < (s.partOf k die).wslim → rdByte x.mem.ws (die * 2 ^ 31 + a) = 0))) ∧
    ((c.live = false → Written (.contextEnd r k) s s) ∧
     (c.live = true → ∃ x, Written (.contextEnd r k) s x ∧ ContextEnded s x k)) ∧
    (∀ v, Written (.invalidate r k v) s (putCtx s k { c with inval := c.inval ++ [v % 2 ^ 64] })) ∧
    (∀ d : Quad,
      let buf := d.d0 % 2 ^ 12
      let e := s.bufEntry k buf
      let x := s.freshPte e d.d1
      let passes := d.d3 % 2 ^ 62
      let c' : Ctx := { c with migr := (buf, d.d1) }
      let i : Instr := .migrationStart r k d
      let refused : Prop := e.valid = false ∨ e.host = true ∨ e.imp = true ∨ e.remote = true ∨ e.size ≤ d.d1 * e.page ∨ x.testBit 63 = false ∨
        x.testBit 60 = true ∨ s.frameOk e x = false ∨ s.frameOk e d.d2 = false ∨ 2 ^ 48 ≤ d.d2 ∨ passes < 1 ∨ 15 < passes
      (d.d3.testBit 63 = false → Written i s (putCtx s k c')) ∧
      (d.d3.testBit 63 = true → s.feat 3 = false ∨ c.live = false → Written i s (putCtx s k { c' with migst := 3 })) ∧
      (d.d3.testBit 63 = true → s.feat 3 = true → c.live = true → TablesMeet s k buf d.d1
        (fun y f => c.ffault = none → Written i s (contextFaults (putCtx y k c') k f))
        (fun y => (refused → Written i s (putCtx (putCtx y k c') k { c' with migst := 3 })) ∧
          (¬ refused → ∃ t : State, Written i s t ∧ t.ctx k = { c' with migst := 1, migs := c.migs ++ [⟨buf, d.d1, d.d2, passes, 0⟩] } ∧
            t = { y with ctxs := t.ctxs, mem := { y.mem with hbm := t.mem.hbm }, eng := { s.eng with tlb := t.eng.tlb } } ∧
            (∀ j, j ≠ k → t.ctx j = s.ctx j) ∧ NoPage s t k buf d.d1 ∧
            ∀ a, s.pteAddr e d.d1 = some a → t.mem.hbm = wrNat s.mem.hbm a 8 (rdNat s.mem.hbm a 8 + 2 ^ 60))))) ∧
    ((∀ g ∈ c.migs, (g.buf, g.page) ≠ c.migr) → Written (.migrationAbort r k) s s) ∧
    (∀ g, c.migs.find? (fun g => decide ((g.buf, g.page) = c.migr)) = some g → TablesMeet s k g.buf g.page
      (fun y f => c.ffault = none → Written (.migrationAbort r k) s (contextFaults y k f))
      (fun y => ∃ t : State, Written (.migrationAbort r k) s t ∧
        t.ctx k = { c with migst := if c.migst = 1 ∧ c.migs.getLast? = some g then 0 else c.migst,
                           migs := c.migs.filter (fun h => h.buf != g.buf || h.page != g.page) } ∧
        t = { y with ctxs := t.ctxs, mem := { y.mem with hbm := t.mem.hbm }, eng := { s.eng with tlb := t.eng.tlb } } ∧
        (∀ j, j ≠ k → t.ctx j = s.ctx j) ∧ NoPage s t k g.buf g.page ∧
        ∀ a, s.pteAddr (s.bufEntry k g.buf) g.page = some a →
          t.mem.hbm = wrNat s.mem.hbm a 8 (let v := rdNat s.mem.hbm a 8; if v.testBit 60 then v - 2 ^ 60 else v))) ∧
    (∀ v, let names (z : Cmd) : Bool := z.ctx == k && z.head == v % 64 && z.slot == v / 64 % 64
      (v.testBit 63 = true → Written (.faultResume r k v) s s) ∧
      (v.testBit 63 = false → v / 64 % 64 ≠ 63 → Written (.faultResume r k v) s { s with eng := { s.eng with cmds := s.eng.cmds.map (fun z =>
        if names z && z.st == .faulted then { z with st := .running } else z) } }) ∧
      (v.testBit 63 = false → v / 64 % 64 = 63 → ∃ x : State, Written (.faultResume r k v) s x ∧
        x = { s with
          tasks := x.tasks
          eng := { s.eng with
            cmds := s.eng.cmds.map (fun z => if names z && z.st == .faulted then { z with st := .running } else z)
            adds := s.eng.adds.map (fun a => if a.ctx == k && a.head == v % 64 then { a with held := false } else a) } } ∧
        ∀ n, fget? x.tasks n = (fget? s.tasks n).map (fun t =>
          if t.id.ctx = k ∧ t.id.head = v % 64 then { t with ctl := { t.ctl with frameFault := false } } else t)) ∧
      (v.testBit 63 = false → Written (.faultEndContext r k v) s s) ∧
      (v.testBit 63 = true → v / 64 % 64 ≠ 63 →
        ((∀ z ∈ s.eng.cmds, names z = true → z.st ≠ .faulted) → Written (.faultEndContext r k v) s s) ∧
        ((∃ z ∈ s.eng.cmds, names z = true ∧ z.st = .faulted) → ∃ x, Written (.faultEndContext r k v) s x ∧ ContextEnded s x k))) ∧
    (∀ on, Written (.debugAttach r k on) s (if s.feat 4 then putCtx s k { c with attach := on } else s)) ∧
    (∀ head t, s.taskAt head = some t →
      let halts : Prop := c.attach = true ∧ t.id.ctx = k ∧ t.ctl.ending = false ∧ t.ctl.halted = false
      (¬ halts → Written (.debugStop r k head) s s) ∧
      (halts → Written (.debugStop r k head) s (putT s { t with
        sys := { t.sys with cause := 0xBF, epc := BitVec.ofNat 64 t.ctl.pc }
        ctl := { t.ctl with halted := true, stopReq := t.ctl.running } }))) ∧
    (∃ x : State, Written (.debugRelease r k) s x ∧ x = { s with tasks := x.tasks } ∧
      ∀ n, fget? x.tasks n = (fget? s.tasks n).map (fun t => if t.id.ctx = k then { t with ctl := { t.ctl with halted := false } } else t)) ∧
    (∀ die d0 d1,
      let p : Part := ⟨d0 % 2 ^ 32, d0 / 2 ^ 32 % 2 ^ 32, d1 % 2 ^ 32, d1 / 2 ^ 32 % 2 ^ 32⟩
      let o := s.partOf k die
      (24 ≤ die → Written (.partitionWrite r k die d0 d1) s s) ∧
      (die < 24 → ¬ byOwner s r →
        Written (.partitionWrite r k die d0 d1) s (ignored s c.fn r.fn (0x100000 + 0x10000 * k + (0x1000 + 16 * die)))) ∧
      (die < 24 → byOwner s r → s.partOk k die p = false → Written (.partitionWrite r k die d0 d1) s s) ∧
      (die < 24 → byOwner s r → s.partOk k die p = true → ∃ x : State, Written (.partitionWrite r k die d0 d1) s x ∧
        x = { s with parts := finsert s.parts (24 * k + die) p, mem := x.mem } ∧ x.mem.hbm = s.mem.hbm ∧ x.mem.host = s.mem.host ∧
        (o.ssbase ≤ o.sslim → o.wsbase ≤ o.wslim →
          gained s.mem.sram x.mem.sram 27 die p.ssbase p.sslim o.ssbase o.sslim ∧
          gained s.mem.ws x.mem.ws 31 die p.wsbase p.wslim o.wsbase o.wslim))))

/-- R360 to R364, R367, R368: the function blocks and the module block. A private extent, a driver copy, the clearing of the logs, and the
registers with a stated range: a value outside its range, a writer who is not the owner, a busy or malformed copy change nothing but a log.
What is logged is log entry 32. PORTEN moves the ports, FEATREQ and ATTNONCE take 64 bits at a time. CTXMASK names the contexts of a function
whose descriptor was written (log entry 33); ptNext is where the loader's page tables begin (23). -/
def Obligations.FunctionAndModuleWrites : Prop :=
  (∀ (r : Req) (e lo hi : Nat) (s : State),
    let i : Instr := .privextWrite r e lo hi
    let f := fget s.fns FnBlock.init e
    (32 ≤ r.fn ∨ s.mod.pstate = 3 → Completes i s s) ∧
    (0 < r.fn → r.fn < 32 → s.mod.pstate ≠ 3 → Written i s s) ∧
    (r.fn = 0 → s.mod.pstate ≠ 3 → ¬ byOwner s r → Written i s (ignored s 0 r.fn (0x1700 + 16 * e))) ∧
    (s.mod.pstate ≠ 3 → byOwner s r → s.extentOk e lo hi = false → Written i s s) ∧
    (s.mod.pstate ≠ 3 → byOwner s r → s.extentOk e lo hi = true → ∃ x : State, Written i s x ∧
      x = { s with mem := x.mem, fns := finsert s.fns e { f with
        extBase := lo, extLim := hi, ptNext := if hi = f.extLim then max lo f.ptNext else hi } } ∧
      x.mem.sram = s.mem.sram ∧ x.mem.ws = s.mem.ws ∧ x.mem.host = s.mem.host ∧
      (f.extBase ≤ f.extLim → gained s.mem.hbm x.mem.hbm 0 0 lo hi f.extBase f.extLim))) ∧
  (∀ (r : Req) (ctl : Nat) (s : State), r.fn < 32 → s.mod.pstate ≠ 3 →
    let b := fget s.fns FnBlock.init r.fn
    let dir : Bool := ctl.testBit 1
    let i (d : Bool) : Instr := if d then .driverCopyToHost r ctl else .driverCopyToDevice r ctl
    let reserved : Prop := ∃ n, ctl.testBit n = true ∧ n ∉ [0, 1, 2, 3, 8, 9, 10, 11, 12, 13, 16, 17, 18, 19, 20, 21, 22, 23, 24, 25, 26, 27]
    Completes (i (!dir)) s s ∧
    (reserved ∨ b.dcst % 4 = 1 → Written (i dir) s (ignored s r.fn r.fn 0x98)) ∧
    (¬ reserved → b.dcst % 4 ≠ 1 → ctl.testBit 0 = false → Written (i dir) s s) ∧
    (¬ reserved → b.dcst % 4 ≠ 1 → ctl.testBit 0 = true →
      Written (i dir) s (putFn s r.fn { b with dcctl := ctl, dcst := 1, dcdone := 0, dcrun := [b.dcbus, b.dcdev, b.dclen] })) ∧
    Written (.fqdropClear r) s (putFn s r.fn { b with fqdrop := 0 }) ∧
    Written (.errlogClear r) s (putFn s r.fn { b with errlog := 0 }) ∧
    (∀ v < 2 ^ 64,
      Written (.registerWrite r 0x000 v) s (putFn s r.fn (if v % 4096 = 0 then { b with fqbase := v } else b)) ∧
      Written (.registerWrite r 0x008 v) s (putFn s r.fn (if 4 ≤ v ∧ v ≤ 16 then { b with fqlog2 := v } else b)) ∧
      Written (.registerWrite r 0x010 v) s (putFn s r.fn { b with fqhead := v % 2 ^ 32 }) ∧
      Written (.registerWrite r 0x080 v) s (putFn s r.fn { b with dcbus := v }) ∧
      Written (.registerWrite r 0x088 v) s (putFn s r.fn { b with dcdev := v }) ∧
      Written (.registerWrite r 0x090 v) s (putFn s r.fn (if 1 ≤ v ∧ v < 2 ^ 32 then { b with dclen := v } else b)))) ∧
  (∀ (r : Req) (off v : Nat) (s : State), 0x1000 ≤ off → off < 0x10000 → v < 2 ^ 64 →
    (32 ≤ r.fn ∨ s.mod.pstate = 3 → Completes (.registerWrite r off v) s s) ∧
    (0 < r.fn → r.fn < 32 → s.mod.pstate ≠ 3 → Written (.registerWrite r off v) s s) ∧
    (r.fn = 0 → s.mod.pstate ≠ 3 → ¬ byOwner s r → Written (.registerWrite r off v) s (ignored s 0 0 off)) ∧
    (s.mod.pstate ≠ 3 → byOwner s r →
      (∀ lo hi m, rangedRegister s.mod off v = some (lo, hi, m) →
        Written (.registerWrite r off v) s (if lo ≤ v ∧ v ≤ hi then { s with mod := m } else s)) ∧
      (off = 0x1208 → v < 2 ^ 18 → ∃ x : State, Written (.registerWrite r off v) s x ∧ x = { s with mod := { s.mod with porten := v }, ports := x.ports } ∧
        ∀ p < 18, portOf x p = { portOf s p with
          state := if v.testBit p = false then 0 else if (portOf s p).state = 0 ∧ s.mod.idset = true then 1 else (portOf s p).state }) ∧
      (off = 0x1208 → 2 ^ 18 ≤ v → ∃ x : State, Written (.registerWrite r off v) s x ∧ x.mod = s.mod) ∧
      (∀ n < 2, off = 0x1090 + 8 * n → ∃ f : BitVec 128, Written (.registerWrite r off v) s { s with mod := { s.mod with featreq := f } } ∧
        ∀ b < 128, f.getLsbD b = if 64 * n ≤ b ∧ b < 64 * n + 64 then v.testBit (b - 64 * n) else s.mod.featreq.getLsbD b) ∧
      (∀ n < 8, off = 0x1600 + 8 * n → ∃ f : BitVec 512, Written (.registerWrite r off v) s { s with mod := { s.mod with attnonce := f } } ∧
        ∀ b < 512, f.getLsbD b = if 64 * n ≤ b ∧ b < 64 * n + 64 then v.testBit (b - 64 * n) else s.mod.attnonce.getLsbD b) ∧
      (off = 0x1218 → v ≤ 17 ∨ v = 0xFF → ∃ x : State, Written (.registerWrite r off v) s x ∧ x = { s with route := x.route, out := x.out } ∧
        fget x.route 0xFF s.mod.rtidx = v ∧ ∀ m, m ≠ s.mod.rtidx → fget x.route 0xFF m = fget s.route 0xFF m))) ∧
  (∀ (fn k : Nat) (s : State), k < 64 → ((s.ctxMask fn).getLsbD k = true ↔ ∃ c, (k, c) ∈ s.ctxs ∧ c.fn = fn))

namespace Sys2Proof.Spec

/-- The writes of the module block that have rows of their own: who, and the offset (R367). CLAIM is open to any host. -/
def moduleWrite (i : Instr) : Option (Req × Nat) :=
  match i with
  | .handover r _ => some (r, 0x1050)
  | .beat r => some (r, 0x1060)
  | .featgo r => some (r, 0x10B0)
  | .fwgo r => some (r, 0x1028)
  | .attgo r => some (r, 0x1648)
  | .modidWrite r _ => some (r, 0x1200)
  | .pstateOff r => some (r, 0x1120)
  | _ => none

/-- No task holds an array, and no engine command is outstanding (R374). -/
def Idle (s : State) : Prop := (∀ e ∈ s.tasks, e.2.ctl.bound = false) ∧ s.eng.cmds = []

/-- The condition of P2 (R374). -/
def DeepIdle (s : State) : Prop :=
  Idle s ∧ (∀ e ∈ s.ctxs, e.2.live = true → ∀ q ∈ e.2.queues, q.2.cmpl = q.2.tail) ∧ s.feat 6 = true ∧ s.mod.flitAt + 1000 ≤ s.ram.tick ∧
  40 ≤ s.mod.ltol

/-- `s` with module block `m`. -/
def putMod (s : State) (m : ModRegs) : State := { s with mod := m }

/-- The module has stopped: every context that lived has ended, and no head issues (R359). -/
def Stopped (s x : State) : Prop :=
  x.part = { s.part with stopped := true } ∧ (∀ k, (x.ctx k).live = false) ∧
  (∀ e, e ∈ x.tasks ↔ e ∈ s.tasks ∧ ∀ z ∈ s.ctxs, z.2.live = true → e.2.id.ctx ≠ z.1) ∧ x.mem.ws = s.mem.ws

/-- Steps between two coded positions of the 5×5 placement. -/
def distance (a b : Nat) : Nat := (a / 16 - b / 16) + (b / 16 - a / 16) + (a % 16 - b % 16) + (b % 16 - a % 16)

/-- R18, R20: `pos` and `hidden` fill the 5×5 placement; consecutive dies are neighbours, but for one long seam exactly when the hidden die's
x + y is odd, whose two dies have `via` between them. -/
def RemapRules (pos : List Nat) (hidden long via : Nat) : Prop :=
  let at_ (d : Nat) : Nat := pos.getD d 0
  pos.length = 24 ∧ (∀ x < 5, ∀ y < 5, 16 * x + y ∈ hidden :: pos) ∧
  (if (hidden / 16 + hidden % 16) % 2 = 0 then long = 0xFF ∧ via = 0xFF ∧ ∀ d < 23, distance (at_ d) (at_ (d + 1)) = 1
   else long < 23 ∧ via < 24 ∧ (∀ d < 23, distance (at_ d) (at_ (d + 1)) = 1 ↔ d ≠ long) ∧
     distance (at_ long) (at_ via) = 1 ∧ distance (at_ via) (at_ (long + 1)) = 1)

end Sys2Proof.Spec

open Sys2Proof Sys2Proof.Machine Sys2Proof.Spec

/-- R368 to R370, R373, R374, R376: the module block. Ownership, its lease and hand-over; the features fixed once; reload, attestation and
identity; link training. Ticks of 1 µs are log entry 7; whether an attestation fails is a free value (13); that P3 loses HBM4E is log entry
3, that it keeps the image 66. -/
def Sys2Proof.Spec.Ownership : Prop :=
  (∀ (i : Instr) (r : Req) (off : Nat) (s : State), moduleWrite i = some (r, off) →
    (32 ≤ r.fn ∨ s.mod.pstate = 3 → Completes i s s) ∧
    (0 < r.fn → r.fn < 32 → s.mod.pstate ≠ 3 → Written i s s) ∧
    (r.fn = 0 → s.mod.pstate ≠ 3 → ¬ byOwner s r → Written i s (ignored s 0 0 off))) ∧
  (∀ (r : Req) (s : State), s.mod.pstate ≠ 3 → byOwner s r →
    let m := s.mod
    (∀ n, Written (.handover r n) s (putMod s { m with owner := n % 2 ^ 16, beat := s.ram.tick })) ∧
    Written (.beat r) s (putMod s { m with beat := s.ram.tick }) ∧
    Written (.featgo r) s (if m.featgo then s else putMod s { m with featneg := m.featoff &&& m.featreq, featgo := true }) ∧
    Written (.attgo r) s (if m.attbusy then s else putMod s { m with attbusy := true, attst := 0 }) ∧
    (∀ v, Written (.modidWrite r v) s
      (if m.porten = 0 ∧ v % 2 ^ 63 < 2 ^ 19 then putMod s { m with modid := v % 2 ^ 19, idset := true } else s)) ∧
    (∃ x : State, Written (.fwgo r) s x ∧ (∀ k, (x.ctx k).live = false) ∧
      x.mod = { m with bootstat := 2, image := x.mod.image } ∧
      (m.fwaddr + m.fwlen ≤ 2 ^ 64 → x.mod.image = some ⟨m.fwlen, rdNat s.mem.host m.fwaddr m.fwlen⟩) ∧
      (∀ e, e ∈ x.tasks ↔ e ∈ s.tasks ∧ ∀ z ∈ s.ctxs, z.2.live = true → e.2.id.ctx ≠ z.1) ∧ x.mem.ws = s.mem.ws) ∧
    (∃ x : State, Completes (.pstateOff r) s x ∧ x.mod = { ModRegs.reset with pstate := 3, image := m.image } ∧ x.tasks = [] ∧ x.ctxs = [] ∧
      x.mem.sram = [] ∧ x.mem.ws = [] ∧ x.mem.hbm = [] ∧ x.mem.host = s.mem.host ∧ x.eng = Engines.reset)) ∧
  (∀ (r : Req) (s : State), r.fn < 32 → s.mod.pstate ≠ 3 →
    let may : Prop := r.fn = 0 ∧ (s.mod.bootstat = 5 ∨ s.mod.bootstat = 0x83) ∧ s.mod.ownerValid = false
    (¬ may → Written (.claim r) s s) ∧
    (may → Written (.claim r) s (putMod s { s.mod with ownerValid := true, owner := r.rid % 2 ^ 16, beat := s.ram.tick }))) ∧
  (∀ s : State,
    let m := s.mod
    Completes .leaseExpire s
      (if m.ownerValid = true ∧ m.beat + m.lease * 1000000 ≤ s.ram.tick then putMod s { m with ownerValid := false } else s) ∧
    (m.attbusy = false → Completes .attestationComplete s s) ∧
    (m.attbusy = true → Config.attestFails s.free = true → Completes .attestationComplete s (putMod s { m with attst := 2, attbusy := false })) ∧
    (m.attbusy = true → Config.attestFails s.free = false → ∃ x : State, Completes .attestationComplete s x ∧
      x = { putMod s { m with attst := 1, attbusy := false } with mem := { s.mem with host := x.mem.host } } ∧
      (m.attaddr + 768 ≤ 2 ^ 64 → (∀ a, a < m.attaddr ∨ m.attaddr + 768 ≤ a → rdByte x.mem.host a = rdByte s.mem.host a) ∧
      rdNat x.mem.host m.attaddr 64 = m.attnonce.toNat ∧
      rdNat x.mem.host (m.attaddr + 64) 64 = Config.imageDigest (m.image.getD Config.builtImage) % 2 ^ 512 ∧
      rdNat x.mem.host (m.attaddr + 128) 8 = m.fwver.toNat ∧
      rdNat x.mem.host (m.attaddr + 136) 8 = m.serial.toNat ∧ rdNat x.mem.host (m.attaddr + 160) 16 = m.featneg.toNat)) ∧
    (∀ p (q : Peer),
      let o := portOf s p
      let on : Prop := p < 18 ∧ m.idset = true ∧ m.porten.testBit p = true ∧ o.state ≠ 2
      (¬ on → Completes (.portTraining p q) s s) ∧
      (on → Completes (.portTraining p q) s (putPort s p (if q.up
        then { o with state := 2, peerMod := q.module % 2 ^ 19, peerPort := q.port % 2 ^ 5 } else { o with state := 0 })))))

/-- R18, R20, R21, R371 to R373: bring-up, step by step, each reported in BOOTSTAT before the next begins: the self-test, the image's
signature and version, the training of the mesh and HBM4E, the clearing, READY; and what each failing step reports. The remap is fused:
no reset changes it, and a loaded image is kept (log entry 66). What a self-test or a training finds is an input, a reset can come at any
time (41), and one by the host keeps HBM4E and host memory (3). -/
def Sys2Proof.Spec.BringUp : Prop :=
  ∀ (b : BootResult) (s : State),
    let m := s.mod
    let step (x : State) : Prop := Completes (.resetRelease b) s x
    let at_ (n : Nat) : State := putMod s { m with bootstat := n }
    (b.fresh = true → ∃ x : State, step x ∧ x.ctxs = [] ∧ x.tasks = [] ∧ x.eng = Engines.reset ∧ x.mem.hbm = s.mem.hbm ∧
      x.mem.host = s.mem.host ∧ x.part = State.reset.part ∧
      x.mod = { ModRegs.reset with bootstat := 1, serial := BitVec.ofNat 64 Config.serial, image := m.image }) ∧
    (b.fresh = false →
      (m.bootstat = 1 → b.bist % 2 ^ 24 = 0 → step (at_ 2)) ∧
      (m.bootstat = 1 → b.bist % 2 ^ 24 ≠ 0 → ∃ x, step x ∧ x = { at_ 0x81 with part := x.part } ∧ x.part.bist = b.bist % 2 ^ 24) ∧
      (let image := m.image.getD Config.builtImage
       let good : Prop := Config.imageSigned image = true ∧ Config.minVersion ≤ Config.imageVersion image % 2 ^ 32
       (m.bootstat = 2 → good → step (putMod s { m with bootstat := 3, fwver := BitVec.ofNat 64 (Config.imageVersion image) })) ∧
       (m.bootstat = 2 → ¬ good → step (at_ 0x83))) ∧
      (m.bootstat = 3 → b.meshOk = false → step (at_ 0x84)) ∧
      (m.bootstat = 3 → b.meshOk = true → b.hbmOk = false → step (at_ 0x82)) ∧
      (m.bootstat = 3 → b.meshOk = true → b.hbmOk = true → ∃ x, step x ∧ x = { at_ 4 with part := { s.part with seamlat := x.part.seamlat } } ∧
        x.part.seamlat.length = 48 ∧ ∀ n < 48, x.part.seamlat.getD n 0 = if n = 0 then 0 else if n % 2 = 1 then 2
          else if distance (theRemap.pos.getD (n / 2 - 1) 0) (theRemap.pos.getD (n / 2) 0) = 1 then 36 else 80) ∧
      (m.bootstat = 4 → ∃ x, step x ∧ x.mod = { m with bootstat := 5 } ∧ x.mem.sram = [] ∧ x.mem.ws = [] ∧ x.mem.hbm = s.mem.hbm ∧
        x.scrub = [] ∧ x.part.diepos = theRemap.pos ∧ x.part.hidden = theRemap.hidden ∧ x.part.bist = s.part.bist ∧
        RemapRules x.part.diepos x.part.hidden x.part.longseam x.part.via) ∧
      (m.bootstat = 0 ∨ 4 < m.bootstat → step s))

/-- R359, R374, R375: power states, throttling and the ways the module stops. TEMP is a free value within what throttling and the stop
allow, and a BAR0 read, which starts an exit, a free one too (log entry 42); who receives the record of a module stop is log entry 40. -/
def Sys2Proof.Spec.Power : Prop :=
  ∀ s : State,
    let m := s.mod
    let at_ (n : Nat) (throttle : Bool) : State := { putMod s { m with temp := n } with part := { s.part with throttle := throttle } }
    (∀ p, Completes (.powerStateEnter p) s s ∨ Completes (.powerStateEnter p) s (putMod s { m with pstate := p })) ∧
    (m.pstate < 2 → m.waking = false → DeepIdle s → Completes (.powerStateEnter 2) s (putMod s { m with pstate := 2 })) ∧
    (m.pstate = 0 → m.waking = false → Idle s → 2 ≤ m.ltol → ¬ DeepIdle s →
      Completes (.powerStateEnter 1) s (putMod s { m with pstate := 1 })) ∧
    (¬ Idle s ∨ m.waking = true → ∀ p, Completes (.powerStateEnter p) s s) ∧
    Completes .powerStateExit s (if (m.pstate = 1 ∨ m.pstate = 2) ∧ (m.waking = true ∨ Config.barRead s.free = true)
      then putMod s { m with pstate := 0, waking := false } else s) ∧
    (∃ T, Completes .powerThrottle s (at_ T true) ∧ if s.part.stopped then T = m.temp else T < 115) ∧
    (∃ T, Completes .powerFallsBack s (at_ T false) ∧ if s.part.stopped then T = m.temp else T < 105) ∧
    (s.part.stopped = true → Completes .overtempStop s s ∧ ∀ code, Completes (.moduleStop code) s s) ∧
    (s.part.stopped = false →
      (∃ x, Completes .overtempStop s x ∧ Stopped s x ∧ x.mod = { m with temp := x.mod.temp } ∧ 115 ≤ x.mod.temp) ∧
      ∀ code, (code = 0xBB ∨ code = 0xBE → ∃ x, Completes (.moduleStop code) s x ∧ Stopped s x ∧ x.mod = m) ∧
        (code ≠ 0xBB → code ≠ 0xBE → Completes (.moduleStop code) s s))

/-- The module as a whole: its ownership and identity, its bring-up, its power states and its stops. -/
def Obligations.ModuleEvents : Prop := Ownership ∧ BringUp ∧ Power

/-- R362, R367, R371: what reset leaves, as the tables of the two register blocks give it; nothing is bound, queued or cached, no context lives and
the memories of the dies read zero, though BOOTSTAT is 0 (log entry 3). -/
def Obligations.ResetValues : Prop :=
  let s := State.reset
  let m := s.mod
  (m.bootstat = 0 ∧ m.ownerValid = false ∧ m.owner = 0 ∧ m.lease = 10 ∧ m.featreq = 0 ∧ m.featneg = 0 ∧ m.featgo = false ∧ m.tslice = 2000 ∧
    m.bquant = 50 ∧ m.scrubper = 24 ∧ m.ltol = 0 ∧ m.pstate = 0 ∧ m.plim = 24000 ∧ m.modid = 0 ∧ m.idset = false ∧ m.porten = 0 ∧
    m.fwaddr = 0 ∧ m.fwlen = 0 ∧ m.attnonce = 0 ∧ m.attaddr = 0 ∧ m.attst = 0) ∧
  (∀ fn, let b := fget s.fns FnBlock.init fn
    b.fqbase = 0 ∧ b.fqlog2 = 4 ∧ b.fqhead = 0 ∧ b.fqtail = 0 ∧ b.fqdrop = 0 ∧ b.errlog = 0 ∧ b.extBase = 0 ∧ b.extLim = 0) ∧
  (∀ fn, s.ctxMask fn = 0) ∧ m.waking = false ∧
  (∀ k, (s.ctx k).live = false) ∧ s.tasks = [] ∧ s.eng.cmds = [] ∧ s.ram.sets = [] ∧
  (∀ a, rdByte s.mem.sram a = 0 ∧ rdByte s.mem.ws a = 0) ∧ (∀ stack, (fget s.scrub default stack).corrected = 0)

/-- The state after reset has the forms that every step keeps: memories in canonical form, the features negotiated among those offered,
and the registers of the module block in their ranges (R367, R369). -/
def Obligations.ResetHasTheForms : Prop := State.reset.MemOk ∧ State.reset.FeatOk ∧ State.reset.RangesOk

/-- Every step keeps, whatever moves, the canonical form of the memories, the features negotiated among those offered, and the ranges
of the registers of the module block. It holds of every state, not only of those a run reaches. -/
def Obligations.EveryStepKeepsTheForms : Prop :=
  ∀ s s' : State, s.MemOk → s.FeatOk → s.RangesOk → step s = .next s' → s'.MemOk ∧ s'.FeatOk ∧ s'.RangesOk

/-! ## Encoding -/

/-- The worked example of 03_encoding.md as memory holds it, bits 63:0 lowest, and slot values of other worked examples, decode to the
operations and operands that the spec names beside them. -/
def Obligations.ExampleWordsDecode : Prop :=
  let b : Bundle := BitVec.ofNat 512 (0x20104F0000800253 + 0x000040281FFFFFF8 * 2 ^ 64 + 0xFE40000000000000 * 2 ^ 128 +
    0x000010211F00700F * 2 ^ 192 + 0x00C0000000000000 * 2 ^ 256 + 0x0000000004048110 * 2 ^ 320)
  decodeSlot .h (slotBits b .h) = .ok (.selection 2 5 3) ∧
  decodeSlot .sa (slotBits b .sa) = .ok (.addi .sa ⟨4, 4, 15, 0, 128⟩) ∧
  decodeSlot .sb (slotBits b .sb) = .ok (.br ⟨2, 1, 0, 0x1FFFFFF8⟩) ∧
  decodeSlot .v0 (slotBits b .v0) = .ok (.vfadd .v0 ⟨2, 0, 8, 31, 0, 7, 7, 2041, 0⟩) ∧
  decodeSlot .x (slotBits b .x) = .ok (.ldv ⟨9, 17, 0, 0, 3, 0, 0⟩) ∧
  (∀ k ∈ [Slot.m, .v1, .ld, .st, .e], slotBits b k = 0) ∧ decodeSlot .m 0 = .ok .nopM ∧ decodeSlot .e 0 = .ok .nopE ∧
  decodeSlot .sb 0x600C0F050000 = .ok (.twait ⟨3, 0, 15, 0, 5, 0⟩) ∧
  decodeSlot .sb 0x64000F220001 = .ok (.radv ⟨0, 0, 15, 0, 0x22, 1⟩) ∧
  decodeSlot .sb 0x65004F000011 = .ok (.semw ⟨0, 4, 15, 0, 0, 17⟩) ∧
  decodeSlot .sb 0x67000F010000 = .ok (.bar ⟨0, 0, 15, 0, 1, 0⟩) ∧
  decodeSlot .sb 0x6B114F000000 = .ok (.launch ⟨4, 20, 15, 0, 0, 0⟩) ∧
  decodeSlot .sb 0x58000F000007 = .ok (.trap ⟨0, 0, 15, 0, 0, 7⟩) ∧
  decodeSlot .sb 0x45F01FFFFFFD = .ok (.loop ⟨15, 0, 0, 0x1FFFFFFD⟩) ∧
  decodeSlot .ld 0x022040000002 = .ok (.eldn ⟨8, 1, 0, 0, 0, 0, 0, 2⟩) ∧
  decodeSlot .st 0x0430B0860000 = .ok (.epop ⟨12, 2, 3, 1, 0, 3, 0, 0⟩) ∧
  decodeSlot .e 0x4260617FFCA6 = .ok (.nmgs ⟨24, 6, 5, 63, 63, 2, 1, 0, 3, 0⟩) ∧
  decodeSlot .e 0x50401FFFFC86 = .ok (.pksel ⟨16, 1, 63, 63, 63, 2, 0, 0, 3, 0⟩) ∧
  decodeSlot .e 0x10501FFFFC46 = .ok (.cpy ⟨20, 1, 63, 63, 63, 1, 0, 0, 3, 0⟩) ∧
  decodeSlot .cc 0xF000 = .ok .rbpop ∧ ccOps 0xF000 = [.rbpop, .rotCc, .sshift 3]

/-- R67 to R85: every well-formed instruction that has an encoding fits its slot, stands in its own bits of a bundle, and is what the
decoder reads from them, with every operand at every value the encoding admits; `vxpool` reads back as the one row its opcode
names. Every instruction of a slot has an encoding. -/
def Obligations.DecodeOfEncode : Prop :=
  ∀ i : Instr, i.wf = true → (isEvent i = false → (encode i).isSome) ∧
    ∀ k w, encode i = some (k, w) → w < 2 ^ k.width ∧ slotBits (bundleOf i) k = w ∧ (∀ j, j ≠ k → slotBits (bundleOf i) j = 0) ∧
      decodeSlot k w = .ok i.asDecoded
end

