-- ==== Sys2Proof/Laws/FMap.lean ====
section
/-! SUPPORT. Sys2Proof/Laws/FMap.lean: the laws of tables and memories: what a read gives after a write, that a write leaves the
rest alone, and that every memory operation keeps the canonical form. -/
namespace Sys2Proof.Machine

section Tables
variable {α : Type}

@[simp] theorem fget_nil (d : α) (k : Nat) : fget [] d k = d := rfl
@[simp] theorem fget?_nil (k : Nat) : fget? ([] : FMap α) k = none := rfl

theorem fget_cons (e : Nat × α) (m : FMap α) (d : α) (k : Nat) : fget (e :: m) d k = if e.1 = k then e.2 else fget m d k := by
  cases e; rfl

theorem fget?_cons (e : Nat × α) (m : FMap α) (k : Nat) : fget? (e :: m) k = if e.1 = k then some e.2 else fget? m k := by
  cases e; rfl

theorem fget_eq_getD (m : FMap α) (d : α) (k : Nat) : fget m d k = (fget? m k).getD d := by
  induction m with
  | nil => rfl
  | cons e m ih => rw [fget_cons, fget?_cons, ih]; split <;> rfl

theorem finsert_cons (e : Nat × α) (m : FMap α) (k : Nat) (v : α) :
    finsert (e :: m) k v = if k < e.1 then (k, v) :: e :: m else if e.1 = k then (k, v) :: m else e :: finsert m k v := by
  cases e; rfl

theorem ferase_cons (e : Nat × α) (m : FMap α) (k : Nat) :
    ferase (e :: m) k = if e.1 = k then ferase m k else e :: ferase m k := by
  cases e; rfl

@[simp] theorem fget?_finsert_same (m : FMap α) (k : Nat) (v : α) : fget? (finsert m k v) k = some v := by
  induction m with
  | nil => simp [finsert, fget?]
  | cons e m ih =>
    rw [finsert_cons]
    split
    · simp [fget?_cons]
    · split
      · simp [fget?_cons]
      · rename_i h; simp [fget?_cons, h, ih]

theorem fget?_finsert_other (m : FMap α) (k j : Nat) (v : α) (h : j ≠ k) : fget? (finsert m k v) j = fget? m j := by
  induction m with
  | nil => simp [finsert, fget?, h.symm]
  | cons e m ih =>
    rw [finsert_cons]
    split
    · rw [fget?_cons]; simp [h.symm]
    · split
      · rename_i h2; rw [fget?_cons, fget?_cons]; simp [h2, h.symm]
      · rw [fget?_cons, fget?_cons, ih]

@[simp] theorem fget_finsert_same (m : FMap α) (d : α) (k : Nat) (v : α) : fget (finsert m k v) d k = v := by
  rw [fget_eq_getD, fget?_finsert_same]; rfl

theorem fget_finsert_other (m : FMap α) (d : α) (k j : Nat) (v : α) (h : j ≠ k) : fget (finsert m k v) d j = fget m d j := by
  rw [fget_eq_getD, fget_eq_getD, fget?_finsert_other _ _ _ _ h]

theorem fget_finsert (m : FMap α) (d : α) (k j : Nat) (v : α) : fget (finsert m k v) d j = if j = k then v else fget m d j := by
  split
  · subst j; simp
  · exact fget_finsert_other _ _ _ _ _ ‹_›

@[simp] theorem fget?_ferase_same (m : FMap α) (k : Nat) : fget? (ferase m k) k = none := by
  induction m with
  | nil => rfl
  | cons e m ih => rw [ferase_cons]; split <;> simp_all [fget?_cons]

theorem fget?_ferase_other (m : FMap α) (k j : Nat) (h : j ≠ k) : fget? (ferase m k) j = fget? m j := by
  induction m with
  | nil => rfl
  | cons e m ih =>
    rw [ferase_cons]
    split
    · rename_i h2; rw [fget?_cons, ih]; simp [h2, h.symm]
    · rw [fget?_cons, fget?_cons, ih]

/-- Inserting twice under one number leaves the later value alone. -/
@[simp] theorem finsert_finsert_same (m : FMap α) (k : Nat) (v w : α) : finsert (finsert m k v) k w = finsert m k w := by
  induction m with
  | nil => simp [finsert]
  | cons e m ih =>
    rw [finsert_cons, finsert_cons]
    split
    · simp [finsert_cons]
    · split
      · simp [finsert_cons]
      · rename_i h h2; simp [finsert_cons, h, h2, ih]

variable [DecidableEq α]

theorem fget_fset (m : FMap α) (d : α) (k j : Nat) (v : α) : fget (fset m d k v) d j = if j = k then v else fget m d j := by
  unfold fset
  split
  · rename_i h
    rw [fget_eq_getD]
    split
    · rename_i h2; subst j; simp [h]
    · rename_i h2; rw [fget?_ferase_other _ _ _ h2, ← fget_eq_getD]
  · exact fget_finsert _ _ _ _ _

@[simp] theorem fget_fset_same (m : FMap α) (d : α) (k : Nat) (v : α) : fget (fset m d k v) d k = v := by
  rw [fget_fset]; simp

theorem fget_fset_other (m : FMap α) (d : α) (k j : Nat) (v : α) (h : j ≠ k) : fget (fset m d k v) d j = fget m d j := by
  rw [fget_fset]; simp [h]

/-! ## The canonical form -/

/-- The first number, if there is one, lies above `lo`. -/
def above (lo : Option Nat) (k : Nat) : Bool := match lo with | none => true | some l => decide (l < k)

theorem fwfFrom_cons (d : α) (lo : Option Nat) (e : Nat × α) (m : FMap α) :
    fwfFrom d lo (e :: m) = (above lo e.1 && decide (e.2 ≠ d) && fwfFrom d (some e.1) m) := by
  cases e; cases lo <;> rfl

theorem fwfFrom_weaken (d : α) (m : FMap α) : ∀ (lo : Option Nat) (k : Nat), above lo k = true → fwfFrom d (some k) m = true →
    fwfFrom d lo m = true := by
  cases m with
  | nil => intros; rfl
  | cons e m =>
    intro lo k hl h
    rw [fwfFrom_cons] at h ⊢
    cases lo <;> simp_all [above]; omega

theorem fwfFrom_finsert (d : α) (k : Nat) (v : α) (hv : v ≠ d) (m : FMap α) : ∀ lo, above lo k = true →
    fwfFrom d lo m = true → fwfFrom d lo (finsert m k v) = true := by
  induction m with
  | nil => intro lo hl _; show fwfFrom d lo [(k, v)] = true; rw [fwfFrom_cons]; simp [hl, hv]; rfl
  | cons e m ih =>
    intro lo hl h
    rw [fwfFrom_cons] at h
    simp only [Bool.and_eq_true, decide_eq_true_eq] at h
    obtain ⟨⟨h1, h2⟩, h3⟩ := h
    rw [finsert_cons]
    split
    · rename_i hk; rw [fwfFrom_cons, fwfFrom_cons, hl, h3, show above (some k) e.1 = true from by simpa [above] using hk]; simp [hv, h2]
    · split
      · rename_i hk; subst hk; rw [fwfFrom_cons]; simp [hl, hv, h3]
      · rename_i hk hk2
        rw [fwfFrom_cons]
        simp only [h1, h2, ne_eq, not_false_eq_true, decide_true, Bool.true_and]
        exact ih (some e.1) (by simp [above]; omega) h3

theorem fwfFrom_ferase (d : α) (k : Nat) (m : FMap α) : ∀ lo, fwfFrom d lo m = true → fwfFrom d lo (ferase m k) = true := by
  induction m with
  | nil => intros; rfl
  | cons e m ih =>
    intro lo h
    rw [fwfFrom_cons] at h
    simp only [Bool.and_eq_true] at h
    rw [ferase_cons]
    split
    · exact fwfFrom_weaken d _ lo e.1 h.1.1 (ih _ h.2)
    · rw [fwfFrom_cons]; simp only [h.1.1, h.1.2, ih _ h.2, Bool.and_self]

theorem fwfFrom_filter (d : α) (p : Nat × α → Bool) (m : FMap α) : ∀ lo, fwfFrom d lo m = true → fwfFrom d lo (m.filter p) = true := by
  induction m with
  | nil => intros; rfl
  | cons e m ih =>
    intro lo h
    rw [fwfFrom_cons] at h
    simp only [Bool.and_eq_true] at h
    rw [List.filter_cons]
    split
    · rw [fwfFrom_cons]; simp only [h.1.1, h.1.2, ih _ h.2, Bool.and_self]
    · exact fwfFrom_weaken d _ lo e.1 h.1.1 (ih _ h.2)

/-- A write keeps the canonical form: writing the unlisted value takes the entry out. -/
theorem fwf_fset (d : α) (m : FMap α) (k : Nat) (v : α) (h : fwf d m = true) : fwf d (fset m d k v) = true := by
  unfold fset
  split
  · exact fwfFrom_ferase d k m none h
  · exact fwfFrom_finsert d k v ‹_› m none rfl h

end Tables

/-! ## Memories -/

theorem wf_nil : Mem.wf [] = true := rfl

/-- Writing a byte keeps the canonical form. -/
theorem wf_wrByte (m : Mem) (a : Nat) (b : Byte) (h : m.wf = true) : (wrByte m a b).wf = true := fwf_fset _ _ _ _ h

/-- Writing a number keeps the canonical form. -/
theorem wf_wrNat (n : Nat) : ∀ (m : Mem) (a v : Nat), m.wf = true → (wrNat m a n v).wf = true := by
  induction n with
  | zero => intro m a v h; exact h
  | succ n ih => intro m a v h; exact ih _ _ _ (wf_wrByte _ _ _ h)

/-- Clearing a range keeps the canonical form. -/
theorem wf_wrZero (m : Mem) (lo hi : Nat) (h : m.wf = true) : (wrZero m lo hi).wf = true := fwfFrom_filter _ _ _ none h

@[simp] theorem rdByte_nil (a : Nat) : rdByte [] a = 0 := rfl

theorem rdByte_wrByte (m : Mem) (a x : Nat) (b : Byte) : rdByte (wrByte m a b) x = if x = a then b else rdByte m x := fget_fset _ _ _ _ _

/-- After a number has been written, its bytes read as its digits, and every other byte as before (R9). -/
theorem rdByte_wrNat (n : Nat) : ∀ (m : Mem) (a v x : Nat), rdByte (wrNat m a n v) x =
    if a ≤ x ∧ x < a + n then BitVec.ofNat 8 (v / 256 ^ (x - a)) else rdByte m x := by
  induction n with
  | zero => intro m a v x; simp [wrNat]
  | succ n ih =>
    intro m a v x
    rw [wrNat, ih, rdByte_wrByte]
    by_cases hx : x = a
    · subst hx; simp
    · by_cases h : a ≤ x ∧ x < a + (n + 1)
      · have h1 : a + 1 ≤ x ∧ x < a + 1 + n := by omega
        obtain ⟨k, hk⟩ : ∃ k, x - a = k + 1 := ⟨x - a - 1, by omega⟩
        simp only [if_pos h1, if_pos h]
        rw [show x - (a + 1) = k by omega, hk, pow_succ', Nat.div_div_eq_div_mul]
      · have h1 : ¬ (a + 1 ≤ x ∧ x < a + 1 + n) := by omega
        simp only [if_neg h1, if_neg h, if_neg hx]

/-- Reading outside what was written gives what stood there. -/
theorem rdNat_wrNat_apart (k : Nat) : ∀ (m : Mem) (a n v x : Nat), x + k ≤ a ∨ a + n ≤ x → rdNat (wrNat m a n v) x k = rdNat m x k := by
  induction k with
  | zero => intros; rfl
  | succ k ih =>
    intro m a n v x h
    rw [rdNat, rdNat, ih _ _ _ _ _ (by omega), rdByte_wrNat, if_neg (by omega)]

/-- Reading the number just written gives it back, as far as it fits. -/
theorem rdNat_wrNat_same (n : Nat) : ∀ (m : Mem) (a v : Nat), rdNat (wrNat m a n v) a n = v % 256 ^ n := by
  induction n with
  | zero => intro m a v; rw [pow_zero, Nat.mod_one]; rfl
  | succ n ih =>
    intro m a v
    rw [rdNat, wrNat, ih, rdByte_wrNat, if_neg (by omega), rdByte_wrByte, if_pos rfl, pow_succ', Nat.mod_mul]; rfl

end Sys2Proof.Machine
end

