-- ==== Sys2Proof/Laws/State.lean ====
section
/-! SUPPORT. Sys2Proof/Laws/State.lean: what each named update of the state leaves in each field. -/
namespace Sys2Proof.Machine

/-! ## modCtx -/

@[simp] theorem modCtx_mem (s : State) (c : Nat) (f : Ctx → Ctx) : (s.modCtx c f).mem = s.mem := rfl
@[simp] theorem modCtx_mod (s : State) (c : Nat) (f : Ctx → Ctx) : (s.modCtx c f).mod = s.mod := rfl
@[simp] theorem modCtx_part (s : State) (c : Nat) (f : Ctx → Ctx) : (s.modCtx c f).part = s.part := rfl
@[simp] theorem modCtx_fns (s : State) (c : Nat) (f : Ctx → Ctx) : (s.modCtx c f).fns = s.fns := rfl
@[simp] theorem modCtx_ctxs (s : State) (c : Nat) (f : Ctx → Ctx) : (s.modCtx c f).ctxs = finsert s.ctxs c (f (s.ctx c)) := rfl
@[simp] theorem modCtx_parts (s : State) (c : Nat) (f : Ctx → Ctx) : (s.modCtx c f).parts = s.parts := rfl
@[simp] theorem modCtx_route (s : State) (c : Nat) (f : Ctx → Ctx) : (s.modCtx c f).route = s.route := rfl
@[simp] theorem modCtx_ports (s : State) (c : Nat) (f : Ctx → Ctx) : (s.modCtx c f).ports = s.ports := rfl
@[simp] theorem modCtx_out (s : State) (c : Nat) (f : Ctx → Ctx) : (s.modCtx c f).out = s.out := rfl
@[simp] theorem modCtx_scrub (s : State) (c : Nat) (f : Ctx → Ctx) : (s.modCtx c f).scrub = s.scrub := rfl
@[simp] theorem modCtx_ram (s : State) (c : Nat) (f : Ctx → Ctx) : (s.modCtx c f).ram = s.ram := rfl
@[simp] theorem modCtx_eng (s : State) (c : Nat) (f : Ctx → Ctx) : (s.modCtx c f).eng = s.eng := rfl
@[simp] theorem modCtx_cycle (s : State) (c : Nat) (f : Ctx → Ctx) : (s.modCtx c f).cycle = s.cycle := rfl
@[simp] theorem modCtx_tasks (s : State) (c : Nat) (f : Ctx → Ctx) : (s.modCtx c f).tasks = s.tasks := rfl
@[simp] theorem modCtx_t (s : State) (c : Nat) (f : Ctx → Ctx) : (s.modCtx c f).t = s.t := rfl
@[simp] theorem modCtx_iss (s : State) (c : Nat) (f : Ctx → Ctx) : (s.modCtx c f).iss = s.iss := rfl
@[simp] theorem modCtx_cr (s : State) (c : Nat) (f : Ctx → Ctx) : (s.modCtx c f).cr = s.cr := rfl
@[simp] theorem modCtx_phase (s : State) (c : Nat) (f : Ctx → Ctx) : (s.modCtx c f).phase = s.phase := rfl
@[simp] theorem modCtx_script (s : State) (c : Nat) (f : Ctx → Ctx) : (s.modCtx c f).script = s.script := rfl
@[simp] theorem modCtx_free (s : State) (c : Nat) (f : Ctx → Ctx) : (s.modCtx c f).free = s.free := rfl

/-! ## modT -/

@[simp] theorem modT_mem (s : State) (f : Task → Task) : (s.modT f).mem = s.mem := rfl
@[simp] theorem modT_mod (s : State) (f : Task → Task) : (s.modT f).mod = s.mod := rfl
@[simp] theorem modT_part (s : State) (f : Task → Task) : (s.modT f).part = s.part := rfl
@[simp] theorem modT_fns (s : State) (f : Task → Task) : (s.modT f).fns = s.fns := rfl
@[simp] theorem modT_ctxs (s : State) (f : Task → Task) : (s.modT f).ctxs = s.ctxs := rfl
@[simp] theorem modT_parts (s : State) (f : Task → Task) : (s.modT f).parts = s.parts := rfl
@[simp] theorem modT_route (s : State) (f : Task → Task) : (s.modT f).route = s.route := rfl
@[simp] theorem modT_ports (s : State) (f : Task → Task) : (s.modT f).ports = s.ports := rfl
@[simp] theorem modT_out (s : State) (f : Task → Task) : (s.modT f).out = s.out := rfl
@[simp] theorem modT_scrub (s : State) (f : Task → Task) : (s.modT f).scrub = s.scrub := rfl
@[simp] theorem modT_ram (s : State) (f : Task → Task) : (s.modT f).ram = s.ram := rfl
@[simp] theorem modT_eng (s : State) (f : Task → Task) : (s.modT f).eng = s.eng := rfl
@[simp] theorem modT_cycle (s : State) (f : Task → Task) : (s.modT f).cycle = s.cycle := rfl
@[simp] theorem modT_tasks (s : State) (f : Task → Task) : (s.modT f).tasks = s.tasks := rfl
@[simp] theorem modT_t (s : State) (f : Task → Task) : (s.modT f).t = f s.t := rfl
@[simp] theorem modT_iss (s : State) (f : Task → Task) : (s.modT f).iss = s.iss := rfl
@[simp] theorem modT_cr (s : State) (f : Task → Task) : (s.modT f).cr = s.cr := rfl
@[simp] theorem modT_phase (s : State) (f : Task → Task) : (s.modT f).phase = s.phase := rfl
@[simp] theorem modT_script (s : State) (f : Task → Task) : (s.modT f).script = s.script := rfl
@[simp] theorem modT_free (s : State) (f : Task → Task) : (s.modT f).free = s.free := rfl

/-! ## modCtl -/

@[simp] theorem modCtl_mem (s : State) (f : TaskCtl → TaskCtl) : (s.modCtl f).mem = s.mem := rfl
@[simp] theorem modCtl_mod (s : State) (f : TaskCtl → TaskCtl) : (s.modCtl f).mod = s.mod := rfl
@[simp] theorem modCtl_part (s : State) (f : TaskCtl → TaskCtl) : (s.modCtl f).part = s.part := rfl
@[simp] theorem modCtl_fns (s : State) (f : TaskCtl → TaskCtl) : (s.modCtl f).fns = s.fns := rfl
@[simp] theorem modCtl_ctxs (s : State) (f : TaskCtl → TaskCtl) : (s.modCtl f).ctxs = s.ctxs := rfl
@[simp] theorem modCtl_parts (s : State) (f : TaskCtl → TaskCtl) : (s.modCtl f).parts = s.parts := rfl
@[simp] theorem modCtl_route (s : State) (f : TaskCtl → TaskCtl) : (s.modCtl f).route = s.route := rfl
@[simp] theorem modCtl_ports (s : State) (f : TaskCtl → TaskCtl) : (s.modCtl f).ports = s.ports := rfl
@[simp] theorem modCtl_out (s : State) (f : TaskCtl → TaskCtl) : (s.modCtl f).out = s.out := rfl
@[simp] theorem modCtl_scrub (s : State) (f : TaskCtl → TaskCtl) : (s.modCtl f).scrub = s.scrub := rfl
@[simp] theorem modCtl_ram (s : State) (f : TaskCtl → TaskCtl) : (s.modCtl f).ram = s.ram := rfl
@[simp] theorem modCtl_eng (s : State) (f : TaskCtl → TaskCtl) : (s.modCtl f).eng = s.eng := rfl
@[simp] theorem modCtl_cycle (s : State) (f : TaskCtl → TaskCtl) : (s.modCtl f).cycle = s.cycle := rfl
@[simp] theorem modCtl_tasks (s : State) (f : TaskCtl → TaskCtl) : (s.modCtl f).tasks = s.tasks := rfl
@[simp] theorem modCtl_t (s : State) (f : TaskCtl → TaskCtl) : (s.modCtl f).t = { s.t with ctl := f s.t.ctl } := rfl
@[simp] theorem modCtl_iss (s : State) (f : TaskCtl → TaskCtl) : (s.modCtl f).iss = s.iss := rfl
@[simp] theorem modCtl_cr (s : State) (f : TaskCtl → TaskCtl) : (s.modCtl f).cr = s.cr := rfl
@[simp] theorem modCtl_phase (s : State) (f : TaskCtl → TaskCtl) : (s.modCtl f).phase = s.phase := rfl
@[simp] theorem modCtl_script (s : State) (f : TaskCtl → TaskCtl) : (s.modCtl f).script = s.script := rfl
@[simp] theorem modCtl_free (s : State) (f : TaskCtl → TaskCtl) : (s.modCtl f).free = s.free := rfl

/-! ## modSys -/

@[simp] theorem modSys_mem (s : State) (f : SysRegs → SysRegs) : (s.modSys f).mem = s.mem := rfl
@[simp] theorem modSys_mod (s : State) (f : SysRegs → SysRegs) : (s.modSys f).mod = s.mod := rfl
@[simp] theorem modSys_part (s : State) (f : SysRegs → SysRegs) : (s.modSys f).part = s.part := rfl
@[simp] theorem modSys_fns (s : State) (f : SysRegs → SysRegs) : (s.modSys f).fns = s.fns := rfl
@[simp] theorem modSys_ctxs (s : State) (f : SysRegs → SysRegs) : (s.modSys f).ctxs = s.ctxs := rfl
@[simp] theorem modSys_parts (s : State) (f : SysRegs → SysRegs) : (s.modSys f).parts = s.parts := rfl
@[simp] theorem modSys_route (s : State) (f : SysRegs → SysRegs) : (s.modSys f).route = s.route := rfl
@[simp] theorem modSys_ports (s : State) (f : SysRegs → SysRegs) : (s.modSys f).ports = s.ports := rfl
@[simp] theorem modSys_out (s : State) (f : SysRegs → SysRegs) : (s.modSys f).out = s.out := rfl
@[simp] theorem modSys_scrub (s : State) (f : SysRegs → SysRegs) : (s.modSys f).scrub = s.scrub := rfl
@[simp] theorem modSys_ram (s : State) (f : SysRegs → SysRegs) : (s.modSys f).ram = s.ram := rfl
@[simp] theorem modSys_eng (s : State) (f : SysRegs → SysRegs) : (s.modSys f).eng = s.eng := rfl
@[simp] theorem modSys_cycle (s : State) (f : SysRegs → SysRegs) : (s.modSys f).cycle = s.cycle := rfl
@[simp] theorem modSys_tasks (s : State) (f : SysRegs → SysRegs) : (s.modSys f).tasks = s.tasks := rfl
@[simp] theorem modSys_t (s : State) (f : SysRegs → SysRegs) : (s.modSys f).t = { s.t with sys := f s.t.sys } := rfl
@[simp] theorem modSys_iss (s : State) (f : SysRegs → SysRegs) : (s.modSys f).iss = s.iss := rfl
@[simp] theorem modSys_cr (s : State) (f : SysRegs → SysRegs) : (s.modSys f).cr = s.cr := rfl
@[simp] theorem modSys_phase (s : State) (f : SysRegs → SysRegs) : (s.modSys f).phase = s.phase := rfl
@[simp] theorem modSys_script (s : State) (f : SysRegs → SysRegs) : (s.modSys f).script = s.script := rfl
@[simp] theorem modSys_free (s : State) (f : SysRegs → SysRegs) : (s.modSys f).free = s.free := rfl

/-! ## modIss -/

@[simp] theorem modIss_mem (s : State) (f : Issue → Issue) : (s.modIss f).mem = s.mem := rfl
@[simp] theorem modIss_mod (s : State) (f : Issue → Issue) : (s.modIss f).mod = s.mod := rfl
@[simp] theorem modIss_part (s : State) (f : Issue → Issue) : (s.modIss f).part = s.part := rfl
@[simp] theorem modIss_fns (s : State) (f : Issue → Issue) : (s.modIss f).fns = s.fns := rfl
@[simp] theorem modIss_ctxs (s : State) (f : Issue → Issue) : (s.modIss f).ctxs = s.ctxs := rfl
@[simp] theorem modIss_parts (s : State) (f : Issue → Issue) : (s.modIss f).parts = s.parts := rfl
@[simp] theorem modIss_route (s : State) (f : Issue → Issue) : (s.modIss f).route = s.route := rfl
@[simp] theorem modIss_ports (s : State) (f : Issue → Issue) : (s.modIss f).ports = s.ports := rfl
@[simp] theorem modIss_out (s : State) (f : Issue → Issue) : (s.modIss f).out = s.out := rfl
@[simp] theorem modIss_scrub (s : State) (f : Issue → Issue) : (s.modIss f).scrub = s.scrub := rfl
@[simp] theorem modIss_ram (s : State) (f : Issue → Issue) : (s.modIss f).ram = s.ram := rfl
@[simp] theorem modIss_eng (s : State) (f : Issue → Issue) : (s.modIss f).eng = s.eng := rfl
@[simp] theorem modIss_cycle (s : State) (f : Issue → Issue) : (s.modIss f).cycle = s.cycle := rfl
@[simp] theorem modIss_tasks (s : State) (f : Issue → Issue) : (s.modIss f).tasks = s.tasks := rfl
@[simp] theorem modIss_t (s : State) (f : Issue → Issue) : (s.modIss f).t = s.t := rfl
@[simp] theorem modIss_iss (s : State) (f : Issue → Issue) : (s.modIss f).iss = f s.iss := rfl
@[simp] theorem modIss_cr (s : State) (f : Issue → Issue) : (s.modIss f).cr = s.cr := rfl
@[simp] theorem modIss_phase (s : State) (f : Issue → Issue) : (s.modIss f).phase = s.phase := rfl
@[simp] theorem modIss_script (s : State) (f : Issue → Issue) : (s.modIss f).script = s.script := rfl
@[simp] theorem modIss_free (s : State) (f : Issue → Issue) : (s.modIss f).free = s.free := rfl

/-! ## modCr -/

@[simp] theorem modCr_mem (s : State) (f : CellRun → CellRun) : (s.modCr f).mem = s.mem := rfl
@[simp] theorem modCr_mod (s : State) (f : CellRun → CellRun) : (s.modCr f).mod = s.mod := rfl
@[simp] theorem modCr_part (s : State) (f : CellRun → CellRun) : (s.modCr f).part = s.part := rfl
@[simp] theorem modCr_fns (s : State) (f : CellRun → CellRun) : (s.modCr f).fns = s.fns := rfl
@[simp] theorem modCr_ctxs (s : State) (f : CellRun → CellRun) : (s.modCr f).ctxs = s.ctxs := rfl
@[simp] theorem modCr_parts (s : State) (f : CellRun → CellRun) : (s.modCr f).parts = s.parts := rfl
@[simp] theorem modCr_route (s : State) (f : CellRun → CellRun) : (s.modCr f).route = s.route := rfl
@[simp] theorem modCr_ports (s : State) (f : CellRun → CellRun) : (s.modCr f).ports = s.ports := rfl
@[simp] theorem modCr_out (s : State) (f : CellRun → CellRun) : (s.modCr f).out = s.out := rfl
@[simp] theorem modCr_scrub (s : State) (f : CellRun → CellRun) : (s.modCr f).scrub = s.scrub := rfl
@[simp] theorem modCr_ram (s : State) (f : CellRun → CellRun) : (s.modCr f).ram = s.ram := rfl
@[simp] theorem modCr_eng (s : State) (f : CellRun → CellRun) : (s.modCr f).eng = s.eng := rfl
@[simp] theorem modCr_cycle (s : State) (f : CellRun → CellRun) : (s.modCr f).cycle = s.cycle := rfl
@[simp] theorem modCr_tasks (s : State) (f : CellRun → CellRun) : (s.modCr f).tasks = s.tasks := rfl
@[simp] theorem modCr_t (s : State) (f : CellRun → CellRun) : (s.modCr f).t = s.t := rfl
@[simp] theorem modCr_iss (s : State) (f : CellRun → CellRun) : (s.modCr f).iss = s.iss := rfl
@[simp] theorem modCr_cr (s : State) (f : CellRun → CellRun) : (s.modCr f).cr = f s.cr := rfl
@[simp] theorem modCr_phase (s : State) (f : CellRun → CellRun) : (s.modCr f).phase = s.phase := rfl
@[simp] theorem modCr_script (s : State) (f : CellRun → CellRun) : (s.modCr f).script = s.script := rfl
@[simp] theorem modCr_free (s : State) (f : CellRun → CellRun) : (s.modCr f).free = s.free := rfl

/-! ## modMem -/

@[simp] theorem modMem_mem (s : State) (f : Mems → Mems) : (s.modMem f).mem = f s.mem := rfl
@[simp] theorem modMem_mod (s : State) (f : Mems → Mems) : (s.modMem f).mod = s.mod := rfl
@[simp] theorem modMem_part (s : State) (f : Mems → Mems) : (s.modMem f).part = s.part := rfl
@[simp] theorem modMem_fns (s : State) (f : Mems → Mems) : (s.modMem f).fns = s.fns := rfl
@[simp] theorem modMem_ctxs (s : State) (f : Mems → Mems) : (s.modMem f).ctxs = s.ctxs := rfl
@[simp] theorem modMem_parts (s : State) (f : Mems → Mems) : (s.modMem f).parts = s.parts := rfl
@[simp] theorem modMem_route (s : State) (f : Mems → Mems) : (s.modMem f).route = s.route := rfl
@[simp] theorem modMem_ports (s : State) (f : Mems → Mems) : (s.modMem f).ports = s.ports := rfl
@[simp] theorem modMem_out (s : State) (f : Mems → Mems) : (s.modMem f).out = s.out := rfl
@[simp] theorem modMem_scrub (s : State) (f : Mems → Mems) : (s.modMem f).scrub = s.scrub := rfl
@[simp] theorem modMem_ram (s : State) (f : Mems → Mems) : (s.modMem f).ram = s.ram := rfl
@[simp] theorem modMem_eng (s : State) (f : Mems → Mems) : (s.modMem f).eng = s.eng := rfl
@[simp] theorem modMem_cycle (s : State) (f : Mems → Mems) : (s.modMem f).cycle = s.cycle := rfl
@[simp] theorem modMem_tasks (s : State) (f : Mems → Mems) : (s.modMem f).tasks = s.tasks := rfl
@[simp] theorem modMem_t (s : State) (f : Mems → Mems) : (s.modMem f).t = s.t := rfl
@[simp] theorem modMem_iss (s : State) (f : Mems → Mems) : (s.modMem f).iss = s.iss := rfl
@[simp] theorem modMem_cr (s : State) (f : Mems → Mems) : (s.modMem f).cr = s.cr := rfl
@[simp] theorem modMem_phase (s : State) (f : Mems → Mems) : (s.modMem f).phase = s.phase := rfl
@[simp] theorem modMem_script (s : State) (f : Mems → Mems) : (s.modMem f).script = s.script := rfl
@[simp] theorem modMem_free (s : State) (f : Mems → Mems) : (s.modMem f).free = s.free := rfl

/-! ## modRam -/

@[simp] theorem modRam_mem (s : State) (f : Rambler → Rambler) : (s.modRam f).mem = s.mem := rfl
@[simp] theorem modRam_mod (s : State) (f : Rambler → Rambler) : (s.modRam f).mod = s.mod := rfl
@[simp] theorem modRam_part (s : State) (f : Rambler → Rambler) : (s.modRam f).part = s.part := rfl
@[simp] theorem modRam_fns (s : State) (f : Rambler → Rambler) : (s.modRam f).fns = s.fns := rfl
@[simp] theorem modRam_ctxs (s : State) (f : Rambler → Rambler) : (s.modRam f).ctxs = s.ctxs := rfl
@[simp] theorem modRam_parts (s : State) (f : Rambler → Rambler) : (s.modRam f).parts = s.parts := rfl
@[simp] theorem modRam_route (s : State) (f : Rambler → Rambler) : (s.modRam f).route = s.route := rfl
@[simp] theorem modRam_ports (s : State) (f : Rambler → Rambler) : (s.modRam f).ports = s.ports := rfl
@[simp] theorem modRam_out (s : State) (f : Rambler → Rambler) : (s.modRam f).out = s.out := rfl
@[simp] theorem modRam_scrub (s : State) (f : Rambler → Rambler) : (s.modRam f).scrub = s.scrub := rfl
@[simp] theorem modRam_ram (s : State) (f : Rambler → Rambler) : (s.modRam f).ram = f s.ram := rfl
@[simp] theorem modRam_eng (s : State) (f : Rambler → Rambler) : (s.modRam f).eng = s.eng := rfl
@[simp] theorem modRam_cycle (s : State) (f : Rambler → Rambler) : (s.modRam f).cycle = s.cycle := rfl
@[simp] theorem modRam_tasks (s : State) (f : Rambler → Rambler) : (s.modRam f).tasks = s.tasks := rfl
@[simp] theorem modRam_t (s : State) (f : Rambler → Rambler) : (s.modRam f).t = s.t := rfl
@[simp] theorem modRam_iss (s : State) (f : Rambler → Rambler) : (s.modRam f).iss = s.iss := rfl
@[simp] theorem modRam_cr (s : State) (f : Rambler → Rambler) : (s.modRam f).cr = s.cr := rfl
@[simp] theorem modRam_phase (s : State) (f : Rambler → Rambler) : (s.modRam f).phase = s.phase := rfl
@[simp] theorem modRam_script (s : State) (f : Rambler → Rambler) : (s.modRam f).script = s.script := rfl
@[simp] theorem modRam_free (s : State) (f : Rambler → Rambler) : (s.modRam f).free = s.free := rfl

/-! ## modEng -/

@[simp] theorem modEng_mem (s : State) (f : Engines → Engines) : (s.modEng f).mem = s.mem := rfl
@[simp] theorem modEng_mod (s : State) (f : Engines → Engines) : (s.modEng f).mod = s.mod := rfl
@[simp] theorem modEng_part (s : State) (f : Engines → Engines) : (s.modEng f).part = s.part := rfl
@[simp] theorem modEng_fns (s : State) (f : Engines → Engines) : (s.modEng f).fns = s.fns := rfl
@[simp] theorem modEng_ctxs (s : State) (f : Engines → Engines) : (s.modEng f).ctxs = s.ctxs := rfl
@[simp] theorem modEng_parts (s : State) (f : Engines → Engines) : (s.modEng f).parts = s.parts := rfl
@[simp] theorem modEng_route (s : State) (f : Engines → Engines) : (s.modEng f).route = s.route := rfl
@[simp] theorem modEng_ports (s : State) (f : Engines → Engines) : (s.modEng f).ports = s.ports := rfl
@[simp] theorem modEng_out (s : State) (f : Engines → Engines) : (s.modEng f).out = s.out := rfl
@[simp] theorem modEng_scrub (s : State) (f : Engines → Engines) : (s.modEng f).scrub = s.scrub := rfl
@[simp] theorem modEng_ram (s : State) (f : Engines → Engines) : (s.modEng f).ram = s.ram := rfl
@[simp] theorem modEng_eng (s : State) (f : Engines → Engines) : (s.modEng f).eng = f s.eng := rfl
@[simp] theorem modEng_cycle (s : State) (f : Engines → Engines) : (s.modEng f).cycle = s.cycle := rfl
@[simp] theorem modEng_tasks (s : State) (f : Engines → Engines) : (s.modEng f).tasks = s.tasks := rfl
@[simp] theorem modEng_t (s : State) (f : Engines → Engines) : (s.modEng f).t = s.t := rfl
@[simp] theorem modEng_iss (s : State) (f : Engines → Engines) : (s.modEng f).iss = s.iss := rfl
@[simp] theorem modEng_cr (s : State) (f : Engines → Engines) : (s.modEng f).cr = s.cr := rfl
@[simp] theorem modEng_phase (s : State) (f : Engines → Engines) : (s.modEng f).phase = s.phase := rfl
@[simp] theorem modEng_script (s : State) (f : Engines → Engines) : (s.modEng f).script = s.script := rfl
@[simp] theorem modEng_free (s : State) (f : Engines → Engines) : (s.modEng f).free = s.free := rfl

/-! ## putTask -/

@[simp] theorem putTask_mem (s : State) (t : Task) : (s.putTask t).mem = s.mem := rfl
@[simp] theorem putTask_mod (s : State) (t : Task) : (s.putTask t).mod = s.mod := rfl
@[simp] theorem putTask_part (s : State) (t : Task) : (s.putTask t).part = s.part := rfl
@[simp] theorem putTask_fns (s : State) (t : Task) : (s.putTask t).fns = s.fns := rfl
@[simp] theorem putTask_ctxs (s : State) (t : Task) : (s.putTask t).ctxs = s.ctxs := rfl
@[simp] theorem putTask_parts (s : State) (t : Task) : (s.putTask t).parts = s.parts := rfl
@[simp] theorem putTask_route (s : State) (t : Task) : (s.putTask t).route = s.route := rfl
@[simp] theorem putTask_ports (s : State) (t : Task) : (s.putTask t).ports = s.ports := rfl
@[simp] theorem putTask_out (s : State) (t : Task) : (s.putTask t).out = s.out := rfl
@[simp] theorem putTask_scrub (s : State) (t : Task) : (s.putTask t).scrub = s.scrub := rfl
@[simp] theorem putTask_ram (s : State) (t : Task) : (s.putTask t).ram = s.ram := rfl
@[simp] theorem putTask_eng (s : State) (t : Task) : (s.putTask t).eng = s.eng := rfl
@[simp] theorem putTask_cycle (s : State) (t : Task) : (s.putTask t).cycle = s.cycle := rfl
@[simp] theorem putTask_tasks (s : State) (t : Task) : (s.putTask t).tasks = finsert s.tasks t.id.uid t := rfl
@[simp] theorem putTask_t (s : State) (t : Task) : (s.putTask t).t = s.t := rfl
@[simp] theorem putTask_iss (s : State) (t : Task) : (s.putTask t).iss = s.iss := rfl
@[simp] theorem putTask_cr (s : State) (t : Task) : (s.putTask t).cr = s.cr := rfl
@[simp] theorem putTask_phase (s : State) (t : Task) : (s.putTask t).phase = s.phase := rfl
@[simp] theorem putTask_script (s : State) (t : Task) : (s.putTask t).script = s.script := rfl
@[simp] theorem putTask_free (s : State) (t : Task) : (s.putTask t).free = s.free := rfl

/-! ## addFails -/

@[simp] theorem addFails_mem (s : State) (l : List Fail) : (s.addFails l).mem = s.mem := rfl
@[simp] theorem addFails_mod (s : State) (l : List Fail) : (s.addFails l).mod = s.mod := rfl
@[simp] theorem addFails_part (s : State) (l : List Fail) : (s.addFails l).part = s.part := rfl
@[simp] theorem addFails_fns (s : State) (l : List Fail) : (s.addFails l).fns = s.fns := rfl
@[simp] theorem addFails_ctxs (s : State) (l : List Fail) : (s.addFails l).ctxs = s.ctxs := rfl
@[simp] theorem addFails_parts (s : State) (l : List Fail) : (s.addFails l).parts = s.parts := rfl
@[simp] theorem addFails_route (s : State) (l : List Fail) : (s.addFails l).route = s.route := rfl
@[simp] theorem addFails_ports (s : State) (l : List Fail) : (s.addFails l).ports = s.ports := rfl
@[simp] theorem addFails_out (s : State) (l : List Fail) : (s.addFails l).out = s.out := rfl
@[simp] theorem addFails_scrub (s : State) (l : List Fail) : (s.addFails l).scrub = s.scrub := rfl
@[simp] theorem addFails_ram (s : State) (l : List Fail) : (s.addFails l).ram = s.ram := rfl
@[simp] theorem addFails_eng (s : State) (l : List Fail) : (s.addFails l).eng = s.eng := rfl
@[simp] theorem addFails_cycle (s : State) (l : List Fail) : (s.addFails l).cycle = s.cycle := rfl
@[simp] theorem addFails_tasks (s : State) (l : List Fail) : (s.addFails l).tasks = s.tasks := rfl
@[simp] theorem addFails_t (s : State) (l : List Fail) : (s.addFails l).t = s.t := rfl
@[simp] theorem addFails_iss (s : State) (l : List Fail) : (s.addFails l).iss = { s.iss with fails := s.iss.fails ++ l } := rfl
@[simp] theorem addFails_cr (s : State) (l : List Fail) : (s.addFails l).cr = s.cr := rfl
@[simp] theorem addFails_phase (s : State) (l : List Fail) : (s.addFails l).phase = s.phase := rfl
@[simp] theorem addFails_script (s : State) (l : List Fail) : (s.addFails l).script = s.script := rfl
@[simp] theorem addFails_free (s : State) (l : List Fail) : (s.addFails l).free = s.free := rfl

/-! ## stallIf -/

@[simp] theorem stallIf_mem (s : State) (b : Bool) : (s.stallIf b).mem = s.mem := rfl
@[simp] theorem stallIf_mod (s : State) (b : Bool) : (s.stallIf b).mod = s.mod := rfl
@[simp] theorem stallIf_part (s : State) (b : Bool) : (s.stallIf b).part = s.part := rfl
@[simp] theorem stallIf_fns (s : State) (b : Bool) : (s.stallIf b).fns = s.fns := rfl
@[simp] theorem stallIf_ctxs (s : State) (b : Bool) : (s.stallIf b).ctxs = s.ctxs := rfl
@[simp] theorem stallIf_parts (s : State) (b : Bool) : (s.stallIf b).parts = s.parts := rfl
@[simp] theorem stallIf_route (s : State) (b : Bool) : (s.stallIf b).route = s.route := rfl
@[simp] theorem stallIf_ports (s : State) (b : Bool) : (s.stallIf b).ports = s.ports := rfl
@[simp] theorem stallIf_out (s : State) (b : Bool) : (s.stallIf b).out = s.out := rfl
@[simp] theorem stallIf_scrub (s : State) (b : Bool) : (s.stallIf b).scrub = s.scrub := rfl
@[simp] theorem stallIf_ram (s : State) (b : Bool) : (s.stallIf b).ram = s.ram := rfl
@[simp] theorem stallIf_eng (s : State) (b : Bool) : (s.stallIf b).eng = s.eng := rfl
@[simp] theorem stallIf_cycle (s : State) (b : Bool) : (s.stallIf b).cycle = s.cycle := rfl
@[simp] theorem stallIf_tasks (s : State) (b : Bool) : (s.stallIf b).tasks = s.tasks := rfl
@[simp] theorem stallIf_t (s : State) (b : Bool) : (s.stallIf b).t = s.t := rfl
@[simp] theorem stallIf_iss (s : State) (b : Bool) : (s.stallIf b).iss = { s.iss with stall := s.iss.stall || b } := rfl
@[simp] theorem stallIf_cr (s : State) (b : Bool) : (s.stallIf b).cr = s.cr := rfl
@[simp] theorem stallIf_phase (s : State) (b : Bool) : (s.stallIf b).phase = s.phase := rfl
@[simp] theorem stallIf_script (s : State) (b : Bool) : (s.stallIf b).script = s.script := rfl
@[simp] theorem stallIf_free (s : State) (b : Bool) : (s.stallIf b).free = s.free := rfl

/-! ## hold -/

@[simp] theorem hold_mem (s : State) (n : Nat) (d : SDst) (v : DWord) : (s.hold n d v).mem = s.mem := rfl
@[simp] theorem hold_mod (s : State) (n : Nat) (d : SDst) (v : DWord) : (s.hold n d v).mod = s.mod := rfl
@[simp] theorem hold_part (s : State) (n : Nat) (d : SDst) (v : DWord) : (s.hold n d v).part = s.part := rfl
@[simp] theorem hold_fns (s : State) (n : Nat) (d : SDst) (v : DWord) : (s.hold n d v).fns = s.fns := rfl
@[simp] theorem hold_ctxs (s : State) (n : Nat) (d : SDst) (v : DWord) : (s.hold n d v).ctxs = s.ctxs := rfl
@[simp] theorem hold_parts (s : State) (n : Nat) (d : SDst) (v : DWord) : (s.hold n d v).parts = s.parts := rfl
@[simp] theorem hold_route (s : State) (n : Nat) (d : SDst) (v : DWord) : (s.hold n d v).route = s.route := rfl
@[simp] theorem hold_ports (s : State) (n : Nat) (d : SDst) (v : DWord) : (s.hold n d v).ports = s.ports := rfl
@[simp] theorem hold_out (s : State) (n : Nat) (d : SDst) (v : DWord) : (s.hold n d v).out = s.out := rfl
@[simp] theorem hold_scrub (s : State) (n : Nat) (d : SDst) (v : DWord) : (s.hold n d v).scrub = s.scrub := rfl
@[simp] theorem hold_ram (s : State) (n : Nat) (d : SDst) (v : DWord) : (s.hold n d v).ram = s.ram := rfl
@[simp] theorem hold_eng (s : State) (n : Nat) (d : SDst) (v : DWord) : (s.hold n d v).eng = s.eng := rfl
@[simp] theorem hold_cycle (s : State) (n : Nat) (d : SDst) (v : DWord) : (s.hold n d v).cycle = s.cycle := rfl
@[simp] theorem hold_tasks (s : State) (n : Nat) (d : SDst) (v : DWord) : (s.hold n d v).tasks = s.tasks := rfl
@[simp] theorem hold_t (s : State) (n : Nat) (d : SDst) (v : DWord) : (s.hold n d v).t = { s.t with held := s.t.held ++
    [⟨(if s.t.sys.tm then s.t.ctl.hcnt else s.t.ctl.bcnt) + n, s.t.sys.tm, d, v, s.t.ctl.cyc + n, none⟩] } := rfl
@[simp] theorem hold_iss (s : State) (n : Nat) (d : SDst) (v : DWord) : (s.hold n d v).iss = s.iss := rfl
@[simp] theorem hold_cr (s : State) (n : Nat) (d : SDst) (v : DWord) : (s.hold n d v).cr = s.cr := rfl
@[simp] theorem hold_phase (s : State) (n : Nat) (d : SDst) (v : DWord) : (s.hold n d v).phase = s.phase := rfl
@[simp] theorem hold_script (s : State) (n : Nat) (d : SDst) (v : DWord) : (s.hold n d v).script = s.script := rfl
@[simp] theorem hold_free (s : State) (n : Nat) (d : SDst) (v : DWord) : (s.hold n d v).free = s.free := rfl

/-! ## holdLoad -/

@[simp] theorem holdLoad_mem (s : State) (d : SDst) (tag : Nat) : (s.holdLoad d tag).mem = s.mem := rfl
@[simp] theorem holdLoad_mod (s : State) (d : SDst) (tag : Nat) : (s.holdLoad d tag).mod = s.mod := rfl
@[simp] theorem holdLoad_part (s : State) (d : SDst) (tag : Nat) : (s.holdLoad d tag).part = s.part := rfl
@[simp] theorem holdLoad_fns (s : State) (d : SDst) (tag : Nat) : (s.holdLoad d tag).fns = s.fns := rfl
@[simp] theorem holdLoad_ctxs (s : State) (d : SDst) (tag : Nat) : (s.holdLoad d tag).ctxs = s.ctxs := rfl
@[simp] theorem holdLoad_parts (s : State) (d : SDst) (tag : Nat) : (s.holdLoad d tag).parts = s.parts := rfl
@[simp] theorem holdLoad_route (s : State) (d : SDst) (tag : Nat) : (s.holdLoad d tag).route = s.route := rfl
@[simp] theorem holdLoad_ports (s : State) (d : SDst) (tag : Nat) : (s.holdLoad d tag).ports = s.ports := rfl
@[simp] theorem holdLoad_out (s : State) (d : SDst) (tag : Nat) : (s.holdLoad d tag).out = s.out := rfl
@[simp] theorem holdLoad_scrub (s : State) (d : SDst) (tag : Nat) : (s.holdLoad d tag).scrub = s.scrub := rfl
@[simp] theorem holdLoad_ram (s : State) (d : SDst) (tag : Nat) : (s.holdLoad d tag).ram = s.ram := rfl
@[simp] theorem holdLoad_eng (s : State) (d : SDst) (tag : Nat) : (s.holdLoad d tag).eng = s.eng := rfl
@[simp] theorem holdLoad_cycle (s : State) (d : SDst) (tag : Nat) : (s.holdLoad d tag).cycle = s.cycle := rfl
@[simp] theorem holdLoad_tasks (s : State) (d : SDst) (tag : Nat) : (s.holdLoad d tag).tasks = s.tasks := rfl
@[simp] theorem holdLoad_t (s : State) (d : SDst) (tag : Nat) : (s.holdLoad d tag).t = { s.t with held := s.t.held ++
    [⟨(if s.t.sys.tm then s.t.ctl.hcnt else s.t.ctl.bcnt) + 5, s.t.sys.tm, d, 0, s.t.ctl.cyc + 5, some tag⟩] } := rfl
@[simp] theorem holdLoad_iss (s : State) (d : SDst) (tag : Nat) : (s.holdLoad d tag).iss = s.iss := rfl
@[simp] theorem holdLoad_cr (s : State) (d : SDst) (tag : Nat) : (s.holdLoad d tag).cr = s.cr := rfl
@[simp] theorem holdLoad_phase (s : State) (d : SDst) (tag : Nat) : (s.holdLoad d tag).phase = s.phase := rfl
@[simp] theorem holdLoad_script (s : State) (d : SDst) (tag : Nat) : (s.holdLoad d tag).script = s.script := rfl
@[simp] theorem holdLoad_free (s : State) (d : SDst) (tag : Nat) : (s.holdLoad d tag).free = s.free := rfl

/-! ## Contexts -/

/-- A context after a change of it. -/
@[simp] theorem ctx_modCtx_same (s : State) (c : Nat) (f : Ctx → Ctx) : (s.modCtx c f).ctx c = f (s.ctx c) := fget_finsert_same _ _ _ _

/-- A context after a change of another. -/
theorem ctx_modCtx_other (s : State) (c j : Nat) (f : Ctx → Ctx) (h : j ≠ c) : (s.modCtx c f).ctx j = s.ctx j :=
  fget_finsert_other _ _ _ _ _ h

end Sys2Proof.Machine
end

