-- ==== Sys2Proof/Laws/Ops.lean ====
section
/-! SUPPORT. Sys2Proof/Laws/Ops.lean: what the shared operations of the sequencer can do: guards, the four phases of an operation,
results held and landed, runs of operations, traps. -/
namespace Sys2Proof.Machine

/-! ## Guards and phases (R71, R161, R24) -/

/-- A guard is the predicate it names, inverted when `qn` is 1. -/
theorem guard_eq (t : Task) (qp qn : Nat) : t.guard qp qn = (t.qReg qp ^^ decide (qn = 1)) := by
  unfold Task.guard; cases t.qReg qp <;> by_cases h : qn = 1 <;> simp [h]

section Phases
variable {s s' : State} {i : Instr} {qp qn : Nat} {a g l : List Fail} {w c d : State}

theorem atIssue_check (h : s.phase = .check) : atIssue s l w c = .next (s.addFails l) := by unfold atIssue; simp only [h]
theorem atIssue_wait (h : s.phase = .wait) : atIssue s l w c = .next w := by unfold atIssue; simp only [h]
theorem atIssue_commit (h : s.phase = .commit) : atIssue s l w c = .next c := by unfold atIssue; simp only [h]
theorem atIssue_cell (h : s.phase = .cell) : atIssue s l w c = .next s := by unfold atIssue; simp only [h]

/-- Everything an operation at issue can do. -/
theorem atIssue_cases (h : atIssue s l w c = .next s') :
    (s.phase = .check ∧ s' = s.addFails l) ∨ (s.phase = .wait ∧ s' = w) ∨ (s.phase = .commit ∧ s' = c) ∨
    (s.phase = .cell ∧ s' = s) := by
  unfold atIssue at h
  split at h <;> cases h <;> simp_all

theorem seqOp_true (h : s.iss.t0.guard qp qn = true) : seqOp s qp qn a g w c = atIssue s (a ++ g) w c := by simp [seqOp, h]
theorem seqOp_false (h : s.iss.t0.guard qp qn = false) : seqOp s qp qn a g w c = atIssue s a s s := by simp [seqOp, h]

/-- Everything a sequencer operation can do. -/
theorem seqOp_cases (h : seqOp s qp qn a g w c = .next s') :
    (s.phase = .check ∧ s' = s.addFails (if s.iss.t0.guard qp qn then a ++ g else a)) ∨
    (s.phase = .wait ∧ s' = if s.iss.t0.guard qp qn then w else s) ∨
    (s.phase = .commit ∧ s' = if s.iss.t0.guard qp qn then c else s) ∨ (s.phase = .cell ∧ s' = s) := by
  unfold seqOp at h
  split at h <;> rename_i hg <;> have := atIssue_cases h <;> simp_all

/-- With its guard at 0 a sequencer operation changes nothing after its checks (R161). -/
theorem seqOp_guard_off (h : s.iss.t0.guard qp qn = false) (hp : s.phase ≠ .check) : seqOp s qp qn a g w c = .next s := by
  rw [seqOp_false h]
  cases hq : s.phase
  · exact absurd hq hp
  · exact atIssue_wait hq
  · exact atIssue_commit hq
  · exact atIssue_cell hq

/-- Everything an operation of the cell part can do. -/
theorem cellOp_cases (h : cellOp s i l w c d = .next s') :
    (s.phase = .check ∧ s' = s.addFails l) ∨ (s.phase = .wait ∧ s' = w) ∨
    (s.phase = .commit ∧ s' = c.modIss (fun q => { q with fl := { q.fl with ops := q.fl.ops ++ [i] } })) ∨
    (s.phase = .cell ∧ s' = d) := by
  unfold cellOp at h
  split at h <;> cases h <;> simp_all

theorem cellOp_cell (h : s.phase = .cell) : cellOp s i l w c d = .next d := by unfold cellOp; simp only [h]

/-- Everything a step of another agent can do. -/
theorem event_cases {b : Bool} (h : event s b c = .next s') : (b = true ∧ s' = c) ∨ (b = false ∧ s' = s) := by
  unfold event at h; cases b <;> cases h <;> simp

end Phases

/-- An ALU operation that is performed holds its result and changes nothing else. -/
theorem aluTo_commit {s : State} {qp qn d lat : Nat} {v : DWord} (hp : s.phase = .commit) (hg : s.iss.t0.guard qp qn = true) :
    aluTo s qp qn d lat v = .next (s.hold lat (.s d) v) := by
  unfold aluTo; rw [seqOp_true hg, atIssue_commit hp]

/-- The same for a predicate. -/
theorem predTo_commit {s : State} {qp qn d : Nat} {v : Bool} (hp : s.phase = .commit) (hg : s.iss.t0.guard qp qn = true) :
    predTo s qp qn d v = .next (s.hold 1 (.q d) (bitD v)) := by
  unfold predTo; rw [seqOp_true hg, atIssue_commit hp]

/-! ## Runs of operations -/

@[simp] theorem resBind_next (s : State) (f : State → Res) : resBind (.next s) f = f s := rfl

theorem resBind_eq_next {r : Res} {f : State → Res} {t : State} (h : resBind r f = .next t) : ∃ s, r = .next s ∧ f s = .next t := by
  cases r with
  | next s => exact ⟨s, rfl, h⟩
  | fault e => cases h
  | refused e => cases h

@[simp] theorem runOps_nil (ex : Instr → State → Res) (s : State) : runOps ex [] s = .next s := rfl

theorem runOps_cons (ex : Instr → State → Res) (w : DWord) (i : Instr) (l : List (DWord × Instr)) (s : State) :
    runOps ex ((w, i) :: l) s = resBind (ex i (s.modIss (fun q => { q with slot := w }))) (runOps ex l) := rfl

theorem runOps_append (ex : Instr → State → Res) (l m : List (DWord × Instr)) :
    ∀ s, runOps ex (l ++ m) s = resBind (runOps ex l s) (runOps ex m) := by
  induction l with
  | nil => intro s; rfl
  | cons e l ih =>
    intro s
    obtain ⟨w, i⟩ := e
    rw [List.cons_append, runOps_cons, runOps_cons]
    cases ex i (s.modIss (fun q => { q with slot := w })) with
    | next u => exact ih u
    | fault e => rfl
    | refused e => rfl

/-- What every operation of a run keeps, the run keeps. -/
theorem runOps_keeps (ex : Instr → State → Res) (P : State → Prop) (l : List (DWord × Instr))
    (hslot : ∀ s w, P s → P (s.modIss (fun q => { q with slot := w })))
    (hop : ∀ e ∈ l, ∀ s s', P s → ex e.2 s = .next s' → P s') : ∀ s s', P s → runOps ex l s = .next s' → P s' := by
  induction l with
  | nil => intro s s' h e; cases e; exact h
  | cons e l ih =>
    intro s s' h he
    obtain ⟨w, i⟩ := e
    obtain ⟨u, h1, h2⟩ := resBind_eq_next he
    exact ih (fun e' h' => hop e' (List.mem_cons_of_mem _ h')) u s' (hop (w, i) List.mem_cons_self _ _ (hslot _ w h) h1) h2

/-! ## Results held and landed (R34, R174, R175) -/

@[simp] theorem setQ_q15 (r : SeqRegs) (v : Bool) : r.setQ 15 v = r := rfl
theorem qReg_15 (t : Task) : t.qReg 15 = true := rfl

/-- Landing changes the registers, the holding buffer and the errors of what it writes alone. -/
theorem land_frame (t : Task) : t.land = { t with r := t.land.r, held := t.land.held, errs := t.land.errs } := rfl

theorem apply_masks (r : SeqRegs) (d : SDst) (v : DWord) :
    (r.apply d v).rm = r.rm ∧ (r.apply d v).cm = r.cm ∧ (r.apply d v).pm = r.pm ∧ (r.apply d v).ft = r.ft := by
  cases d with
  | s i => exact ⟨rfl, rfl, rfl, rfl⟩
  | lc i => exact ⟨rfl, rfl, rfl, rfl⟩
  | q i => unfold SeqRegs.apply SeqRegs.setQ; dsimp only; split <;> exact ⟨rfl, rfl, rfl, rfl⟩

/-- A result read back from the register it landed in. -/
theorem apply_s (r : SeqRegs) (i j : Nat) (v : DWord) : fget (r.apply (.s i) v).s 0 j = if j = i then v else fget r.s 0 j := fget_fset _ _ _ _ _

/-! ## The access of SA, heads in step (R26, R205, R208) -/

/-- An access of SA that performs with its bundle's arrival changes what performing it changes, and the note of what it read. -/
theorem performArrival_cases (s : State) :
    (s.iss.sstA = none ∧ s.performArrival = s) ∨
    ∃ p, s.iss.sstA = some p ∧ s.performArrival = (s.performStore p).modCtl (fun c =>
      { c with own := some ⟨s.iss.addr, s.t.sys.tm, BitVec.ofNat 64 (s.sramRd s.t.die p.addr p.size)⟩ }) := by
  unfold State.performArrival
  split
  · rename_i h; exact .inl ⟨h, rfl⟩
  · rename_i p h; exact .inr ⟨p, h, rfl⟩

/-- A bundle whose SA makes no access is held back by none. -/
theorem loadHeldBack_none {s : State} (h : s.iss.sstA = none) : s.loadHeldBack = false := by unfold State.loadHeldBack; rw [h]

/-- Nothing is read early where nothing was kept. -/
theorem earlyRead_none {s : State} (u : SeqSlot) (h : s.t.ctl.own = none) (k : s.t.ctl.early = none) : s.earlyRead u = none := by
  unfold State.earlyRead State.ownDone; simp [h, k]

/-- A head may issue when no running head is behind it (log entry 7). -/
theorem inStep_iff (s : State) (t : Task) : s.inStep t = true ↔ ∀ e ∈ s.tasks, e.2.ctl.running = true → t.ctl.now ≤ e.2.ctl.now := by
  unfold State.inStep; simp only [List.all_eq_true, Bool.or_eq_true, Bool.not_eq_true', decide_eq_true_eq]
  exact ⟨fun h e m r => (h e m).resolve_left (by rw [r]; decide), fun h e m => by
    cases r : e.2.ctl.running
    · exact .inl rfl
    · exact .inr (h e m r)⟩

/-- The masks of H and the shift of CC are noted though their slots do not decode; nothing else changes (R86). -/
theorem noteHeader_frame (s : State) (b : Bundle) : s.noteHeader b = { s with iss := (s.noteHeader b).iss } := rfl

/-! ## Traps and ends by fault (R338, R344) -/

/-- A fault of a context is noted there; the first one stands, and nothing else changes. -/
theorem endByFault_frame (s : State) (c : Nat) (r : FaultRec) :
    (s.endByFault c r) = { s with ctxs := (s.endByFault c r).ctxs } := rfl

theorem endByFault_ctx (s : State) (c : Nat) (r : FaultRec) :
    ((s.endByFault c r).ctx c).ffault = if (s.ctx c).ffault.isSome then (s.ctx c).ffault else some r := by
  unfold State.endByFault; rw [ctx_modCtx_same]

/-- Taking a trap outside trap mode. -/
theorem takeTrap_enters (s : State) (code : Nat) (repl : Bool) (tval : DWord) (fmask epc : Nat) (h : s.t.sys.tm = false)
    (hv : s.t.prog.hdr.trapv = true) :
    (s.takeTrap code repl tval fmask epc).t.sys.tm = true ∧ (s.takeTrap code repl tval fmask epc).t.sys.epc = BitVec.ofNat 64 epc ∧
    (s.takeTrap code repl tval fmask epc).t.sys.tval = tval ∧
    (s.takeTrap code repl tval fmask epc).t.ctl.pc = s.t.prog.hdr.trapvec ∧ (s.takeTrap code repl tval fmask epc).ctxs = s.ctxs := by
  unfold State.takeTrap; simp [h, hv]

/-- A trap changes the task and its context alone. -/
theorem takeTrap_frame (s : State) (code : Nat) (repl : Bool) (tval : DWord) (fmask epc : Nat) :
    s.takeTrap code repl tval fmask epc =
      { s with t := (s.takeTrap code repl tval fmask epc).t, ctxs := (s.takeTrap code repl tval fmask epc).ctxs } := by
  unfold State.takeTrap; split <;> rfl

/-- The return from a trap changes the task and its context alone. -/
theorem leaveTrap_frame (s : State) : s.leaveTrap = { s with t := s.leaveTrap.t, ctxs := s.leaveTrap.ctxs } := by
  unfold State.leaveTrap; dsimp only; split <;> rfl

/-- A trap leaves the memories and the module block. -/
@[simp] theorem takeTrap_mem (s : State) (code : Nat) (repl : Bool) (tval : DWord) (fmask epc : Nat) :
    (s.takeTrap code repl tval fmask epc).mem = s.mem := by unfold State.takeTrap; split <;> rfl
@[simp] theorem takeTrap_mod (s : State) (code : Nat) (repl : Bool) (tval : DWord) (fmask epc : Nat) :
    (s.takeTrap code repl tval fmask epc).mod = s.mod := by unfold State.takeTrap; split <;> rfl
@[simp] theorem leaveTrap_mem (s : State) : s.leaveTrap.mem = s.mem := by unfold State.leaveTrap; dsimp only; split <;> rfl
@[simp] theorem leaveTrap_mod (s : State) : s.leaveTrap.mod = s.mod := by unfold State.leaveTrap; dsimp only; split <;> rfl

@[simp] theorem tick_mem (s : State) : s.tick.mem = s.mem := rfl
@[simp] theorem tick_mod (s : State) : s.tick.mod = s.mod := rfl

/-- Closing a bundle leaves the memories and the module block. -/
@[simp] theorem closeIssue_mem (s : State) : s.closeIssue.mem = s.mem := by
  unfold State.closeIssue; dsimp only; cases s.iss.after <;> dsimp only <;> split <;> simp
@[simp] theorem closeIssue_mod (s : State) : s.closeIssue.mod = s.mod := by
  unfold State.closeIssue; dsimp only; cases s.iss.after <;> dsimp only <;> split <;> simp

end Sys2Proof.Machine
end

