-- ==== Sys2Proof/Laws/Cells.lean ====
section
/-! SUPPORT. Sys2Proof/Laws/Cells.lean: what the shared operations of the cells can do: a result enters the holding buffer, a tile
or a row changes, flags are noted in the bundle; nothing else of the executing cell's surroundings changes. -/
namespace Sys2Proof.Machine

/-- `d` differs from `c` in its cell and in the flags of the bundle alone. -/
def SamePlace (c d : CellRun) : Prop := ∃ (z : Cell) (fl : Flight), d = { c with cell := z, fl := fl }

theorem SamePlace.refl (c : CellRun) : SamePlace c c := ⟨c.cell, c.fl, rfl⟩

theorem SamePlace.trans {c d e : CellRun} (h : SamePlace c d) (k : SamePlace d e) : SamePlace c e := by
  obtain ⟨_, _, rfl⟩ := h
  obtain ⟨z, fl, rfl⟩ := k
  exact ⟨z, fl, rfl⟩

theorem write_place (c : CellRun) (n l : Nat) (m v : VecReg) : SamePlace c (c.write n l m v) := by
  unfold CellRun.write; split <;> exact ⟨_, _, rfl⟩
theorem writeP_place (c : CellRun) (n l : Nat) (m v : Word) : SamePlace c (c.writeP n l m v) := ⟨_, _, rfl⟩
theorem note_place (c : CellRun) (k : FlagSlot) (f : Nat) : SamePlace c (c.note k f) := ⟨_, _, rfl⟩
theorem rowWr_place (c : CellRun) (r : Nat) (m v : VecReg) : SamePlace c (c.rowWr r m v) := by
  unfold CellRun.rowWr; split <;> exact ⟨_, _, rfl⟩
theorem setTile_place (c : CellRun) (n : Nat) (v : TileReg × Nat) : SamePlace c (c.setTile n v) := ⟨_, _, rfl⟩

/-- A result for the name `zero` is discarded (R59). -/
@[simp] theorem write_zero (c : CellRun) (l : Nat) (m v : VecReg) : c.write 2047 l m v = c := rfl

/-- A write leaves the registers, the predicates, the tiles and the rows of the cell: its result lands later (R35). -/
theorem write_keeps (c : CellRun) (n l : Nat) (m v : VecReg) :
    (c.write n l m v).cell.v = c.cell.v ∧ (c.write n l m v).cell.p = c.cell.p ∧ (c.write n l m v).cell.tiles = c.cell.tiles ∧
    (c.write n l m v).cell.sram = c.cell.sram ∧ (c.write n l m v).cell.x = c.cell.x := by
  unfold CellRun.write; split <;> exact ⟨rfl, rfl, rfl, rfl, rfl⟩

/-- A write of a row outside the data area and the carve-out is dropped (R59). -/
theorem rowWr_gap (c : CellRun) (r : Nat) (m v : VecReg) (h : c.rowKept r = false) : c.rowWr r m v = c := by
  unfold CellRun.rowWr; simp [h]

section Shapes
variable {s : State} {u : VSlot} {i : Instr} {f : FmtV} {g : CellRun → CellRun}

/-- A V operation in a cell. -/
theorem vOp_cell {names : List Nat} (h : s.phase = .cell) : vOp s u i names g = .next (s.modCr g) := cellOp_cell h

/-- An X operation in a cell. -/
theorem xOp_cell {l : List Fail} (h : s.phase = .cell) : xOp s i l g = .next (s.modCr g) := cellOp_cell h

/-- An M operation in a cell. -/
theorem mOp_cell {f : FmtM} {l : List Fail} {touch : List Nat} {step : Bool} {n : Nat} (h : s.phase = .cell) :
    mOp s i f l touch step n g = .next (s.modCr g) := cellOp_cell h

/-- A gated operation does nothing where bit 0 of its predicate is 0 (R117). -/
theorem gatedOp_off {f : FmtM} {c : CellRun} (h : c.gate f = false) : gatedOp f g c = c := by simp [gatedOp, h]

theorem gatedOp_place {f : FmtM} (h : ∀ c, SamePlace c (g c)) (c : CellRun) : SamePlace c (gatedOp f g c) := by
  unfold gatedOp; split
  · exact h c
  · exact .refl c

/-- In a cell a V operation that writes a register stays in that cell. -/
theorem vTo_place {names : List Nat} {lat : Nat} {r : CellRun → VecReg × VecReg × Nat} (h : s.phase = .cell) :
    ∃ c, vTo s u i f names lat r = .next { s with cr := c } ∧ SamePlace s.cr c :=
  ⟨_, vOp_cell h, (note_place _ _ _).trans (write_place _ _ _ _ _)⟩

/-- In a cell a load of X stays in that cell. -/
theorem xLoad_place {f : FmtX} {l : List Fail} {r : CellRun → VecReg} (h : s.phase = .cell) :
    ∃ c, xLoad s i f l r = .next { s with cr := c } ∧ SamePlace s.cr c :=
  ⟨_, cellOp_cell h, write_place _ _ _ _ _⟩

end Shapes

/-- A fold of operations that stay in the cell stays in it. -/
theorem foldl_place {α : Type} (l : List α) (g : CellRun → α → CellRun) (h : ∀ c a, SamePlace c (g c a)) :
    ∀ c, SamePlace c (l.foldl g c) := by
  induction l with
  | nil => exact .refl
  | cons a l ih => intro c; exact (h c a).trans (ih _)

end Sys2Proof.Machine
end

