-- ==== Sys2Proof/Laws/Forms.lean ====
section
/-! SUPPORT. Sys2Proof/Laws/Forms.lean: that the shared operations keep the forms of Sys2Proof/Safety.lean. -/
namespace Sys2Proof.Machine

/-- The three forms together. -/
def State.Forms (s : State) : Prop := s.MemOk ∧ s.FeatOk ∧ s.RangesOk

/-- The forms are a matter of the memories and the module block alone. -/
theorem State.Forms.of_eq {s s' : State} (h : s.Forms) (hm : s'.mem = s.mem) (hd : s'.mod = s.mod) : s'.Forms := by
  unfold State.Forms State.MemOk State.FeatOk State.RangesOk at *; rw [hm, hd]; exact h

/-- Only the bytes of the four memories count. -/
theorem State.Forms.of_bytes {s s' : State} (h : s.Forms) (h1 : s'.mem.sram.wf = true) (h2 : s'.mem.ws.wf = true)
    (h3 : s'.mem.hbm.wf = true) (h4 : s'.mem.host.wf = true) (hd : s'.mod = s.mod) : s'.Forms := by
  refine ⟨⟨h1, h2, h3, h4⟩, ?_, ?_⟩
  · have := h.2.1; unfold State.FeatOk at *; rw [hd]; exact this
  · have := h.2.2; unfold State.RangesOk at *; rw [hd]; exact this

section Updates
variable {s : State} (h : s.Forms)
include h

theorem State.Forms.modCtx (c : Nat) (f : Ctx → Ctx) : (s.modCtx c f).Forms := h.of_eq rfl rfl
theorem State.Forms.modT (f : Task → Task) : (s.modT f).Forms := h.of_eq rfl rfl
theorem State.Forms.modCtl (f : TaskCtl → TaskCtl) : (s.modCtl f).Forms := h.of_eq rfl rfl
theorem State.Forms.modSys (f : SysRegs → SysRegs) : (s.modSys f).Forms := h.of_eq rfl rfl
theorem State.Forms.modIss (f : Issue → Issue) : (s.modIss f).Forms := h.of_eq rfl rfl
theorem State.Forms.modCr (f : CellRun → CellRun) : (s.modCr f).Forms := h.of_eq rfl rfl
theorem State.Forms.modRam (f : Rambler → Rambler) : (s.modRam f).Forms := h.of_eq rfl rfl
theorem State.Forms.modEng (f : Engines → Engines) : (s.modEng f).Forms := h.of_eq rfl rfl
theorem State.Forms.putTask (t : Task) : (s.putTask t).Forms := h.of_eq rfl rfl
theorem State.Forms.addFails (l : List Fail) : (s.addFails l).Forms := h.of_eq rfl rfl
theorem State.Forms.stallIf (b : Bool) : (s.stallIf b).Forms := h.of_eq rfl rfl
theorem State.Forms.hold (n : Nat) (d : SDst) (v : DWord) : (s.hold n d v).Forms := h.of_eq rfl rfl
theorem State.Forms.endByFault (c : Nat) (r : FaultRec) : (s.endByFault c r).Forms := h.of_eq rfl rfl
theorem State.Forms.imprecise (t : Task) (n addr : Nat) (hand : Bool) (src kind tval pos : Nat) :
    (s.imprecise t n addr hand src kind tval pos).Forms := h.of_eq rfl rfl
theorem State.Forms.takeTrap (code : Nat) (repl : Bool) (tval : DWord) (fmask epc : Nat) : (s.takeTrap code repl tval fmask epc).Forms :=
  h.of_eq (by simp) (by simp)
theorem State.Forms.leaveTrap : s.leaveTrap.Forms := h.of_eq (by simp) (by simp)
theorem State.Forms.closeIssue : s.closeIssue.Forms := h.of_eq (by simp) (by simp)
theorem State.Forms.tick : s.tick.Forms := h.of_eq rfl rfl
theorem State.Forms.openIssue (t : Task) : (s.openIssue t).Forms := h.of_eq rfl rfl
theorem State.Forms.finishStep : s.finishStep.Forms := h.of_eq rfl rfl

/-- Writing shared SRAM. -/
theorem State.Forms.sramWr (die off n v : Nat) : (s.sramWr die off n v).Forms :=
  h.of_bytes (wf_wrNat _ _ _ _ h.1.1) h.1.2.1 h.1.2.2.1 h.1.2.2.2 rfl
theorem State.Forms.segWr (die off : Nat) (v : VecReg) : (s.segWr die off v).Forms := State.Forms.sramWr h _ _ _ _

/-- Writing the weight store. -/
theorem State.Forms.wsWr (die off n v : Nat) : (s.wsWr die off n v).Forms :=
  h.of_bytes h.1.1 (wf_wrNat _ _ _ _ h.1.2.1) h.1.2.2.1 h.1.2.2.2 rfl

/-- Correcting what a read meets changes no byte. -/
theorem State.Forms.sramFix (die off n : Nat) : (s.sramFix die off n).Forms := by
  unfold State.sramFix; dsimp only; split
  · exact h
  · exact h.of_bytes h.1.1 h.1.2.1 h.1.2.2.1 h.1.2.2.2 rfl
theorem State.Forms.wsFix (die off n : Nat) : (s.wsFix die off n).Forms := by
  unfold State.wsFix; dsimp only; split
  · exact h
  · exact h.of_bytes h.1.1 h.1.2.1 h.1.2.2.1 h.1.2.2.2 rfl
theorem State.Forms.sramSee (t : Task) (n addr : Nat) (hand : Bool) (src pos off len : Nat) :
    (s.sramSee t n addr hand src pos off len).Forms := by
  unfold State.sramSee; split
  · exact State.Forms.imprecise h _ _ _ _ _ _ _ _
  · exact State.Forms.sramFix h _ _ _
theorem State.Forms.wsSee (t : Task) (n addr src pos off len : Nat) : (s.wsSee t n addr src pos off len).Forms := by
  unfold State.wsSee; split
  · exact State.Forms.imprecise h _ _ _ _ _ _ _ _
  · exact State.Forms.wsFix h _ _ _

omit h

/-- A sequencer operation keeps the forms if its wait and its effect do. -/
theorem seqOp_forms {qp qn : Nat} {a g : List Fail} {w c s' : State} (h : s.Forms) (hw : w.Forms) (hc : c.Forms)
    (he : seqOp s qp qn a g w c = .next s') : s'.Forms := by
  rcases seqOp_cases he with ⟨_, rfl⟩ | ⟨_, rfl⟩ | ⟨_, rfl⟩ | ⟨_, rfl⟩
  · exact State.Forms.addFails h _
  · split <;> assumption
  · split <;> assumption
  · exact h

/-- The same for an operation at issue. -/
theorem atIssue_forms {l : List Fail} {w c s' : State} (h : s.Forms) (hw : w.Forms) (hc : c.Forms)
    (he : atIssue s l w c = .next s') : s'.Forms := by
  rcases atIssue_cases he with ⟨_, rfl⟩ | ⟨_, rfl⟩ | ⟨_, rfl⟩ | ⟨_, rfl⟩
  · exact State.Forms.addFails h _
  · exact hw
  · exact hc
  · exact h

/-- The same for an operation of the cell part. -/
theorem cellOp_forms {i : Instr} {l : List Fail} {w c d s' : State} (h : s.Forms) (hw : w.Forms) (hc : c.Forms) (hd : d.Forms)
    (he : cellOp s i l w c d = .next s') : s'.Forms := by
  rcases cellOp_cases he with ⟨_, rfl⟩ | ⟨_, rfl⟩ | ⟨_, rfl⟩ | ⟨_, rfl⟩
  · exact State.Forms.addFails h _
  · exact hw
  · exact hc.of_eq rfl rfl
  · exact hd

/-- The same for a step of another agent. -/
theorem event_forms {b : Bool} {c s' : State} (h : s.Forms) (hc : c.Forms) (he : event s b c = .next s') : s'.Forms := by
  rcases event_cases he with ⟨_, rfl⟩ | ⟨_, rfl⟩
  · exact hc
  · exact h

/-- A run of operations keeps the forms if each of its operations does. -/
theorem runOps_forms (ex : Instr → State → Res) (l : List (DWord × Instr))
    (hop : ∀ e ∈ l, ∀ s s' : State, s.Forms → ex e.2 s = .next s' → s'.Forms) (s s' : State) (h : s.Forms)
    (he : runOps ex l s = .next s') : s'.Forms :=
  runOps_keeps ex State.Forms l (fun _ _ h => State.Forms.modIss h _) hop s s' h he

end Updates

end Sys2Proof.Machine
end

