-- ==== Sys2Proof/Laws/PerInstr.lean ====
section
/-! SUPPORT. Sys2Proof/Laws/PerInstr.lean: statements made instruction by instruction. Family `Encoded`: an instruction has an
encoding exactly when it stands in a slot of a bundle, not in a row of another agent (R2, R67). -/
namespace Sys2Proof.Laws.Encoded
open Sys2Proof.Machine

/-- `i` has an encoding exactly when it is an operation of a slot. -/
def Statement (i : Instr) : Prop := (encode i).isSome = !isEvent i

theorem selection (p c r : Nat) : Statement (.selection p c r) := rfl
theorem nopSeq (u : SeqSlot) : Statement (.nopSeq u) := rfl
theorem add (u : SeqSlot) (f : FmtSR) : Statement (.add u f) := rfl
theorem sub (u : SeqSlot) (f : FmtSR) : Statement (.sub u f) := rfl
theorem mul (u : SeqSlot) (f : FmtSR) : Statement (.mul u f) := rfl
theorem mulh (u : SeqSlot) (f : FmtSR) : Statement (.mulh u f) := rfl
theorem div (u : SeqSlot) (f : FmtSR) : Statement (.div u f) := rfl
theorem rem (u : SeqSlot) (f : FmtSR) : Statement (.rem u f) := rfl
theorem and (u : SeqSlot) (f : FmtSR) : Statement (.and u f) := rfl
theorem or (u : SeqSlot) (f : FmtSR) : Statement (.or u f) := rfl
theorem xor (u : SeqSlot) (f : FmtSR) : Statement (.xor u f) := rfl
theorem shl (u : SeqSlot) (f : FmtSR) : Statement (.shl u f) := rfl
theorem shr (u : SeqSlot) (f : FmtSR) : Statement (.shr u f) := rfl
theorem min (u : SeqSlot) (f : FmtSR) : Statement (.min u f) := rfl
theorem max (u : SeqSlot) (f : FmtSR) : Statement (.max u f) := rfl
theorem clz (u : SeqSlot) (f : FmtSR) : Statement (.clz u f) := rfl
theorem popc (u : SeqSlot) (f : FmtSR) : Statement (.popc u f) := rfl
theorem sel (u : SeqSlot) (f : FmtSR) : Statement (.sel u f) := rfl
theorem addsc (u : SeqSlot) (f : FmtSR) : Statement (.addsc u f) := rfl
theorem cmp (u : SeqSlot) (f : FmtSR) : Statement (.cmp u f) := rfl
theorem bfx (u : SeqSlot) (f : FmtSR) : Statement (.bfx u f) := rfl
theorem bfi (u : SeqSlot) (f : FmtSR) : Statement (.bfi u f) := rfl
theorem addi (u : SeqSlot) (f : FmtSI) : Statement (.addi u f) := rfl
theorem muli (u : SeqSlot) (f : FmtSI) : Statement (.muli u f) := rfl
theorem andi (u : SeqSlot) (f : FmtSI) : Statement (.andi u f) := rfl
theorem ori (u : SeqSlot) (f : FmtSI) : Statement (.ori u f) := rfl
theorem xori (u : SeqSlot) (f : FmtSI) : Statement (.xori u f) := rfl
theorem shli (u : SeqSlot) (f : FmtSI) : Statement (.shli u f) := rfl
theorem shri (u : SeqSlot) (f : FmtSI) : Statement (.shri u f) := rfl
theorem movi (u : SeqSlot) (f : FmtSI) : Statement (.movi u f) := rfl
theorem movh (u : SeqSlot) (f : FmtSI) : Statement (.movh u f) := rfl
theorem cmpi (u : SeqSlot) (f : FmtSI) : Statement (.cmpi u f) := rfl
theorem qand (u : SeqSlot) (f : FmtSR) : Statement (.qand u f) := rfl
theorem qor (u : SeqSlot) (f : FmtSR) : Statement (.qor u f) := rfl
theorem qxor (u : SeqSlot) (f : FmtSR) : Statement (.qxor u f) := rfl
theorem qnot (u : SeqSlot) (f : FmtSR) : Statement (.qnot u f) := rfl
theorem sld (u : SeqSlot) (f : FmtSM) : Statement (.sld u f) := rfl
theorem sst (u : SeqSlot) (f : FmtSM) : Statement (.sst u f) := rfl
theorem samo (u : SeqSlot) (f : FmtSA) : Statement (.samo u f) := rfl
theorem br (f : FmtSB) : Statement (.br f) := rfl
theorem call (f : FmtSB) : Statement (.call f) := rfl
theorem ret (f : FmtSB) : Statement (.ret f) := rfl
theorem brx (f : FmtSB) : Statement (.brx f) := rfl
theorem bagg (f : FmtSB) : Statement (.bagg f) := rfl
theorem loop (f : FmtSB) : Statement (.loop f) := rfl
theorem loopi (f : FmtSY) : Statement (.loopi f) := rfl
theorem mfs (f : FmtSY) : Statement (.mfs f) := rfl
theorem mts (f : FmtSY) : Statement (.mts f) := rfl
theorem ftset (f : FmtSY) : Statement (.ftset f) := rfl
theorem mskset (f : FmtSY) : Statement (.mskset f) := rfl
theorem rot (f : FmtSY) : Statement (.rot f) := rfl
theorem stage (f : FmtSY) : Statement (.stage f) := rfl
theorem fpclr (f : FmtSY) : Statement (.fpclr f) := rfl
theorem dset (f : FmtSY) : Statement (.dset f) := rfl
theorem trap (f : FmtSY) : Statement (.trap f) := rfl
theorem brk (f : FmtSY) : Statement (.brk f) := rfl
theorem eret (f : FmtSY) : Statement (.eret f) := rfl
theorem done (f : FmtSY) : Statement (.done f) := rfl
theorem twait (f : FmtSY) : Statement (.twait f) := rfl
theorem tstat (f : FmtSY) : Statement (.tstat f) := rfl
theorem rwait (f : FmtSY) : Statement (.rwait f) := rfl
theorem rfree (f : FmtSY) : Statement (.rfree f) := rfl
theorem radv (f : FmtSY) : Statement (.radv f) := rfl
theorem semw (f : FmtSY) : Statement (.semw f) := rfl
theorem semsig (f : FmtSY) : Statement (.semsig f) := rfl
theorem bar (f : FmtSY) : Statement (.bar f) := rfl
theorem fence (f : FmtSY) : Statement (.fence f) := rfl
theorem rel (f : FmtSY) : Statement (.rel f) := rfl
theorem acq (f : FmtSY) : Statement (.acq f) := rfl
theorem launch (f : FmtSY) : Statement (.launch f) := rfl
theorem trig (f : FmtSY) : Statement (.trig f) := rfl
theorem evpop (f : FmtSY) : Statement (.evpop f) := rfl
theorem nopV (u : VSlot) : Statement (.nopV u) := rfl
theorem vadd (u : VSlot) (f : FmtV) : Statement (.vadd u f) := rfl
theorem vsub (u : VSlot) (f : FmtV) : Statement (.vsub u f) := rfl
theorem vmul (u : VSlot) (f : FmtV) : Statement (.vmul u f) := rfl
theorem vmulh (u : VSlot) (f : FmtV) : Statement (.vmulh u f) := rfl
theorem vmad (u : VSlot) (f : FmtV) : Statement (.vmad u f) := rfl
theorem vand (u : VSlot) (f : FmtV) : Statement (.vand u f) := rfl
theorem vor (u : VSlot) (f : FmtV) : Statement (.vor u f) := rfl
theorem vxor (u : VSlot) (f : FmtV) : Statement (.vxor u f) := rfl
theorem vshl (u : VSlot) (f : FmtV) : Statement (.vshl u f) := rfl
theorem vshr (u : VSlot) (f : FmtV) : Statement (.vshr u f) := rfl
theorem vsar (u : VSlot) (f : FmtV) : Statement (.vsar u f) := rfl
theorem vmin (u : VSlot) (f : FmtV) : Statement (.vmin u f) := rfl
theorem vmax (u : VSlot) (f : FmtV) : Statement (.vmax u f) := rfl
theorem vabs (u : VSlot) (f : FmtV) : Statement (.vabs u f) := rfl
theorem vclz (u : VSlot) (f : FmtV) : Statement (.vclz u f) := rfl
theorem vpopc (u : VSlot) (f : FmtV) : Statement (.vpopc u f) := rfl
theorem vadds (u : VSlot) (f : FmtV) : Statement (.vadds u f) := rfl
theorem vsubs (u : VSlot) (f : FmtV) : Statement (.vsubs u f) := rfl
theorem vcmp (u : VSlot) (f : FmtV) : Statement (.vcmp u f) := rfl
theorem vfadd (u : VSlot) (f : FmtV) : Statement (.vfadd u f) := rfl
theorem vfsub (u : VSlot) (f : FmtV) : Statement (.vfsub u f) := rfl
theorem vfmul (u : VSlot) (f : FmtV) : Statement (.vfmul u f) := rfl
theorem vfma (u : VSlot) (f : FmtV) : Statement (.vfma u f) := rfl
theorem vfmin (u : VSlot) (f : FmtV) : Statement (.vfmin u f) := rfl
theorem vfmax (u : VSlot) (f : FmtV) : Statement (.vfmax u f) := rfl
theorem vfabs (u : VSlot) (f : FmtV) : Statement (.vfabs u f) := rfl
theorem vfneg (u : VSlot) (f : FmtV) : Statement (.vfneg u f) := rfl
theorem vfcmp (u : VSlot) (f : FmtV) : Statement (.vfcmp u f) := rfl
theorem vfclass (u : VSlot) (f : FmtV) : Statement (.vfclass u f) := rfl
theorem vrcp (u : VSlot) (f : FmtV) : Statement (.vrcp u f) := rfl
theorem vrsq (u : VSlot) (f : FmtV) : Statement (.vrsq u f) := rfl
theorem vsqrt (u : VSlot) (f : FmtV) : Statement (.vsqrt u f) := rfl
theorem vexp2 (u : VSlot) (f : FmtV) : Statement (.vexp2 u f) := rfl
theorem vlog2 (u : VSlot) (f : FmtV) : Statement (.vlog2 u f) := rfl
theorem vtanh (u : VSlot) (f : FmtV) : Statement (.vtanh u f) := rfl
theorem vcvt (u : VSlot) (f : FmtV) : Statement (.vcvt u f) := rfl
theorem vcvti (u : VSlot) (f : FmtV) : Statement (.vcvti u f) := rfl
theorem vcvtf (u : VSlot) (f : FmtV) : Statement (.vcvtf u f) := rfl
theorem vpack (u : VSlot) (f : FmtV) : Statement (.vpack u f) := rfl
theorem vmxs (u : VSlot) (f : FmtV) : Statement (.vmxs u f) := rfl
theorem vunpk (u : VSlot) (f : FmtV) : Statement (.vunpk u f) := rfl
theorem vcmpr (u : VSlot) (f : FmtV) : Statement (.vcmpr u f) := rfl
theorem vmov (u : VSlot) (f : FmtV) : Statement (.vmov u f) := rfl
theorem vmovi (u : VSlot) (f : FmtV) : Statement (.vmovi u f) := rfl
theorem vsel (u : VSlot) (f : FmtV) : Statement (.vsel u f) := rfl
theorem vperm (u : VSlot) (f : FmtV) : Statement (.vperm u f) := rfl
theorem vshuf (u : VSlot) (f : FmtV) : Statement (.vshuf u f) := rfl
theorem vbcast (u : VSlot) (f : FmtV) : Statement (.vbcast u f) := rfl
theorem vred (u : VSlot) (f : FmtV) : Statement (.vred u f) := rfl
theorem vcoord (u : VSlot) (f : FmtV) : Statement (.vcoord u f) := rfl
theorem pand (u : VSlot) (f : FmtV) : Statement (.pand u f) := rfl
theorem por (u : VSlot) (f : FmtV) : Statement (.por u f) := rfl
theorem pxor (u : VSlot) (f : FmtV) : Statement (.pxor u f) := rfl
theorem pnot (u : VSlot) (f : FmtV) : Statement (.pnot u f) := rfl
theorem pset (u : VSlot) (f : FmtV) : Statement (.pset u f) := rfl
theorem pflag (u : VSlot) (f : FmtV) : Statement (.pflag u f) := rfl
theorem nopM : Statement (.nopM) := rfl
theorem mma (f : FmtM) : Statement (.mma f) := rfl
theorem mmas (f : FmtM) : Statement (.mmas f) := rfl
theorem mmaz (f : FmtM) : Statement (.mmaz f) := rfl
theorem aclr (f : FmtM) : Statement (.aclr f) := rfl
theorem ald (f : FmtM) : Statement (.ald f) := rfl
theorem ast (f : FmtM) : Statement (.ast f) := rfl
theorem adrn (f : FmtM) : Statement (.adrn f) := rfl
theorem ascl (f : FmtM) : Statement (.ascl f) := rfl
theorem aadd (f : FmtM) : Statement (.aadd f) := rfl
theorem nopX : Statement (.nopX) := rfl
theorem ldv (f : FmtX) : Statement (.ldv f) := rfl
theorem stv (f : FmtX) : Statement (.stv f) := rfl
theorem ldt (f : FmtX) : Statement (.ldt f) := rfl
theorem movx (f : FmtX) : Statement (.movx f) := rfl
theorem movxp (f : FmtX) : Statement (.movxp f) := rfl
theorem ldsp (f : FmtX) : Statement (.ldsp f) := rfl
theorem stsp (f : FmtX) : Statement (.stsp f) := rfl
theorem gthl (f : FmtX) : Statement (.gthl f) := rfl
theorem sctl (f : FmtX) : Statement (.sctl f) := rfl
theorem ldb (f : FmtX) : Statement (.ldb f) := rfl
theorem rbpop : Statement (.rbpop) := rfl
theorem rotCc : Statement (.rotCc) := rfl
theorem sshift (n : Nat) : Statement (.sshift n) := rfl
theorem nopLd : Statement (.nopLd) := rfl
theorem eldw (f : FmtEdge) : Statement (.eldw f) := rfl
theorem eldn (f : FmtEdge) : Statement (.eldn f) := rfl
theorem eldwr (f : FmtEdge) : Statement (.eldwr f) := rfl
theorem eldnr (f : FmtEdge) : Statement (.eldnr f) := rfl
theorem ews (f : FmtEdge) : Statement (.ews f) := rfl
theorem ewin (f : FmtEdge) : Statement (.ewin f) := rfl
theorem eldt (f : FmtEdge) : Statement (.eldt f) := rfl
theorem eldb (f : FmtEdge) : Statement (.eldb f) := rfl
theorem nopSt : Statement (.nopSt) := rfl
theorem ests (f : FmtEdge) : Statement (.ests f) := rfl
theorem este (f : FmtEdge) : Statement (.este f) := rfl
theorem estsr (f : FmtEdge) : Statement (.estsr f) := rfl
theorem epop (f : FmtEdge) : Statement (.epop f) := rfl
theorem epopr (f : FmtEdge) : Statement (.epopr f) := rfl
theorem estsa (f : FmtEdge) : Statement (.estsa f) := rfl
theorem nopE : Statement (.nopE) := rfl
theorem dqatt (f : FmtE) : Statement (.dqatt f) := rfl
theorem dqdet (f : FmtE) : Statement (.dqdet f) := rfl
theorem cpy (f : FmtE) : Statement (.cpy f) := rfl
theorem cpy2 (f : FmtE) : Statement (.cpy2 f) := rfl
theorem cpyt (f : FmtE) : Statement (.cpyt f) := rfl
theorem cpyp (f : FmtE) : Statement (.cpyp f) := rfl
theorem fill (f : FmtE) : Statement (.fill f) := rfl
theorem wsld (f : FmtE) : Statement (.wsld f) := rfl
theorem gth2 (f : FmtE) : Statement (.gth2 f) := rfl
theorem sct2 (f : FmtE) : Statement (.sct2 f) := rfl
theorem gthr (f : FmtE) : Statement (.gthr f) := rfl
theorem sctr (f : FmtE) : Statement (.sctr f) := rfl
theorem idec (f : FmtE) : Statement (.idec f) := rfl
theorem rsc (f : FmtE) : Statement (.rsc f) := rfl
theorem agt (f : FmtE) : Statement (.agt f) := rfl
theorem ard (f : FmtE) : Statement (.ard f) := rfl
theorem bcs (f : FmtE) : Statement (.bcs f) := rfl
theorem nmadd (f : FmtE) : Statement (.nmadd f) := rfl
theorem nmamo (f : FmtE) : Statement (.nmamo f) := rfl
theorem nmgs (f : FmtE) : Statement (.nmgs f) := rfl
theorem nmdot (f : FmtE) : Statement (.nmdot f) := rfl
theorem nmopt (f : FmtE) : Statement (.nmopt f) := rfl
theorem nmfence (f : FmtE) : Statement (.nmfence f) := rfl
theorem pksel (f : FmtE) : Statement (.pksel f) := rfl
theorem pkfwd (f : FmtE) : Statement (.pkfwd f) := rfl
theorem pkbwd (f : FmtE) : Statement (.pkbwd f) := rfl
theorem pkmrg (f : FmtE) : Statement (.pkmrg f) := rfl
theorem vxget (f : FmtE) : Statement (.vxget f) := rfl
theorem vxput (f : FmtE) : Statement (.vxput f) := rfl
theorem vxadd (f : FmtE) : Statement (.vxadd f) := rfl
theorem vxinv (f : FmtE) : Statement (.vxinv f) := rfl
theorem vxtile (f : FmtE) : Statement (.vxtile f) := rfl
theorem vxpoolInit (f : FmtE) : Statement (.vxpoolInit f) := rfl
theorem vxpoolAddt (f : FmtE) : Statement (.vxpoolAddt f) := rfl
theorem vxpoolAddn (f : FmtE) : Statement (.vxpoolAddn f) := rfl
theorem bubble (head : Nat) : Statement (.bubble head) := rfl
theorem cellExecute (head pos row col : Nat) : Statement (.cellExecute head pos row col) := rfl
theorem edgeSegmentAct (head pos : Nat) (store : Bool) (seg : Nat) : Statement (.edgeSegmentAct head pos store seg) := rfl
theorem edgeStorePerform (head pos : Nat) : Statement (.edgeStorePerform head pos) := rfl
theorem ringProducerPublish (head ring : Nat) : Statement (.ringProducerPublish head ring) := rfl
theorem ringConsumerPublish (head ring : Nat) : Statement (.ringConsumerPublish head ring) := rfl
theorem aggregateComplete (head : Nat) : Statement (.aggregateComplete head) := rfl
theorem randomWordRefill (head : Nat) : Statement (.randomWordRefill head) := rfl
theorem weightStoreRefresh (bank : Nat) : Statement (.weightStoreRefresh bank) := rfl
theorem engineStart (head cls die : Nat) : Statement (.engineStart head cls die) := rfl
theorem engineElementPerform (cmd : Nat) : Statement (.engineElementPerform cmd) := rfl
theorem engineComplete (cmd : Nat) : Statement (.engineComplete cmd) := rfl
theorem dqDetachComplete (head dq : Nat) : Statement (.dqDetachComplete head dq) := rfl
theorem drainRowPopEngine (cmd : Nat) : Statement (.drainRowPopEngine cmd) := rfl
theorem collectivePerform (coll : Nat) : Statement (.collectivePerform coll) := rfl
theorem idecPatchPublish (cmd : Nat) : Statement (.idecPatchPublish cmd) := rfl
theorem pkfwdRingOutput (cmd : Nat) : Statement (.pkfwdRingOutput cmd) := rfl
theorem nmoptGuardRead (cmd : Nat) : Statement (.nmoptGuardRead cmd) := rfl
theorem returnFreeAddPerform (add : Nat) : Statement (.returnFreeAddPerform add) := rfl
theorem allocTrapTake (head : Nat) : Statement (.allocTrapTake head) := rfl
theorem shootdownAck (die cmd : Nat) : Statement (.shootdownAck die cmd) := rfl
theorem contextEndFault (ctx : Nat) : Statement (.contextEndFault ctx) := rfl
theorem schedule : Statement (.schedule) := rfl
theorem timeSliceExpire (head : Nat) : Statement (.timeSliceExpire head) := rfl
theorem blockingQuantumExpire (head : Nat) : Statement (.blockingQuantumExpire head) := rfl
theorem preempt (head : Nat) : Statement (.preempt head) := rfl
theorem resume (task : Nat) : Statement (.resume task) := rfl
theorem systemBarArrival (m : SysMsg) : Statement (.systemBarArrival m) := rfl
theorem systemBarCompletion (m : SysMsg) : Statement (.systemBarCompletion m) := rfl
theorem flitReceive (port : Nat) (flit : Flit) : Statement (.flitReceive port flit) := rfl
theorem replayRequest (port seq : Nat) : Statement (.replayRequest port seq) := rfl
theorem linkAccessTimeout (access : Nat) : Statement (.linkAccessTimeout access) := rfl
theorem remoteAccess (a : LinkAccess) : Statement (.remoteAccess a) := rfl
theorem scrubBurst (stack : Nat) : Statement (.scrubBurst stack) := rfl
theorem migrationCommit (ctx : Nat) : Statement (.migrationCommit ctx) := rfl
theorem invalidationComplete (ctx : Nat) : Statement (.invalidationComplete ctx) := rfl
theorem driverCopyComplete (fn : Nat) : Statement (.driverCopyComplete fn) := rfl
theorem tailWrite (r : Req) (ctx queue tail : Nat) : Statement (.tailWrite r ctx queue tail) := rfl
theorem qdescWrite (r : Req) (ctx queue : Nat) (d : Quad) : Statement (.qdescWrite r ctx queue d) := rfl
theorem cdescWrite (r : Req) (ctx : Nat) (d : Quad) : Statement (.cdescWrite r ctx d) := rfl
theorem contextCreate (r : Req) (ctx : Nat) : Statement (.contextCreate r ctx) := rfl
theorem contextEnd (r : Req) (ctx : Nat) : Statement (.contextEnd r ctx) := rfl
theorem invalidate (r : Req) (ctx val : Nat) : Statement (.invalidate r ctx val) := rfl
theorem migrationStart (r : Req) (ctx : Nat) (d : Quad) : Statement (.migrationStart r ctx d) := rfl
theorem migrationAbort (r : Req) (ctx : Nat) : Statement (.migrationAbort r ctx) := rfl
theorem faultResume (r : Req) (ctx val : Nat) : Statement (.faultResume r ctx val) := rfl
theorem faultEndContext (r : Req) (ctx val : Nat) : Statement (.faultEndContext r ctx val) := rfl
theorem debugAttach (r : Req) (ctx : Nat) (on : Bool) : Statement (.debugAttach r ctx on) := rfl
theorem debugStop (r : Req) (ctx head : Nat) : Statement (.debugStop r ctx head) := rfl
theorem debugRelease (r : Req) (ctx : Nat) : Statement (.debugRelease r ctx) := rfl
theorem partitionWrite (r : Req) (ctx die d0 d1 : Nat) : Statement (.partitionWrite r ctx die d0 d1) := rfl
theorem privextWrite (r : Req) (ext base limit : Nat) : Statement (.privextWrite r ext base limit) := rfl
theorem driverCopyToDevice (r : Req) (ctl : Nat) : Statement (.driverCopyToDevice r ctl) := rfl
theorem driverCopyToHost (r : Req) (ctl : Nat) : Statement (.driverCopyToHost r ctl) := rfl
theorem fqdropClear (r : Req) : Statement (.fqdropClear r) := rfl
theorem errlogClear (r : Req) : Statement (.errlogClear r) := rfl
theorem claim (r : Req) : Statement (.claim r) := rfl
theorem handover (r : Req) (newOwner : Nat) : Statement (.handover r newOwner) := rfl
theorem beat (r : Req) : Statement (.beat r) := rfl
theorem leaseExpire : Statement (.leaseExpire) := rfl
theorem featgo (r : Req) : Statement (.featgo r) := rfl
theorem fwgo (r : Req) : Statement (.fwgo r) := rfl
theorem attgo (r : Req) : Statement (.attgo r) := rfl
theorem attestationComplete : Statement (.attestationComplete) := rfl
theorem pstateOff (r : Req) : Statement (.pstateOff r) := rfl
theorem modidWrite (r : Req) (val : Nat) : Statement (.modidWrite r val) := rfl
theorem registerWrite (r : Req) (offset val : Nat) : Statement (.registerWrite r offset val) := rfl
theorem portTraining (port : Nat) (p : Peer) : Statement (.portTraining port p) := rfl
theorem resetRelease (b : BootResult) : Statement (.resetRelease b) := rfl
theorem powerStateEnter (p : Nat) : Statement (.powerStateEnter p) := rfl
theorem powerStateExit : Statement .powerStateExit := rfl
theorem powerThrottle : Statement (.powerThrottle) := rfl
theorem overtempStop : Statement (.overtempStop) := rfl
theorem moduleStop (code : Nat) : Statement (.moduleStop code) := rfl
theorem powerFallsBack : Statement (.powerFallsBack) := rfl

end Sys2Proof.Laws.Encoded
end

