-- ==== Sys2Proof/Laws/Ports.lean ====
section
/-! SUPPORT. Sys2Proof/Laws/Ports.lean: what the operations of the memory port, the engines' issue and the register blocks can do,
and that they keep the forms. -/
namespace Sys2Proof.Machine

/-! ## Operations of LD, ST and E at issue -/

/-- Everything an edge operation can do (R48, R86, R193). -/
theorem edgeOp_cases {s s' : State} {i : Instr} {store : Bool} (h : edgeOp s i store = .next s') :
    (s.phase = .check ∧ s' = s.addFails (edgeFails s (mkEdge s i store))) ∨
    (s.phase = .wait ∧ s' = s.edgeWait (mkEdge s i store)) ∨ (s.phase = .commit ∧ s' = s.commitEdge (mkEdge s i store)) ∨
    (s.phase = .cell ∧ s' = s) := atIssue_cases h

/-- Everything an engine command of classes 1 to 6 can do at issue (R225). -/
theorem engineOp_cases {s s' : State} {i : Instr} {f : FmtE} {op n : Nat} {res : List DWord → Bool} {more : List Fail}
    (h : engineOp s i f op n res more = .next s') :
    (s.phase = .check ∧ s' = s.addFails (engineFails s f n res more)) ∨ (s.phase = .wait ∧ s' = engineWait s f (op / 16)) ∨
    (s.phase = .commit ∧ s' = s.enqueue i f op n) ∨ (s.phase = .cell ∧ s' = s) := atIssue_cases h

/-- Entering a command changes the task and the engines alone. -/
theorem enqueue_frame (s : State) (i : Instr) (f : FmtE) (op n : Nat) :
    s.enqueue i f op n = { s with t := (s.enqueue i f op n).t, eng := (s.enqueue i f op n).eng } := rfl

/-! ## Register blocks (R361, R366 to R368) -/

/-- Everything a write to the block of a context can do; an access that reaches it starts the exit from P1 or P2 (R374). -/
theorem ctxWrite_cases (s : State) (r : Req) (c off : Nat) (s' : State) :
    s.ctxWrite r c off s' = s ∨ ((s.isOwner r || (s.ctx c).fn == r.fn) = true ∧ s.ctxWrite r c off s' = s'.wake) ∨
    ((s.isOwner r || (s.ctx c).fn == r.fn) = false ∧
      s.ctxWrite r c off s' = (s.logIgnored (s.ctx c).fn r.fn (ctxOffset c + off)).wake) := by
  unfold State.ctxWrite
  split
  · exact .inl rfl
  · split
    · rename_i h; exact .inr (.inl ⟨h, rfl⟩)
    · rename_i h; exact .inr (.inr ⟨by simpa using h, rfl⟩)

/-- Everything a write to the module block can do. -/
theorem modWrite_cases (s : State) (r : Req) (off : Nat) (s' : State) :
    s.modWrite r off s' = s ∨ (r.fn ≠ 0 ∧ s.modWrite r off s' = s.wake) ∨ (s.isOwner r = true ∧ s.modWrite r off s' = s'.wake) ∨
    (s.isOwner r = false ∧ s.modWrite r off s' = (s.logIgnored 0 r.fn off).wake) := by
  unfold State.modWrite
  split
  · exact .inl rfl
  · split
    · rename_i h; exact .inr (.inl ⟨h, rfl⟩)
    · split
      · rename_i h; exact .inr (.inr (.inl ⟨h, rfl⟩))
      · rename_i h; exact .inr (.inr (.inr ⟨by simpa using h, rfl⟩))

/-! ## Entries a die holds, tables, volumes (R323, R329, R332, R275) -/

/-- Everything a failed access leaves of its entry: at most one more translation, without a page (R323). -/
theorem holdEntry_cases (s : State) (die ctx k : Nat) :
    (s.holdEntry die ctx k = s ∧ (s.holdsEntry die ctx k || (s.bufEntry ctx k).remote) = true) ∨
    ((s.holdsEntry die ctx k || (s.bufEntry ctx k).remote) = false ∧ s.holdEntry die ctx k =
      { s with eng := { s.eng with tlb := s.eng.tlb ++ [⟨die, ctx, k, noPage, 0, s.usedEntry die ctx k⟩] } }) := by
  unfold State.holdEntry
  split
  · rename_i h; exact .inl ⟨rfl, h⟩
  · rename_i h; exact .inr ⟨by simpa using h, rfl⟩

/-- After it, the command stays past its owner check (R323). -/
theorem ownerPass_holdEntry (s : State) (die ctx k : Nat) (h : (s.bufEntry ctx k).remote = false) :
    (s.holdEntry die ctx k).ownerPass die ctx k = true := by
  rcases holdEntry_cases s die ctx k with ⟨e, g⟩ | ⟨_, e⟩ <;> rw [e] <;> unfold State.ownerPass
  · rw [h, Bool.or_false] at g; rw [g, Bool.true_or]
  · rw [Bool.or_eq_true]; left; unfold State.holdsEntry; simp

/-- Everything a migration's reading of its tables leads to: the end of the context, or the tables corrected and the rest done. -/
theorem withTables_cases (s : State) (ctx buf page : Nat) (f : State → State) :
    (∃ e, (s.migTables ctx buf page).findSome? (s.burstErr true) = some e ∧
      s.withTables ctx buf page f = (s.errSeen e).endByFault ctx { s.saveRec e.off with buf := buf }) ∨
    ((s.migTables ctx buf page).findSome? (s.burstErr true) = none ∧
      s.withTables ctx buf page f = f ((s.migTables ctx buf page).foldl State.burstTouch s)) := by
  unfold State.withTables
  split
  · rename_i e h; exact .inl ⟨e, h, rfl⟩
  · rename_i h; exact .inr ⟨h, rfl⟩

/-- Forgetting the volumes whose buffers were replaced changes contexts and engines alone. -/
theorem keepInits_frame (old s : State) : old.keepInits s = { s with ctxs := (old.keepInits s).ctxs, eng := (old.keepInits s).eng } := rfl

/-- A host read at bus addresses that do not wrap is a read of the function's memory (log entry 74). -/
theorem hostRd_eq (m : Mem) (fn n : Nat) : ∀ a, a + n ≤ 2 ^ 64 → hostRd m fn a n = rdNat m (fn * 2 ^ 64 + a) n := by
  induction n with
  | zero => intros; rfl
  | succ n ih =>
    intro a h
    unfold hostRd rdNat hostKey
    rw [Nat.mod_eq_of_lt (by omega), ih (a + 1) (by omega), Nat.add_assoc]

/-- A host write there. -/
theorem hostWr_eq (fn n : Nat) : ∀ (m : Mem) (a v : Nat), a + n ≤ 2 ^ 64 → hostWr m fn a n v = wrNat m (fn * 2 ^ 64 + a) n v := by
  induction n with
  | zero => intros; rfl
  | succ n ih =>
    intro m a v h
    unfold hostWr wrNat hostKey
    rw [Nat.mod_eq_of_lt (by omega), ih _ (a + 1) _ (by omega), Nat.add_assoc]

/-- A host write keeps the canonical form. -/
theorem wf_hostWr (fn n : Nat) : ∀ (m : Mem) (a v : Nat), m.wf = true → (hostWr m fn a n v).wf = true := by
  induction n with
  | zero => exact fun _ _ _ h => h
  | succ n ih => exact fun m a v h => ih _ _ _ (wf_wrByte _ _ _ h)

/-! ## The forms -/

section Forms
variable {s : State}

theorem foldl_forms {α : Type} (l : List α) (g : State → α → State) (hg : ∀ s a, s.Forms → (g s a).Forms) :
    ∀ s : State, s.Forms → (l.foldl g s).Forms := by
  induction l with
  | nil => exact fun _ h => h
  | cons a l ih => exact fun s h => ih _ (hg s a h)

variable (h : s.Forms)
include h

theorem State.Forms.modFn (fn : Nat) (f : FnBlock → FnBlock) : (s.modFn fn f).Forms := h.of_eq rfl rfl
theorem State.Forms.modPort (p : Nat) (f : LinkPort → LinkPort) : (s.modPort p f).Forms := h.of_eq rfl rfl
theorem State.Forms.hostWr (a n v : Nat) : (s.modMem (fun m => { m with host := wrNat m.host a n v })).Forms :=
  h.of_bytes h.1.1 h.1.2.1 h.1.2.2.1 (wf_wrNat _ _ _ _ h.1.2.2.2) rfl
theorem State.Forms.logIgnored (fn from_ off : Nat) : (s.logIgnored fn from_ off).Forms := h.of_eq rfl rfl

theorem State.Forms.wake : s.wake.Forms := by
  unfold State.wake; split
  · exact h
  · exact h

theorem State.Forms.ctxWrite (r : Req) (c off : Nat) {s' : State} (h' : s'.Forms) : (s.ctxWrite r c off s').Forms := by
  rcases ctxWrite_cases s r c off s' with e | ⟨_, e⟩ | ⟨_, e⟩ <;> rw [e]
  · exact h
  · exact State.Forms.wake h'
  · exact State.Forms.wake (State.Forms.logIgnored h _ _ _)

theorem State.Forms.modWrite (r : Req) (off : Nat) {s' : State} (h' : s'.Forms) : (s.modWrite r off s').Forms := by
  rcases modWrite_cases s r off s' with e | ⟨_, e⟩ | ⟨_, e⟩ | ⟨_, e⟩ <;> rw [e]
  · exact h
  · exact State.Forms.wake h
  · exact State.Forms.wake h'
  · exact State.Forms.wake (State.Forms.logIgnored h _ _ _)

/-- Writing device memory. -/
theorem State.Forms.devWr (a n v : Nat) : (s.devWr a n v).Forms :=
  h.of_bytes h.1.1 h.1.2.1 (wf_wrNat _ _ _ _ h.1.2.2.1) h.1.2.2.2 rfl

/-- Writing one byte where a buffer lies. -/
theorem State.Forms.locWr (l : Loc) (b : Byte) : (s.locWr l b).Forms := by
  cases l with
  | dev a => exact h.of_bytes h.1.1 h.1.2.1 (wf_wrByte _ _ _ h.1.2.2.1) h.1.2.2.2 rfl
  | bus fn a => exact h.of_bytes h.1.1 h.1.2.1 h.1.2.2.1 (wf_wrByte _ _ _ h.1.2.2.2) rfl
  | zeros => exact h

theorem State.Forms.holdPte (die ctx k p : Nat) : (s.holdPte die ctx k p).Forms := by
  unfold State.holdPte; dsimp only; split
  · exact State.Forms.modEng h _
  · exact h

theorem State.Forms.holdEntry (die ctx k : Nat) : (s.holdEntry die ctx k).Forms := by
  rcases holdEntry_cases s die ctx k with ⟨e, _⟩ | ⟨_, e⟩ <;> rw [e]
  · exact h
  · exact h.of_eq rfl rfl

theorem State.Forms.keepInits (old : State) : (old.keepInits s).Forms := h.of_eq rfl rfl

/-- Reading a burst changes no byte. -/
theorem State.Forms.burstTouch (b : Nat) : (s.burstTouch b).Forms := by
  unfold State.burstTouch; dsimp only; split
  · exact h
  · split <;> exact h.of_bytes h.1.1 h.1.2.1 h.1.2.2.1 h.1.2.2.2 rfl

theorem State.Forms.errSeen (e : PortErr) : (s.errSeen e).Forms := by
  unfold State.errSeen; split
  · exact State.Forms.burstTouch h _
  · exact h

/-- A migration's tables: what is done with them has to keep the forms (R354, R355). -/
theorem State.Forms.withTables (ctx buf page : Nat) (f : State → State) (hf : ∀ s : State, s.Forms → (f s).Forms) :
    (s.withTables ctx buf page f).Forms := by
  rcases withTables_cases s ctx buf page f with ⟨e, _, q⟩ | ⟨_, q⟩ <;> rw [q]
  · exact (State.Forms.errSeen h e).of_eq rfl rfl
  · exact hf _ (foldl_forms _ _ (fun s b h => State.Forms.burstTouch h b) _ h)

theorem State.Forms.burstFresh (b : Nat) : (s.burstFresh b).Forms := h.of_bytes h.1.1 h.1.2.1 h.1.2.2.1 h.1.2.2.2 rfl

theorem State.Forms.sbWrByte (l : Loc) (i v : Nat) : (s.sbWrByte l i v).Forms := by
  cases l with
  | dev a => exact h.of_bytes h.1.1 h.1.2.1 h.1.2.2.1 h.1.2.2.2 rfl
  | bus fn a => exact h
  | zeros => exact h

theorem State.Forms.sbPlain (mxsb : Bool) (l : Loc) (lo hi : Nat) : (s.sbPlain mxsb l lo hi).Forms := by
  cases l with
  | dev a =>
    unfold State.sbPlain; dsimp only; split
    · exact foldl_forms _ _ (fun s i h => by split; exacts [State.Forms.sbWrByte h _ _ _, h]) _ h
    · exact h.of_bytes h.1.1 h.1.2.1 h.1.2.2.1 h.1.2.2.2 rfl
  | bus fn a => exact h
  | zeros => exact h

theorem State.Forms.clearDev (a n : Nat) : (s.clearDev a n).Forms :=
  h.of_bytes h.1.1 h.1.2.1 (wf_wrZero _ _ _ h.1.2.2.1) h.1.2.2.2 rfl

theorem State.Forms.clearSram (die lo hi : Nat) : (s.clearSram die lo hi).Forms := by
  unfold State.clearSram; split
  · exact h
  · exact h.of_bytes (wf_wrZero _ _ _ h.1.1) h.1.2.1 h.1.2.2.1 h.1.2.2.2 rfl

theorem State.Forms.clearWs (die lo hi : Nat) : (s.clearWs die lo hi).Forms := by
  unfold State.clearWs; split
  · exact h
  · exact h.of_bytes h.1.1 (wf_wrZero _ _ _ h.1.2.1) h.1.2.2.1 h.1.2.2.2 rfl

/-- What a walk reads and holds changes no byte (R329, R354). -/
theorem State.Forms.walkTouch (die ctx k off len : Nat) : (s.walkTouch die ctx k off len).Forms := by
  unfold State.walkTouch
  exact foldl_forms _ _ (fun s p h => State.Forms.holdPte h _ _ _ _) _ (foldl_forms _ _ (fun s b h => State.Forms.burstTouch h _) _ h)

/-- What an access of the port uses and corrects changes no byte (R329, R354). -/
theorem State.Forms.portTouch (die ctx k off len : Nat) : (s.portTouch die ctx k off len).Forms := by
  unfold State.portTouch
  refine foldl_forms _ _ (fun s b h => ?_) _ (State.Forms.walkTouch h _ _ _ _ _)
  split
  · exact State.Forms.burstTouch h _
  · exact h

omit h

theorem bufWr_forms (n : Nat) : ∀ (s : State) (die ctx k off v : Nat), s.Forms → (s.bufWr die ctx k off n v).Forms := by
  induction n with
  | zero => exact fun _ _ _ _ _ _ h => h
  | succ n ih => exact fun s die ctx k off v h => ih _ _ _ _ _ _ (State.Forms.locWr h _ _)

/-- A write of an engine (R231). -/
theorem bufPut_forms (s : State) (die ctx k off n v : Nat) (plain : Bool) (h : s.Forms) : (s.bufPut die ctx k off n v plain).Forms := by
  unfold State.bufPut
  refine bufWr_forms _ _ _ _ _ _ _ (foldl_forms _ _ (fun s b h => ?_) _ (State.Forms.walkTouch h _ _ _ _ _))
  dsimp only
  have key : (match s.burstAt die ctx k b with
      | some u => if wholePiece off n b then s.burstFresh u else s.burstTouch u
      | none => s).Forms := by
    split
    · split
      · exact State.Forms.burstFresh h _
      · exact State.Forms.burstTouch h _
    · exact h
  split
  · exact State.Forms.sbPlain key _ _ _ _
  · exact key

/-- A fault record changes host memory and a function block (R362). -/
theorem postRecord_forms (s : State) (fn ctx : Nat) (r : FaultRec) (h : s.Forms) : (s.postRecord fn ctx r).Forms := by
  unfold State.postRecord; dsimp only; split
  · exact State.Forms.modFn (State.Forms.hostWr h _ _ _) _ _
  · exact State.Forms.modFn h _ _

end Forms

end Sys2Proof.Machine
end

