-- ==== Sys2Proof/Tests/Slice0.lean ====
section
/-! SUPPORT. Sys2Proof/Tests/Slice0.lean: tests whose expected values come from the worked examples of the spec, an ill-formed term
for every static check, and for every statement with hypotheses concrete states and operands that meet them. -/
namespace Sys2Proof.Tests
set_option Elab.async false
open Sys2Proof Sys2Proof.Machine Sys2Proof.Spec

/-! ## Well-formedness: for every check a term it refuses, beside a term that differs in that point alone -/

/-- The first check that fails. -/
def refusal (i : Instr) : Option Check := firstFail i.checks

theorem test_wf_fieldWidth : refusal (.add .sa ⟨64, 1, 2, 15, 0, 0⟩) = some .fieldWidth ∧ refusal (.add .sa ⟨63, 1, 2, 15, 0, 0⟩) = none := by decide
theorem test_wf_unusedField : refusal (.add .sa ⟨3, 1, 2, 15, 0, 1⟩) = some .unusedField ∧ refusal (.shr .sa ⟨3, 1, 2, 15, 0, 1⟩) = none := by decide
theorem test_wf_guardNever : refusal (.add .sa ⟨3, 1, 2, 15, 1, 0⟩) = some .guardNever ∧ refusal (.add .sa ⟨3, 1, 2, 14, 1, 0⟩) = none := by decide
theorem test_wf_predicateCode :
    refusal (.vadd .v0 ⟨2, 0, 2, 24, 0, 1, 2, 3, 0⟩) = some .predicateCode ∧ refusal (.vadd .v0 ⟨2, 0, 2, 31, 1, 1, 2, 3, 0⟩) = some .predicateCode ∧
    refusal (.vadd .v0 ⟨2, 0, 2, 23, 1, 1, 2, 3, 0⟩) = none := by decide
theorem test_wf_typeCode : refusal (.vadd .v0 ⟨2, 0, 8, 31, 0, 1, 2, 3, 0⟩) = some .typeCode ∧ refusal (.vfadd .v0 ⟨2, 0, 8, 31, 0, 1, 2, 3, 0⟩) = none := by decide
theorem test_wf_widthOrPart :
    refusal (.vadd .v0 ⟨1, 2, 2, 31, 0, 1, 2, 3, 0⟩) = some .widthOrPart ∧ refusal (.vadd .v0 ⟨3, 0, 2, 31, 0, 1, 2, 3, 0⟩) = some .widthOrPart ∧
    refusal (.vadd .v0 ⟨1, 1, 2, 31, 0, 1, 2, 3, 0⟩) = none := by decide
theorem test_wf_sourceName :
    refusal (.vadd .v0 ⟨2, 0, 2, 31, 0, 1, 1536, 3, 0⟩) = some .sourceName ∧ refusal (.vadd .v0 ⟨2, 0, 2, 31, 0, 1, 2046, 3, 0⟩) = some .sourceName ∧
    refusal (.vadd .v0 ⟨2, 0, 2, 31, 0, 1, 1535, 2045, 0⟩) = none := by decide
theorem test_wf_destinationName :
    refusal (.vadd .v0 ⟨2, 0, 2, 31, 0, 2041, 2, 3, 0⟩) = some .destinationName ∧ refusal (.vadd .v0 ⟨2, 0, 2, 31, 0, 2040, 2, 3, 0⟩) = none := by decide
theorem test_wf_conditionCode : refusal (.cmp .sa ⟨1, 2, 3, 15, 0, 6⟩) = some .conditionCode ∧ refusal (.cmp .sa ⟨1, 2, 3, 15, 0, 13⟩) = none := by decide
theorem test_wf_selectorCode : refusal (.vshuf .v0 ⟨2, 0, 6, 31, 0, 1, 2, 0, 6⟩) = some .selectorCode ∧ refusal (.vshuf .v0 ⟨2, 0, 6, 31, 0, 1, 2, 0, 5⟩) = none := by decide
theorem test_wf_indexRange : refusal (.cmp .sa ⟨16, 2, 3, 15, 0, 0⟩) = some .indexRange ∧ refusal (.cmp .sa ⟨15, 2, 3, 15, 0, 0⟩) = none := by decide
theorem test_wf_countRange :
    refusal (.rwait ⟨0, 0, 15, 0, 2, 0⟩) = some .countRange ∧ refusal (.rwait ⟨0, 0, 15, 0, 2, 4097⟩) = some .countRange ∧
    refusal (.rwait ⟨0, 0, 15, 0, 2, 4096⟩) = none := by decide
theorem test_wf_amoCode : refusal (.samo .sa ⟨1, 2, 3, 15, 0, 10, 0, 0⟩) = some .amoCode ∧ refusal (.samo .sa ⟨1, 2, 3, 15, 0, 9, 0, 0⟩) = none := by decide
theorem test_wf_scopeCode :
    refusal (.fence ⟨0, 0, 15, 0, 6, 3⟩) = some .scopeCode ∧ refusal (.fence ⟨0, 0, 15, 0, 5, 0⟩) = some .scopeCode ∧
    refusal (.fence ⟨0, 0, 15, 0, 5, 3⟩) = none := by decide
theorem test_wf_drainMode :
    refusal (.adrn ⟨0, 0, 0, 0, 0, 31, 0, 0, 0, 0, 0, 1, 2⟩) = some .drainMode ∧ refusal (.adrn ⟨0, 0, 0, 0, 2, 31, 0, 0, 0, 0, 0, 1, 1⟩) = none := by decide
theorem test_wf_swizzleCode :
    refusal (.eldwr ⟨8, 1, 3, 0, 0, 0, 0, 0⟩) = some .swizzleCode ∧ refusal (.eldwr ⟨8, 1, 2, 0, 0, 0, 0, 0⟩) = none := by decide
theorem test_wf_registerNumber :
    refusal (.mfs ⟨1, 0, 15, 0, 0, 0x70⟩) = some .registerNumber ∧ refusal (.mskset ⟨0, 1, 15, 0, 0, 0⟩) = some .registerNumber ∧
    refusal (.mfs ⟨1, 0, 15, 0, 0, 0x6F⟩) = none := by decide
theorem test_wf_engineFlag :
    refusal (.rsc ⟨16, 1, 63, 63, 63, 1, 0, 1, 3, 0⟩) = some .engineFlag ∧ refusal (.dqatt ⟨16, 1, 63, 63, 63, 0, 0, 0, 0, 1⟩) = some .engineFlag ∧
    refusal (.cpy ⟨16, 1, 63, 63, 63, 1, 0, 1, 3, 1⟩) = none := by decide
theorem test_wf_slotRule : refusal (.vrcp .v0 ⟨2, 0, 8, 31, 0, 1, 2, 0, 0⟩) = some .slotRule ∧ refusal (.vrcp .v1 ⟨2, 0, 8, 31, 0, 1, 2, 0, 0⟩) = none := by decide

/-! ## Decoding: slot values from the spec, or written out from the formats of R70, R75, R79, R80, R83, R84 -/

/-- The example of 07_sequencer.md, `cmpi.ge.i64 q1, s3, 100`. -/
theorem test_dec_cmpi : decodeSlot .sa 0x29043F580064 = .ok (.cmpi .sa ⟨1, 3, 15, 0, 0x580064⟩) := rfl
/-- `sel s1, s2, s3` on not q4 (R70, R163): op 10, d 1, a 2, b 3, qp 15, k 0b010100. -/
theorem test_dec_sel : decodeSlot .sa (0x10 * 2 ^ 40 + 1 * 2 ^ 34 + 2 * 2 ^ 28 + 3 * 2 ^ 22 + 15 * 2 ^ 18 + 20 * 2 ^ 11) =
    .ok (.sel .sa ⟨1, 2, 3, 15, 0, 20⟩) := rfl
/-- Examples of 09_ordering.md. -/
theorem test_dec_sync :
    decodeSlot .sb 0x611C0F090000 = .ok (.tstat ⟨7, 0, 15, 0, 9, 0⟩) ∧ decodeSlot .sb 0x62000F020001 = .ok (.rwait ⟨0, 0, 15, 0, 2, 1⟩) ∧
    decodeSlot .sb 0x66004F000011 = .ok (.semsig ⟨0, 4, 15, 0, 0, 17⟩) ∧ decodeSlot .sb 0x68000F030003 = .ok (.fence ⟨0, 0, 15, 0, 3, 3⟩) ∧
    decodeSlot .sb 0x69000F020002 = .ok (.rel ⟨0, 0, 15, 0, 2, 2⟩) ∧ decodeSlot .sb 0x6A000F040004 = .ok (.acq ⟨0, 0, 15, 0, 4, 4⟩) ∧
    decodeSlot .sb 0x6D280F030000 = .ok (.evpop ⟨10, 0, 15, 0, 3, 0⟩) := ⟨rfl, rfl, rfl, rfl, rfl, rfl, rfl⟩
/-- Examples of 07_sequencer.md and 15_recovery.md. -/
theorem test_dec_system :
    decodeSlot .sb 0x55000F070000 = .ok (.stage ⟨0, 0, 15, 0, 7, 0⟩) ∧ decodeSlot .sb 0x46000F000002 = .ok (.loopi ⟨0, 0, 15, 0, 0, 2⟩) ∧
    decodeSlot .sb 0x50F00F000011 = .ok (.mfs ⟨60, 0, 15, 0, 0, 0x11⟩) ∧ decodeSlot .sa 0x20F3CF000001 = .ok (.addi .sa ⟨60, 60, 15, 0, 1⟩) ∧
    decodeSlot .sb 0x5103CF000011 = .ok (.mts ⟨0, 60, 15, 0, 0, 0x11⟩) ∧ decodeSlot .sb 0x59000F000000 = .ok (.eret ⟨0, 0, 15, 0, 0, 0⟩) ∧
    decodeSlot .sb 0x5A000F000000 = .ok (.brk ⟨0, 0, 15, 0, 0, 0⟩) ∧ decodeSlot .sb 0x5B000F000000 = .ok (.done ⟨0, 0, 15, 0, 0, 0⟩) :=
  ⟨rfl, rfl, rfl, rfl, rfl, rfl, rfl, rfl⟩
/-- The example of R119: `mma a3, v10.h0, v20.h1, ft2, scale=v30, sstep=1`, from its field values. -/
theorem test_dec_mma : decodeSlot .m (1 * 2 ^ 58 + 3 * 2 ^ 54 + 10 * 2 ^ 43 + 20 * 2 ^ 32 + 30 * 2 ^ 21 + 2 * 2 ^ 16 + 31 * 2 ^ 11 + 1 * 2 ^ 8 + 1 * 2 ^ 6) =
    .ok (.mma ⟨3, 10, 20, 30, 2, 31, 0, 0, 1, 1, 0, 0, 0⟩) := rfl
/-- The conversion of 06_vector.md. -/
theorem test_dec_vcvt : decodeSlot .v0 0x30217F0280108901 = .ok (.vcvt .v0 ⟨2, 0, 11, 31, 0, 40, 8, 548, 1⟩) := rfl
/-- A load of X with a predicate and a stride (R80): `ldv v5` of row 6, loop counter 2, stride 3, not p4. -/
theorem test_dec_ldv : decodeSlot .x (1 * 2 ^ 42 + 5 * 2 ^ 31 + 6 * 2 ^ 20 + 2 * 2 ^ 18 + 3 * 2 ^ 11 + 4 * 2 ^ 6 + 1 * 2 ^ 5) =
    .ok (.ldv ⟨5, 6, 2, 3, 4, 1, 0⟩) := rfl
/-- Examples of 11_lookup.md and 12_volumes.md. -/
theorem test_dec_engines :
    decodeSlot .e 0x5150207FFC86 = .ok (.pkfwd ⟨20, 2, 1, 63, 63, 2, 0, 0, 3, 0⟩) ∧
    decodeSlot .e 0x62503FFFFC48 = .ok (.vxadd ⟨20, 3, 63, 63, 63, 1, 0, 0, 4, 0⟩) ∧
    decodeSlot .e 0x65A09FFFFC08 = .ok (.vxpoolInit ⟨40, 9, 63, 63, 63, 0, 0, 0, 4, 0⟩) := ⟨rfl, rfl, rfl⟩
/-- Words that are no instruction are refused by name (R86): an unassigned opcode, a bit that must be zero, SB's `loop` in SA. -/
theorem test_dec_refused :
    decodeSlot .sa 0x600C0F050000 = .error .illegal ∧ (∃ c, decodeSlot .sa 0x005000000001 = .error c) ∧
    decodeSlot .x (0xB * 2 ^ 42) = .error .illegal ∧ decodeSlot .m (0xA * 2 ^ 58) = .error .illegal :=
  ⟨rfl, ⟨_, rfl⟩, rfl, rfl⟩

/-! ## States for the witnesses -/

/-- A program of `n` bundles with a handler at address 3. -/
def hdr : Header := { (default : Header) with chain := 1, trapv := true, trapvec := 3, codesz := 8, stack := 16, vregs := 64, crows := 16, spill := 4 }
/-- A running task, number 1, context 0, with its head at array 0. -/
def tk : Task := { (default : Task) with
  id := { (default : TaskId) with uid := 1, taskid := 1 }
  prog := { (default : Program) with hdr := hdr }
  ctl := { (default : TaskCtl) with bound := true, running := true } }
/-- The machine with task `t` at work in phase `p`, its operands read from `t` as it stands. -/
def at_ (p : Phase) (t : Task) : State :=
  { State.reset with t := t, phase := p, iss := { (default : Issue) with t0 := t } }
/-- The machine between steps with task `t` bound. -/
def bound (t : Task) : State := { State.reset with tasks := [(1, t)] }
/-- Guard q15, true. -/
def g15 : FmtSY := ⟨0, 0, 15, 0, 0, 0⟩

/-- An operation under guard q15 is performed at commit. -/
theorem on (t : Task) : Performed (at_ .commit t) 15 0 := ⟨rfl, rfl⟩

/-- Whether a result is a next state, and which. -/
def isNext (r : Res) : Bool := match r with | .next _ => true | _ => false
/-- The next state of a result. -/
def got (r : Res) : State := match r with | .next s => s | _ => State.reset
theorem next_got {r : Res} (h : isNext r = true) : r = .next (got r) := by cases r <;> first | rfl | cases h

/-- The operations of a slot that decodes. -/
def ops (b : Bundle) (k : Slot) : List Instr := match slotOps b k with | .ok l => l | .error _ => []
/-- Whether a slot decodes. -/
def decodes (b : Bundle) (k : Slot) : Bool := match slotOps b k with | .ok _ => true | .error _ => false
theorem ok_ops {b : Bundle} {k : Slot} (h : decodes b k = true) : slotOps b k = .ok (ops b k) := by
  unfold decodes at h; unfold ops; split at h
  · rename_i e; rw [e]
  · cases h

/-! ## Witnesses: the sequencer -/

theorem witness_RegisterAluResults :
    Performed (at_ .commit tk) 15 0 ∧ Performed (at_ .commit tk) 14 1 ∧ (Instr.sel .sa ⟨1, 2, 3, 15, 0, 31⟩).wf = true :=
  ⟨on tk, ⟨rfl, rfl⟩, rfl⟩
theorem witness_ImmediateAluResults : Performed (at_ .commit tk) 15 0 ∧ Performed (at_ .commit tk) 0 1 := ⟨on tk, ⟨rfl, rfl⟩⟩
theorem witness_CompareAndPredicateResults :
    Performed (at_ .commit tk) 15 0 ∧ (Instr.cmp .sa ⟨15, 2, 3, 15, 0, 13⟩).wf = true ∧ (Instr.cmpi .sa ⟨15, 2, 15, 0, 0x580064⟩).wf = true :=
  ⟨on tk, rfl, rfl⟩
theorem witness_GuardOffHasNoEffect :
    guardFields (.trap ⟨0, 0, 14, 0, 0, 7⟩) = some (14, 0) ∧ (((at_ .commit tk).iss.t0.qReg 14 ^^ decide (0 = 1)) = false) ∧
    (at_ .commit tk).phase ≠ .check ∧ (at_ .wait tk).phase ≠ .check := by decide
theorem witness_ChecksAndWaitsTakeNoEffect :
    isEvent (.add .sa ⟨1, 2, 3, 15, 0, 0⟩) = false ∧ (at_ .check tk).phase = .check ∧ (at_ .wait tk).phase = .wait ∧
    exec (.twait ⟨1, 0, 15, 0, 0, 0⟩) (at_ .wait tk) = .next (at_ .wait tk) := ⟨rfl, rfl, rfl, rfl⟩
theorem witness_CellPartStaysInItsCell :
    isEvent .nopM = false ∧ (at_ .cell tk).phase = .cell ∧ inCells (.vmov .v0 ⟨2, 0, 0, 31, 0, 1, 2, 0, 0⟩) = true ∧
    isDrain (.vmov .v0 ⟨2, 0, 0, 31, 0, 1, 2, 0, 0⟩) = false ∧ isDrain (.adrn ⟨0, 0, 0, 0, 0, 31, 0, 0, 0, 0, 0, 1, 0⟩) = true ∧
    inCells .nopM = false := by decide
/-- One result that is due, one that is due a bundle later, one of the other mode. -/
theorem witness_ResultsLandWhenDue :
    let a : SHeld := ⟨0, false, .s 4, 7, 0, none⟩
    let b : SHeld := ⟨1, false, .q 3, 1, 0, none⟩
    let c : SHeld := ⟨0, true, .lc 0, 9, 0, none⟩
    let t := { tk with held := [a, b, c] }
    due t a ∧ ¬ due t b ∧ ¬ due t c ∧ t.land.sReg 4 = 7 ∧ t.land.qReg 3 = false ∧ t.land.held = [b, c] := by decide
theorem witness_TrapNamesTheLowestSource :
    let l : List Fail := [⟨8, 15, 0, false⟩, ⟨0, 4, 5, false⟩, ⟨0, 3, 6, true⟩]
    l ≠ [] ∧ (∀ g ∈ l, g.source ≤ 8 ∧ g.kind ≤ 15) ∧ chooseTrap l = some (⟨0, 3, 6, true⟩, 257) := by decide

/-- A task whose code is the one bundle with slot SB holding `w`. -/
def codeSb (t : Task) (w : Nat) : Task := { t with prog := { t.prog with code := [BitVec.ofNat 512 (w * 2 ^ 64)] } }
/-- The machine about to issue that bundle. -/
def issuing (t : Task) (w : Nat) : State := { bound (codeSb t w) with script := [.issue 0] }
/-- That bundle. -/
def sb (w : Nat) : Bundle := BitVec.ofNat 512 (w * 2 ^ 64)

/-- A head runs in step with itself. -/
theorem inStep_bound {s : State} {t : Task} {n : Nat} (h : s.tasks = [(n, t)] := by rfl) : InStep s t := by
  intro e k _; rw [h] at k; rw [List.mem_singleton.1 k]

theorem issues_sb (w : Nat) : Issues (issuing tk w) 0 (codeSb tk w) (sb w) := ⟨rfl, rfl, inStep_bound, rfl, rfl, (fun _ h => nomatch h), rfl, rfl⟩

/-- The three runs of the operations of that bundle at issue: checks, waits, effects. -/
def run1 (t : Task) (w : Nat) : Res := runOps exec (bundleOps (codeSb t w).land (sb w) issueOrder) ((issuing t w).taken.openIssue (codeSb t w))
def run2 (t : Task) (w : Nat) : Res := runOps exec (bundleOps (codeSb t w).land (sb w) issueOrder) { got (run1 t w) with phase := .wait }
def run3 (t : Task) (w : Nat) : Res := runOps exec (bundleOps (codeSb t w).land (sb w) issueOrder) { got (run2 t w) with phase := .commit }

/-- `eret` outside trap mode: privilege, kind 2 of source SB. -/
theorem witness_FailedBundleTrapsAsAWhole :
    let w := 0x59000F000000
    Issues (issuing tk w) 0 (codeSb tk w) (sb w) ∧ (codeSb tk w).sys.tm = false ∧ (codeSb tk w).prog.hdr.trapv = true ∧
    run1 tk w = .next (got (run1 tk w)) ∧ bundleFails (sb w) false ++ decodeFails (sb w) ++ (got (run1 tk w)).iss.fails = [⟨1, 2, 0x59000F000000, false⟩] :=
  ⟨issues_sb _, rfl, rfl, next_got (by decide +kernel), by decide +kernel⟩

theorem witness_TrapEntryAndReturn :
    (at_ .check tk).t.sys.tm = false ∧ (at_ .check tk).t.prog.hdr.trapv = true ∧
    (at_ .check { tk with sys := { tk.sys with tm := true } }).t.sys.tm = true ∧
    (at_ .check { tk with prog := { tk.prog with hdr := { hdr with trapv := false } } }).t.prog.hdr.trapv = false ∧
    ((at_ .check tk).ctx 0).ffault = none ∧
    (at_ .check { tk with sys := { tk.sys with epc := 7 } }).t.sys.epc.toNat < (at_ .check tk).t.prog.hdr.codesz ∧
    (at_ .check tk).t.prog.hdr.codesz ≤ (at_ .check { tk with sys := { tk.sys with epc := 8 } }).t.sys.epc.toNat := by decide

/-- `br` to the next bundle but one: its checks hold, nothing waits, and it commits; `twait` of a BUSY slot stalls; a result due that is not
ready, and a load whose data is late, hold the bundle; `radv` of an empty ring fails when it has waited. -/
theorem witness_StepRunsTheDecodedBundle :
    (let w := 0x40F000000002
     Issues (issuing tk w) 0 (codeSb tk w) (sb w) ∧ (∀ k, slotOps (sb w) k = .ok (ops (sb w) k)) ∧ run1 tk w = .next (got (run1 tk w)) ∧
     bundleFails (sb w) (codeSb tk w).sys.tm = [] ∧ (got (run1 tk w)).iss.fails = [] ∧ run2 tk w = .next (got (run2 tk w)) ∧
     (got (run2 tk w)).iss.stall = false ∧ (got (run2 tk w)).t.notReady = false ∧ (got (run2 tk w)).iss.fails = [] ∧
     run3 tk w = .next (got (run3 tk w))) ∧
    (let w := 0x600C0F050000
     let t := { tk with tok := [(5, ⟨.busy, 0, 0, 0, 0⟩)] }
     Issues (issuing t w) 0 (codeSb t w) (sb w) ∧ run1 t w = .next (got (run1 t w)) ∧ (got (run1 t w)).iss.fails = [] ∧
     run2 t w = .next (got (run2 t w)) ∧ (got (run2 t w)).iss.stall = true) ∧
    (let w := 0x40F000000002
     let late : EdgeWork := ⟨{ (default : EdgeInst) with n := 1, op := .eldw ⟨8, 1, 0, 2, 0, 1, 0, 0⟩ }, [], [], 0⟩
     let held (t : Task) : Prop := t.sys.tm = false ∧ ((∃ r ∈ t.ready, r.1 ≤ t.ctl.bcnt ∧ t.ctl.cyc < r.2) ∨
       ∃ e ∈ t.pos, ∃ x ∈ e.2.ld, x.inst.n + (if t.prog.hdr.latcls = 1 then 4 else 6) ≤ t.ctl.bcnt)
     held (got (run2 { tk with ready := [(0, 5)] } w)).t ∧
     held (got (run2 { tk with ctl := { tk.ctl with bcnt := 7 }, pos := [(0, { (default : Pos) with ld := [late] })] } w)).t ∧
     ¬ held (got (run2 tk w)).t) ∧
    (let w := 0x64000F220001
     let t := { tk with rings := [(2, ⟨0, 7, 4, 0, 0, 0, 0⟩)] }
     decodeSlot .sb w = .ok (.radv ⟨0, 0, 15, 0, 0x22, 1⟩) ∧ Issues (issuing t w) 0 (codeSb t w) (sb w) ∧ run1 t w = .next (got (run1 t w)) ∧
     bundleFails (sb w) false = [] ∧ (got (run1 t w)).iss.fails = [] ∧ run2 t w = .next (got (run2 t w)) ∧ (got (run2 t w)).iss.stall = false ∧
     (got (run2 t w)).t.notReady = false ∧ (got (run2 t w)).iss.fails = [⟨1, 10, 2, true⟩]) :=
  ⟨⟨issues_sb _, fun k => ok_ops (by cases k <;> decide +kernel), next_got (by decide +kernel), by decide +kernel, by decide +kernel,
    next_got (by decide +kernel), by decide +kernel, by decide +kernel, by decide +kernel, next_got (by decide +kernel)⟩,
   ⟨⟨rfl, rfl, inStep_bound, rfl, rfl, (fun _ h => nomatch h), rfl, rfl⟩, next_got (by decide +kernel), by decide +kernel, next_got (by decide +kernel), by decide +kernel⟩,
   by decide +kernel,
   ⟨rfl, ⟨rfl, rfl, inStep_bound, rfl, rfl, (fun _ h => nomatch h), rfl, rfl⟩, next_got (by decide +kernel), by decide +kernel, by decide +kernel,
    next_got (by decide +kernel), by decide +kernel, by decide +kernel, by decide +kernel⟩⟩
theorem witness_StepPerformsTheEvent :
    let s := { State.reset with script := [.event .schedule, .issue 0] }
    s.nextMove = .event .schedule ∧ s.script = .event .schedule :: [.issue 0] ∧ isEvent .schedule = true ∧ isEvent .nopM = false := ⟨rfl, rfl, rfl, rfl⟩
theorem witness_ClosingABundle : (at_ .commit tk).iss.after = none ∧ (at_ .commit tk).iss.eret = false := ⟨rfl, rfl⟩

/-- Context 0 with a partition of 64 bytes of shared SRAM and 64 of the weight store on die 0. -/
def parted (s : State) : State := { s with parts := [(0, ⟨0, 64, 0, 64⟩)] }

/-- A task with one access on its way, a load of the result tagged 4, or a store. -/
def accessing (p : PStore) : Task := { tk with pstores := [p], held := [⟨5, false, .s 1, 0, 5, some 4⟩] }
theorem witness_SequencerLoadsAndAtomics :
    let p : PStore := ⟨0, 0, 0, 56, 8, 1, 0, some 4, false, false⟩
    let o : State := at_ .commit (accessing { p with ld := none })
    let early := { tk with ctl := { tk.ctl with early := some 9 } }
    let w := at_ .wait (accessing p)
    (at_ .commit tk).iss.sstA = none ∧
    (({ o with iss := { o.iss with sstA := some p } } : State).iss.sstA = some p ∧ o.t.pstores = [{ p with ld := none }] ∧ soundAt o o.t.die 56 8) ∧
    ((at_ .wait tk).phase = .wait ∧ (at_ .commit tk).t.ctl.early = none ∧ (at_ .commit early).t.ctl.early = some 9 ∧ Performed (at_ .commit early) 15 0) ∧
    ((bound (accessing p)).taskAt 0 = some (accessing p) ∧ (accessing p).pstores[0]? = some p ∧ p.ld = some 4 ∧ (accessing p).storeReady 0 = true ∧
     soundAt (bound (accessing p)) tk.die 56 8 ∧ p.size ≤ 8 ∧ (bound (accessing p)).t = default) ∧
    (w.phase = .wait ∧ w.iss.stall = false ∧ (∃ q ∈ w.t.pstores, q.addr < 56 + 8 ∧ 56 < q.addr + q.size)) ∧
    Performed (at_ .commit tk) 15 0 ∧ soundAt (at_ .commit tk).performOwn tk.die 56 8 :=
  ⟨rfl, ⟨rfl, rfl, fun _ h => nomatch h⟩, ⟨rfl, rfl, rfl, on _⟩, ⟨rfl, rfl, rfl, rfl, fun _ h => (nomatch h), by decide, rfl⟩,
    ⟨rfl, rfl, ⟨_, List.mem_singleton_self _, by decide, by decide⟩⟩, on tk, fun _ h => nomatch h⟩
theorem witness_SequencerStoresCommitThenPerform :
    let p : PStore := ⟨0, 0, 0, 56, 8, 1, 5, none, false, false⟩
    let t := { tk with pstores := [p] }
    Performed (at_ .commit tk) 15 0 ∧ (at_ .wait tk).phase = .wait ∧ (bound t).taskAt 0 = some t ∧ t.pstores[0]? = some p ∧ p.ld = none ∧
    t.storeReady 0 = true ∧ soundAt (bound t) t.die p.addr p.size := ⟨on tk, rfl, rfl, rfl, rfl, rfl, fun _ h => nomatch h⟩
/-- `loop` with lc0 at 2 is taken, at 1 not, but in stage mode with SV 1 it is. -/
theorem witness_BranchesAndLoops :
    let take (s : State) : Prop := (let old := s.iss.t0.lcReg 0; let new : Word := if old ≠ 0 then old - 1 else 0
      new ≠ 0 ∨ (s.iss.t0.sys.sm = true ∧ stagesAfter s.iss.t0.sys.sv s.iss.sshift new % 2 ^ s.iss.t0.sys.depth ≠ 0))
    let lc (v : Word) : Task := { tk with r := { tk.r with lc := [(0, v)] } }
    Performed (at_ .commit (lc 2)) 15 0 ∧ take (at_ .commit (lc 2)) ∧ ¬ take (at_ .commit (lc 1)) ∧ ¬ take (at_ .commit (lc 0)) ∧
    take (at_ .commit { lc 1 with sys := { tk.sys with sm := true, sv := 1, depth := 1 } }) := ⟨on _, by decide, by decide, by decide, by decide⟩
theorem witness_SequencerChecks :
    let s := parted (at_ .check tk)
    let a (off : Nat) : Int := plus s 0 (BitVec.ofNat 17 off).toInt
    s.phase = .check ∧ (s.iss.t0.qReg 15 ^^ decide (0 = 1)) = true ∧ (8 ∣ a 56 ∧ 0 ≤ a 56 ∧ a 56 + 8 ≤ 64) ∧ ¬ 8 ∣ a 57 ∧
    (8 ∣ a 64 ∧ ¬ a 64 + 8 ≤ 64) ∧ (8 ∣ a 0x1FFF8 ∧ ¬ 0 ≤ a 0x1FFF8) ∧
    ((at_ .wait tk).t.ctl.aggPend = none ∧ (at_ .wait tk).t.ctl.aggAt ≤ (at_ .wait tk).t.ctl.cyc) ∧
    (at_ .wait { tk with ctl := { tk.ctl with aggPend := some 0 } }).t.ctl.aggPend.isSome ∧
    (at_ .wait { tk with ctl := { tk.ctl with aggAt := 1 } }).t.ctl.cyc < 1 ∧ tk.ctl.sp < tk.prog.hdr.stack ∧
    ¬ ({ tk with ctl := { tk.ctl with sp := 16 } } : Task).ctl.sp < tk.prog.hdr.stack := by decide
/-- A frame that SA's own store rewrites stands in the carve-out. -/
theorem witness_SequencerChecks_ret :
    let t := { tk with ctl := { tk.ctl with sp := 8 } }
    let s := { at_ .wait t with iss := { (at_ .wait t).iss with sstA := some ⟨0, 0, 0, 0, 8, 1, 5, none, false, false⟩ } }
    s.phase = .wait ∧ s.iss.stall = false ∧ s.t = s.iss.t0 ∧ s.t.ctl.ovp = 0 ∧ 0 < s.t.ctl.sp ∧ s.t.pstores = [] ∧
    (∀ e ∈ s.t.pos, e.2.ld = [] ∧ e.2.st = []) ∧ soundAt s s.t.die (s.t.id.stackBase + s.t.ctl.sp - 8) 8 ∧
    afterSa s (s.t.die * 2 ^ 27 + (s.t.id.stackBase + s.t.ctl.sp - 8)) = 5 :=
  ⟨rfl, rfl, rfl, rfl, by decide, rfl, (fun _ h => nomatch h), (fun _ h => nomatch h), by decide⟩
/-- A `call` that fills the carve-out's last frame, and the state its `ret` finds. -/
theorem witness_CallsAndReturnsMatch :
    let t := { tk with ctl := { tk.ctl with sp := 8 } }
    let s := at_ .commit t
    let m := wrNat s.mem.sram (s.t.die * 2 ^ 27 + (s.t.id.stackBase + s.t.ctl.sp)) 8 (s.iss.addr + 1)
    let r : State := { at_ .commit { t with ctl := { t.ctl with sp := 16 } } with mem := { s.mem with sram := m } }
    Performed s 15 0 ∧ s.iss.sstA = none ∧ s.t.ctl.sp < s.t.prog.hdr.stack ∧ s.t.ctl.ovp = 0 ∧ s.iss.addr + 1 < 2 ^ 32 ∧
    (got (exec (.call ⟨15, 0, 0, 2⟩) s)).mem.sram = m ∧
    Performed r 15 0 ∧ r.iss.sstA = none ∧ r.mem.sram = m ∧ r.t.ctl.sp = s.t.ctl.sp + 8 ∧ r.t.ctl.ovp = 0 ∧ r.t.die = s.t.die ∧
    r.t.id.stackBase = s.t.id.stackBase ∧ s.mem.sramErr = [] ∧ r.mem.sramErr = [] ∧ r.t = r.iss.t0 :=
  by
  refine ⟨on _, rfl, by decide, rfl, by decide, by decide +kernel, ⟨rfl, rfl⟩, rfl, ?_, rfl, rfl, rfl, rfl, rfl, rfl, rfl⟩
  decide +kernel
theorem witness_SystemRegisters :
    Performed (at_ .commit tk) 15 0 ∧ 0x6F < 0x70 ∧ (at_ .check tk).phase = .check ∧ (at_ .check tk).iss.t0.sys.tm = false ∧
    (at_ .check { tk with sys := { tk.sys with tm := true } }).iss.t0.sys.tm = true ∧ (at_ .wait tk).phase = .wait ∧
    (at_ .wait { tk with flights := [default] }).t.flights ≠ [] := ⟨on tk, by decide, rfl, rfl, rfl, rfl, by decide⟩
theorem witness_SequencerStateOperations : Performed (at_ .commit tk) 15 0 := on tk
theorem witness_TrapBreakAndReturn :
    let s := { at_ .commit tk with iss := { (at_ .commit tk).iss with after := some 7 } }
    Performed (at_ .commit tk) 15 0 ∧ ((at_ .commit tk).ctx 0).attach = false ∧
    (({ at_ .commit tk with ctxs := [(0, { (default : Ctx) with attach := true })] } : State).ctx 0).attach = true ∧
    (at_ .check tk).phase = .check ∧ s.iss.after = some 7 ∧ s.iss.eret = false ∧ s.iss.t0.sys.tm = false ∧ s.t.sys.tm = false ∧
    s.t.prog.hdr.trapv = true ∧ (at_ .wait tk).phase = .wait ∧ ((at_ .wait tk).iss.t0.qReg 15 ^^ decide (0 = 1)) = true ∧
    (∃ h ∈ ({ tk with held := [⟨1, true, .s 1, 0, 5, none⟩] } : Task).held, h.handler = true ∧ (h.pend.isSome ∨ tk.ctl.cyc < h.ready)) :=
  ⟨on tk, rfl, rfl, rfl, rfl, rfl, rfl, rfl, rfl, rfl, rfl, ⟨_, List.mem_singleton_self _, rfl, .inr (by decide)⟩⟩
theorem witness_CellControlNopsAndRandomWords :
    let t (n : Nat) : Task := { tk with rng := { tk.rng with queue := List.replicate n 5 } }
    (at_ .check tk).phase = .check ∧ (at_ .commit tk).phase = .commit ∧ (at_ .wait tk).phase = .wait ∧
    (at_ .commit (t 2)).iss.t0.rng.queue = 5 :: [5] ∧ (at_ .commit (t 2)).t.rng = (at_ .commit (t 2)).iss.t0.rng ∧
    (bound (t 63)).taskAt 0 = some (t 63) ∧ (t 63).rng.queue.length < 64 ∧ (bound (t 64)).taskAt 0 = some (t 64) ∧
    64 ≤ (t 64).rng.queue.length := by decide

/-! ## Witnesses: synchronisation -/

theorem witness_FencesWaitForTheirClasses :
    let s := at_ .wait { tk with pstores := [⟨0, 0, 0, 56, 8, 3, 5, none, false, false⟩] }
    (at_ .commit tk).phase = .commit ∧ (at_ .commit tk).iss.sstA = none ∧ ((at_ .commit tk).iss.t0.qReg 15 ^^ decide (0 = 1)) = true ∧
    s.phase = .wait ∧ s.iss.stall = false ∧ StillToPerform s.t 8 ∧ ¬ StillToPerform s.t 4 :=
  ⟨rfl, rfl, rfl, rfl, rfl, .inl ⟨_, List.mem_singleton_self _, rfl⟩, by
    rintro (⟨p, h, k⟩ | ⟨e, h, _⟩)
    · rw [List.mem_singleton.1 h] at k; exact absurd k (by decide)
    · exact nomatch h⟩
theorem witness_TokensAndEvents :
    let t (st : TokState) : Task := { tk with tok := [(5, ⟨st, 2, 0, 0, 0⟩)], evq := [1, 2] }
    Performed (at_ .commit (t .error)) 15 0 ∧ (fget (t .error).tok ⟨.free, 0, 0, 0, 0⟩ 5).st ≠ .busy ∧
    (fget (t .complete).tok ⟨.free, 0, 0, 0, 0⟩ 6).st ≠ .busy ∧ (at_ .wait (t .busy)).phase = .wait ∧
    (fget (t .busy).tok ⟨.free, 0, 0, 0, 0⟩ 5).st = .busy ∧ (at_ .commit (t .error)).t.evq = (at_ .commit (t .error)).iss.t0.evq ∧
    (at_ .commit (t .error)).t.evq = 1 :: [2] ∧ (at_ .commit tk).t.evq = [] := ⟨on _, by decide, by decide, rfl, rfl, rfl, rfl, rfl⟩
/-- A ring of four entries with one, and with four, filled. -/
def ringed (n : Word) : Task := { tk with rings := [(2, ⟨0, 7, 4, n, 0, n, 0⟩)] }
theorem witness_RingOperations :
    let f : FmtSY := ⟨0, 0, 15, 0, 2, 1⟩
    let r (n : Word) : Ring := ⟨0, 7, 4, n, 0, n, 0⟩
    ringOf (at_ .wait (ringed 4)) f = some (r 4) ∧ fill (r 4) ≤ 4 ∧ fill (r 0) = 0 ∧ (at_ .wait (ringed 4)).iss.sstA = none ∧
    ((at_ .wait (ringed 4)).iss.t0.qReg 15 ^^ decide (0 = 1)) = true ∧ (at_ .wait (ringed 4)).iss.stall = false ∧
    (∃ p ∈ ({ ringed 4 with pstores := [⟨0, 0, 0, 56, 8, 15, 5, none, false, false⟩] } : Task).pstores, p.oc < 16) ∧ Settled (ringed 4) ∧
    fget? (ringed 4).rings 2 = some (r 4) :=
  ⟨rfl, by decide, rfl, rfl, rfl, rfl, ⟨_, List.mem_singleton_self _, by decide⟩, ⟨rfl, fun _ h => nomatch h⟩, rfl⟩
/-- Context 0 with semaphore 17 at 3, for which task 1 waits with amount 3. -/
def semmed (s : State) : State := { s with ctxs := [(0, { (default : Ctx) with sems := [(17, ⟨3, [(1, 3)]⟩)] })] }
theorem witness_SemaphoreOperations :
    let s := semmed (at_ .wait tk)
    s.iss.sstA = none ∧ (s.iss.t0.qReg 15 ^^ decide (0 = 1)) = true ∧ (semmed (at_ .check tk)).phase = .check ∧
    (semmed (at_ .commit tk)).phase = .commit ∧ fget? (s.ctx 0).sems 17 = some ⟨3, [(1, 3)]⟩ ∧ fget? (s.ctx 0).sems 18 = none ∧
    s.phase = .wait ∧ s.iss.stall = false ∧ Settled s.t := ⟨rfl, rfl, rfl, rfl, rfl, rfl, rfl, rfl, rfl, fun _ h => nomatch h⟩
/-- The pool with `n` shared entries of die 0, and task 1's own. -/
def pooled (n : Nat) (own : Bool) (s : State) : State :=
  { s with ram := { s.ram with pool := List.replicate n ⟨0, 0, none⟩ ++ if own then [⟨0, 0, some 1⟩] else [] } }
theorem witness_LaunchTrigAndDone :
    let shared (s : State) : Nat := s.ram.pool.countP (fun p => decide (p.die = 0) && p.owner.isNone)
    let own (s : State) : Bool := s.ram.pool.any (fun p => decide (p.owner = some 1))
    Performed (pooled 256 true (at_ .commit tk)) 15 0 ∧ (at_ .commit tk).iss.sstA = none ∧ (at_ .commit tk).t.id = (at_ .commit tk).iss.t0.id ∧
    shared (pooled 256 true (at_ .commit tk)) = 256 ∧ own (pooled 256 true (at_ .commit tk)) = true ∧
    shared (pooled 255 true (at_ .commit tk)) < 256 ∧ own (pooled 256 false (at_ .commit tk)) = false ∧
    (at_ .wait tk).phase = .wait ∧ (at_ .wait tk).iss.stall = false ∧ Settled (at_ .wait tk).t :=
  ⟨⟨rfl, rfl⟩, rfl, rfl, by decide +kernel, by decide +kernel, by decide +kernel, by decide +kernel, rfl, rfl, rfl, fun _ h => nomatch h⟩
/-- A task in chain group 5 of `n`, module group 7 of `n`. -/
def barred (n : DWord) : Task :=
  { tk with id := { tk.id with dom := 0x0000000700060005, barn := n * 0x0000000100010001 } }
theorem witness_BarriersCountArrivals :
    let s := at_ .wait (barred 2)
    let g (k : Nat) : BarGroup := s.barFind 0 k (5 + k)
    s.iss.sstA = none ∧ (s.iss.t0.qReg 15 ^^ decide (0 = 1)) = true ∧ s.t.id = s.iss.t0.id ∧ s.phase = .wait ∧ s.iss.stall = false ∧
    Settled s.t ∧ ((s.t.id.dom.extractLsb' 32 16).toNat = 7 ∧ (s.t.id.barn.extractLsb' 32 16).toNat = 2) ∧ s.t.ctl.arrived = none ∧
    ((g 2).arrived = 0 ∧ ¬ ((g 2).arrived ≠ 0 ∧ (g 2).need ≠ 2)) ∧ ((s.t.id.barn.extractLsb' 0 16).toNat ≠ 1) ∧
    ((at_ .wait { barred 1 with ctl := { tk.ctl with arrived := some (1, 0) } }).t.ctl.arrived = some (1, 0)) ∧
    ((at_ .wait (barred 0)).t.id.barn.extractLsb' 16 16).toNat = 0 :=
  ⟨rfl, rfl, rfl, rfl, rfl, ⟨rfl, fun _ h => nomatch h⟩, by decide, rfl, by decide, by decide, rfl, by decide⟩

/-! ## Witnesses: the cells -/

/-- A full-width operation without a predicate, of type `t`, on v1, v2, v3. -/
def fv (t aux : Nat) : FmtV := ⟨2, 0, t, 31, 0, 1, 2, 3, aux⟩
/-- A cell of a bundle whose M operation has format entry `e`. -/
def inCell (e : Word) : State :=
  { at_ .cell tk with cr := { (default : CellRun) with crows := 16, spill := 4, vregs := 64, fl := { (default : Flight) with entry := e, lc := [0, 3, 0, 0] } } }

theorem inReg (t aux : Nat) : inRegister (fv t aux) := ⟨(by decide : 2 < 3), (by decide : 0 * (256 * 2 ^ 2) + 256 * 2 ^ 2 ≤ 1024)⟩

theorem witness_IntegerVectorResults :
    (inCell 0).phase = .cell ∧ inRegister (fv 0 0) ∧ inRegister ⟨0, 3, 7, 31, 0, 1, 2, 3, 0⟩ ∧ inRegister ⟨1, 1, 7, 31, 0, 1, 2, 3, 0⟩ ∧ (fv 7 0).type < 8 :=
  ⟨rfl, inReg _ _, ⟨by decide, by decide⟩, ⟨by decide, by decide⟩, by decide⟩
theorem witness_FloatVectorResults :
    (inCell 0).phase = .cell ∧ inRegister (fv 8 0) ∧ 8 ≤ (fv 8 0).type ∧ (fv 8 0).type = 8 ∧ (fv 13 0).type ≤ 13 :=
  ⟨rfl, inReg _ _, by decide, rfl, by decide⟩
/-- −0 lies below +0, a NaN beside 1, 1 beside itself; and the operands of the roots. -/
theorem witness_FloatVectorResults_special :
    let X (v : Nat) : Rv := decFtz .fp32 true v
    0xFF800000 < 2 ^ FpFmt.fp32.width ∧ under (X 0x80000000) (X 0) ∧ under (X 0x80000001) (X 1) ∧ ¬ under (X 0x3F800000) (X 0x3F800000) ∧
    X 0x7F800001 = .nan ∧ X 0x3F800000 ≠ .nan ∧ subnormal .fp32 1 ∧ ((-1 : Rat) < 0 ∧ (2 : Rat) ≠ 0) ∧ ((0 : Rat) < 2 ∧ (2 : Rat) < pow2 400) ∧
    (1 : Rat) < 2 * pow2 400 ∧ ((-400 : Int) ≤ -3 ∧ (-3 : Int) ≤ 400 ∧ (-3 : Int) ≠ 0) := by
  have z : decFtz .fp32 true 0x80000000 = .fin 0 true := by decide +kernel
  have p : decFtz .fp32 true 0 = .fin 0 false := by decide +kernel
  have n : decFtz .fp32 true 0x80000001 = .fin 0 true := by decide +kernel
  have s : decFtz .fp32 true 1 = .fin 0 false := by decide +kernel
  have o : decFtz .fp32 true 0x3F800000 = .fin 1 false := by decide +kernel
  refine ⟨by decide, ?_, ?_, ?_, by decide +kernel, by decide +kernel, by unfold subnormal; decide, by norm_num, by decide +kernel, by decide +kernel, by decide⟩
  · simp only [z, p, under]; simp
  · simp only [n, s, under]; simp
  · simp only [o, under]; simp
/-- 3/10 lies between values of E2M1, whose largest is 6. -/
theorem witness_RoundingChoosesANeighbour :
    ((3 : Rat) / 10 ≠ 0) ∧ dec .e2m1 FpFmt.e2m1.maxBits = .fin 6 false ∧ (-6 : Rat) ≤ 3 / 10 ∧ (3 : Rat) / 10 ≤ 6 ∧
    (Rnd.sr (1 / 2) = .sr (1 / 2) ∧ (0 : Rat) ≤ 1 / 2 ∧ (1 : Rat) / 2 < 1) := by decide +kernel
/-- FP32 to E4M3 into the last of four slices, and INT8 to INT64 from the last of eight. -/
theorem witness_ElementConversions :
    let f : FmtV := ⟨2, 0, 11, 31, 0, 40, 8, 548, 3⟩
    let g : FmtV := ⟨2, 0, 3, 31, 0, 40, 8, 0, 7⟩
    (inCell 0).phase = .cell ∧ inRegister f ∧ typeWidth (f.b / 2 ^ 6) = 32 ∧ typeWidth f.type = 8 ∧ f.aux < 4 ∧ 8 ≤ f.b / 2 ^ 6 ∧
    typeWidth (g.b / 2 ^ 6) = 8 ∧ typeWidth g.type = 64 ∧ g.aux < 8 ∧ g.b / 2 ^ 6 < 8 :=
  ⟨rfl, ⟨by decide, by decide⟩, rfl, rfl, by decide, by decide, rfl, rfl, by decide, by decide⟩
theorem witness_MovementResults :
    (inCell 0).phase = .cell ∧ inRegister (fv 10 0) ∧ 0 < typeWidth (fv 10 0).type ∧ (fv 10 0).type ≤ 10 ∧ 2047 * 2 ^ 11 + 2047 < 2 ^ 22 :=
  ⟨rfl, inReg _ _, by decide, by decide, by decide⟩
theorem witness_VectorComparesAndPredicates :
    (inCell 0).phase = .cell ∧ inRegister (fv 7 5) ∧ (fv 7 5).type < 8 ∧ (fv 7 5).aux % 8 < 6 ∧ (fv 7 5).aux / 32 ≠ 1 ∧
    (fv 6 37).aux / 32 = 1 ∧ 32 ≤ typeWidth (fv 6 37).type ∧ (8 ≤ (fv 8 7).type ∧ (fv 10 7).type ≤ 10) ∧ (fv 8 39).aux / 32 = 1 ∧
    (at_ .commit tk).phase = .commit ∧ (fv 0 0).aux % 2 = 0 ∧ (fv 0 1).aux % 2 = 1 :=
  ⟨rfl, inReg _ _, by decide, by decide, by decide, by decide, by decide, by decide, by decide, rfl, by decide, by decide⟩
theorem witness_ReductionsBlocksAndPacks :
    (inCell 0).phase = .cell ∧ inRegister (fv 10 0) ∧ (fv 10 0).type ≤ 10 ∧ (fv 7 5).type < 8 ∧ (8 ≤ (fv 8 2).type ∧ 1 ≤ (fv 8 2).aux % 8) ∧
    (fv 14 7).width = 2 ∧ (fv 14 7).part = 0 ∧ 128 * ((fv 14 7).aux + 1) ≤ 1024 ∧ 256 * ((fv 16 3).aux + 1) ≤ 1024 ∧ (fv 16 0).type ≤ 16 ∧
    (fv 14 0).b < 128 ∧ (fv 11 0).type = 11 ∧ (0 < typeWidth (fv 13 0).type ∧ typeWidth (fv 10 0).type ≤ 16) ∧ (fv 9 1).aux / 32 = 0 ∧
    (fv 9 38).aux / 32 ≠ 0 :=
  ⟨rfl, inReg _ _, by decide, by decide, by decide, rfl, rfl, by decide, by decide, by decide, by decide, rfl, by decide, by decide, by decide⟩

/-- Predicate 3 is 0 in every lane of that cell. -/
theorem off3 (e : Word) : ¬ laneOn (inCell e).cr 3 0 0 := by
  rintro (h | ⟨_, h⟩)
  · exact absurd h (by decide)
  · exact absurd h (show ¬ ((0 : Word).getLsbD 0 ^^ decide (0 = 1)) = true by decide)
/-- MXFP4 with scales (R103: 0x0001_01CE), and INT8 with a saturating sum. -/
theorem witness_MatrixSteps :
    (inCell 0x000101CE).phase = .cell ∧ stepEntry (ftA 0x000101CE) (ftB 0x000101CE) (ftAcc 0x000101CE) ∧ ftAcc 0x000101CE < 2 ∧
    stepEntry (ftA 0xC00) (ftB 0xC00) (ftAcc 0xC00) ∧ 2 ≤ ftAcc 0xC00 ∧ laneOn (inCell 0).cr 31 0 0 ∧ ¬ laneOn (inCell 0).cr 3 0 0 :=
  ⟨rfl, by unfold stepEntry; decide, by decide, by unfold stepEntry; decide, by decide, .inl rfl, off3 0⟩
theorem witness_TileOperations :
    (inCell 0).phase = .cell ∧ laneOn (inCell 0).cr 31 0 0 ∧ ¬ laneOn (inCell 0).cr 3 0 0 ∧ 1528 + 7 < 1536 := ⟨rfl, .inl rfl, off3 0, by decide⟩
/-- Seven rows stand in drain queue 2 of position 0; row 0 is that of the bundle that executes, with column 0 filled. -/
def rowed : Task :=
  { tk with pos := [(0, { (default : Pos) with dq := [(2, (List.range 7).map (fun n => ⟨n, [], if n = 0 then [(0, 1)] else [], false⟩))] })] }
theorem witness_DrainsAndScoreboard :
    let s := { at_ .commit rowed with iss := { (at_ .commit rowed).iss with fl := { (default : Flight) with pm := 1 } } }
    let c := { inCell 0 with t := rowed }
    s.phase = .commit ∧ (∀ j ∈ positions s.iss.fl.pm s.t.len, s.t.occupancy j 2 < 8) ∧ positions s.iss.fl.pm s.t.len = [0] ∧ c.phase = .cell ∧
    laneOn c.cr 31 0 0 ∧ ¬ laneOn c.cr 3 0 0 ∧
    ((c.t.posAt c.cr.pos).rows 2).find? (fun r => r.n == c.cr.fl.n) = some ⟨0, [], [(0, 1)], false⟩ ∧ (at_ .wait tk).phase = .wait :=
  ⟨rfl, by decide, by decide, rfl, .inl rfl, by unfold laneOn; decide, by decide, rfl⟩
/-- An eighth row stands there: a ninth does not fit. -/
theorem witness_DrainsAndScoreboard_full :
    let t := { tk with pos := [(0, { (default : Pos) with dq := [(2, (List.range 8).map (fun n => ⟨n, [], [], false⟩))] })] }
    let s := { at_ .commit t with iss := { (at_ .commit t).iss with fl := { (default : Flight) with pm := 1 } } }
    let u := { tk with dq := [(2, { (default : DqAtt) with attached := true })], busy := [(1, (4, false))] }
    s.phase = .commit ∧ (∃ j ∈ positions s.iss.fl.pm s.t.len, 8 ≤ s.t.occupancy j 2) ∧ (at_ .wait u).phase = .wait ∧
    (fget (at_ .wait u).iss.t0.dq default 2).attached = true ∧ Busy (at_ .wait u).t false 1 :=
  ⟨rfl, ⟨0, by decide, by decide⟩, rfl, rfl, ⟨by decide, fun h => absurd h.1 (by decide)⟩⟩
/-- Row 15 is the last of the data area, row 16 lies in the gap, row 2044 in the carve-out; lc1 is 3. -/
theorem witness_CellMemoryResults :
    let c := (inCell 0).cr
    (inCell 0).phase = .cell ∧ kept c 15 ∧ ¬ kept c 16 ∧ kept c 2044 ∧ 3 + 0 * (c.fl.lc.getD 0 0).toNat < c.spill ∧ c.spill ≤ 2048 ∧
    rowNamed c ⟨1, 12, 1, 1, 31, 0, 0⟩ = 15 ∧ laneOn c 31 0 0 := by
  refine ⟨rfl, ?_, ?_, ?_, by decide, by decide, by decide, .inl rfl⟩ <;> unfold kept <;> decide

/-! ## Witnesses: the edges -/

/-- An edge operation of ordering class 1 on ring or queue 2, its pack at s8, under format entry 1. -/
def fe (swz imm : Nat) : FmtEdge := ⟨8, 1, swz, 2, 0, 1, 0, imm⟩
/-- A task at issue with that pack: BASE 0, PITCH 128, CSTR 0, SBASE `sbase`, entry 1 `e`; ring 2 of four entries; `rowed`'s rows. -/
def edged (p : Phase) (sbase : Nat) (e : Word) : State :=
  let t := { rowed with
    r := { tk.r with s := [(8, BitVec.ofNat 64 (128 * 2 ^ 32)), (9, BitVec.ofNat 64 (sbase * 2 ^ 32))], ft := [(1, e)] }
    rings := [(2, ⟨0, 12, 4, 1, 0, 1, 0⟩)] }
  let s := at_ p t
  { s with parts := [(0, ⟨0, 2 ^ 20, 0, 2 ^ 20⟩)], iss := { s.iss with fl := { (default : Flight) with pm := 1 } } }

theorem witness_SegmentAddresses :
    (14 ≤ AFMT (edged .check 0 14) (fe 3 0) ∧ AFMT (edged .check 0 14) (fe 3 0) ≤ 16) ∧ (fe 2 0).swz ≠ 3 ∧
    AFMT (edged .check 0 13) (fe 2 0) < 14 ∧ (2 : Nat) < 3 := by decide

/-- An `ests` of 32 segments that the partition just holds: its checks do not fail. One that begins a segment later fails. -/
theorem witness_EdgeOperationsAtIssue :
    edgeOf (.ests (fe 0 0)) = some (fe 0 0, true) ∧ edgeOf (.eldwr (fe 0 0)) = some (fe 0 0, false) ∧ edgeOf (.epop (fe 0 0)) = some (fe 0 0, true) ∧
    (edged .check 0 8).phase = .check ∧ (edged .wait 0 8).phase = .wait ∧ (edged .commit 0 8).phase = .commit ∧
    (∀ j, atPosition (edged .commit 0 8) j → ∃ r, r ∈ ((edged .commit 0 8).t.posAt j).rows 2 ∧ r.popped = false) ∧
    onRing (.eldwr ⟨8, 1, 0, 2, 0, 1, 1, 0⟩) = true ∧
    ((edged .commit 0 8).t.rings.find? (fun e => e.1 == 2)).map (·.2) = some ⟨0, 12, 4, 1, 0, 1, 0⟩ := by
  refine ⟨rfl, rfl, rfl, rfl, rfl, rfl, ?_, rfl, rfl⟩
  rintro j ⟨h, _⟩
  obtain rfl : j = 0 := by simp only [edged, rowed, at_, tk, hdr] at h; omega
  exact ⟨⟨1, [], [], false⟩, by decide, rfl⟩
/-- Its checks, run: an `ests` whose last segment ends with the partition, and one that goes a segment beyond. -/
theorem test_ests_range :
    (got (exec (.ests (fe 0 (2 ^ 13 - 32))) (edged .check 0 8))).iss.fails = [] ∧
    (got (exec (.ests (fe 0 (2 ^ 13 - 31))) (edged .check 0 8))).iss.fails = [⟨7, 4, 0x100000, false⟩] := by decide +kernel

/-- Work of a load or a store of operation `i` at position 0. -/
def work (i : Instr) (acted : List Nat) : EdgeWork := ⟨{ (default : EdgeInst) with op := i, oc := 1 }, acted, [], 0⟩
/-- A task with one load and one store at position 0. -/
def edging (ld st : List EdgeWork) : Task := { rowed with pos := rowed.pos.map (fun e => (e.1, { e.2 with ld := ld, st := st })) }

theorem witness_EdgeLoadsDeliver :
    let w := work (.eldw (fe 0 0)) []
    let b := work (.eldb (fe 0 0)) []
    let t := edging [w] []
    At (bound t) 0 t ∧ Sound (bound t) ∧ (t.posAt 0).ld = w :: [] ∧ edgeOf w.inst.op = some (fe 0 0, false) ∧
    (31 < 32 ∧ 31 ∉ w.acted ∧ t.loadHeld 0 w.inst (w.inst.seg 0 31) = false) ∧ ¬ 32 < 32 ∧
    ((edging [b] []).posAt 0).ld = b :: [] ∧ isOne b.inst.op = true ∧ (edging [b] []).loadHeld 0 b.inst (b.inst.seg 0 0) = false :=
  ⟨⟨rfl, rfl⟩, ⟨rfl, rfl⟩, rfl, rfl, by decide, by decide, rfl, rfl, by decide⟩
/-- Cell (31, 3) has executed the bundle of an `ests`, cell (31, 4) has not. -/
theorem witness_EdgeLoadsDeliver_store :
    let w := work (.ests (fe 0 0)) [0]
    let v := work (.ests (fe 0 0)) [0, 3]
    let t (l : List EdgeWork) : Task := { edging [] l with cells := [(32 * 31 + 3, { (default : Cell) with n := 1 })] }
    At (bound (t [v, w])) 0 (t [v, w]) ∧ ((t [v, w]).posAt 0).st = [v] ++ w :: [] ∧ (∀ x ∈ [v], 3 ∈ x.acted) ∧ 3 ∉ w.acted ∧
    (3 < 32 ∧ w.inst.n < ((t [v, w]).cellAt 0 31 3).n) ∧ ¬ w.inst.n < ((t [v, w]).cellAt 0 31 4).n ∧
    (∀ x ∈ ((t [v]).posAt 0).st, 3 ∈ x.acted) :=
  ⟨⟨rfl, rfl⟩, rfl, by decide, by decide, by decide, by decide, by decide⟩
theorem witness_EdgeStoresPerform :
    let w := work (.ests (fe 0 0)) [0]
    let v := work (.ests (fe 0 0)) []
    let e := { work (.epop (fe 0 0)) [0] with inst := { (work (.epop (fe 0 0)) []).inst with dq := 2, row := 0 } }
    let t := edging [] [w]
    At (bound t) 0 t ∧ Sound (bound t) ∧ (t.posAt 0).st = w :: [] ∧ edgeOf w.inst.op = some (fe 0 0, true) ∧
    (0 ∈ w.acted ∧ t.storeHeld 0 w.inst = false) ∧ 0 ∉ v.acted ∧ ((edging [] [e]).posAt 0).st = e :: [] ∧ pops e.inst.op = true ∧
    (∃ r ∈ ((edging [] [e]).posAt 0).rows e.inst.dq, r.n = e.inst.row) ∧
    (((edging [] [e]).posAt 0).rows e.inst.dq).find? (fun r => r.n == e.inst.row) = some ⟨0, [], [(0, 1)], false⟩ :=
  ⟨⟨rfl, rfl⟩, ⟨rfl, rfl⟩, rfl, rfl, by decide, by decide, rfl, rfl, ⟨⟨0, [], [(0, 1)], false⟩, by decide, rfl⟩, by decide⟩

/-- A task with bundle 0 in flight. -/
def flying : Task := { tk with flights := [{ (default : Flight) with n := 0, rm := BitVec.allOnes 32, cm := BitVec.allOnes 32, pm := 1 }] }
/-- Cell (0, 0) may execute bundle 0; cell (0, 1) must wait for it. -/
theorem witness_CellsExecuteTheirBundle :
    At (bound flying) 0 flying ∧ (∀ k, (fget flying.cells default k).errs = []) ∧ 0 < flying.prog.hdr.chain ∧ (0 : Nat) < 32 ∧ (31 : Nat) < 32 ∧
    flying.flights.find? (fun x => x.n == (cellOf flying 0 0 0).n) = some (flying.flights.headD default) ∧
    (¬ ∃ w ∈ (flying.posAt 0).ld, northward w = true ∧ w.inst.n + 6 ≤ 0) ∧ 0 ≤ (cellOf flying 0 1 0).n + 1 ∧ 0 ≤ (cellOf flying 0 0 1).n + 1 ∧
    ¬ (cellOf flying 0 0 1).n < (cellOf flying 0 0 0).n :=
  ⟨⟨rfl, rfl⟩, fun _ => rfl, by decide, by decide, by decide, rfl,
    by rintro ⟨_, h, _⟩; exact (nomatch h), by decide, by decide, by decide⟩
theorem witness_PublicationsAggregatesAndRefresh :
    let u : RingPub := ⟨2, true, 0⟩
    let t := { ringed 1 with pubs := [u] }
    let a := { flying with
      ctl := { tk.ctl with aggPend := some 0 }
      flights := [{ (default : Flight) with n := 0, cells := 1024 }] }
    At (bound t) 0 t ∧ t.pubs.find? (fun u => u.ring == 2 && u.producer == true) = some u ∧
    t.pubs.find? (fun u => u.ring == 2 && u.producer == false) = none ∧
    ((∀ p ∈ t.pstores, u.n < p.n) ∧ ∀ e ∈ t.pos, (∀ w ∈ e.2.ld, u.n < w.inst.n) ∧ ∀ w ∈ e.2.st, u.n ≤ w.inst.n) ∧
    fget? t.rings 2 = some ⟨0, 7, 4, 1, 0, 1, 0⟩ ∧ t.ctl.aggPend = none ∧ At (bound a) 0 a ∧ a.ctl.aggPend = some 0 ∧
    a.flights.find? (fun fl => fl.n == 0 && fl.cells == 1024 * a.prog.hdr.chain) = some { (default : Flight) with n := 0, cells := 1024 } ∧
    flying.flights.find? (fun fl => fl.n == 0 && fl.cells == 1024 * a.prog.hdr.chain) = none :=
  ⟨⟨rfl, rfl⟩, rfl, rfl, ⟨fun _ h => (nomatch h), fun _ h => (nomatch h)⟩, rfl, rfl, ⟨rfl, rfl⟩, rfl, rfl, rfl⟩

/-! ## Witnesses: the engines -/

/-- Command 7 of task 1, of operation `op` and opcode `opcode`, with pack `pack`, on die 0, bound to `cons`. -/
def cm (op : Instr) (opcode : Nat) (pack : List DWord) (st : CmdState) : Cmd :=
  { (default : Cmd) with id := 7, op := op, opcode := opcode, oc := 3, slot := 1, group := 9, task := 1, taskid := 1, dies := [0], pack := pack, st := st }
/-- The fields of an E operation whose pack is at s16, of ordering class 3, produce slot 1. -/
def ef : FmtE := ⟨16, 1, 63, 63, 63, 3, 1, 0, 0, 0⟩
/-- Context 0 lives, with 2^20 bytes of SRAM and of the weight store on die 0; its task `t` runs; commands `cs` stand in the queues. -/
def world (t : Task) (cs : List Cmd) : State :=
  { bound t with
    parts := [(0, ⟨0, 2 ^ 20, 0, 2 ^ 20⟩)]
    ctxs := [(0, { (default : Ctx) with live := true })]
    eng := { (bound t).eng with cmds := cs } }

/-- A machine at issue whose pack at s16 holds `l`. -/
def packed (l : List DWord) : State := at_ .check { tk with r := { tk.r with s := l.mapIdx (fun k v => (16 + k, v)) } }
/-- That pack, as the statements read it. -/
def regsOf (s : State) (r : Nat) : Nat := packReg s { (default : FmtEdge) with pack := 16 } r

/-- `dqatt` and `cpy` with packs in range, one past s63, one with a reserved bit and one with SPACE 3; a `wsld` whose range ends with the
partition, and one that goes beyond; a BUSY produce slot; a failed, a FREE and a BUSY consumed slot. -/
theorem witness_EngineCommandsAtIssue :
    (.cpy ef, 0x10, 5) ∈ engineForms ef ∧ (.dqdet ef, 0x02, 1) ∈ engineForms ef ∧
    (¬ reservedPack (.cpy ef) (regsOf (packed [])) ∧ reservedPack (.cpy ef) (regsOf (packed [0, 0, 0, 0, 32])) ∧
     reservedPack (.cpy ef) (regsOf (packed [0, 0, 0, 0xC000])) ∧ ¬ reservedPack (.cpy ef) (regsOf (packed [0, 0, 0, 0x3000]))) ∧
    (let room (len : DWord) : Prop := inPartition (parted (packed [0, 0, len, 0x80000000])) true 0 0 (regsOf (packed [0, 0, len, 0x80000000]) 2)
     room 64 ∧ ¬ room 65 ∧ (places tk ef).map (dieOf tk) = [0]) ∧
    (slotOf { tk with tok := [(3, ⟨.busy, 0, 9, 0x10, 0⟩)] } 3).st = .busy ∧
    (∃ h ∈ [(⟨9, 1, 1, 0x10, 0, false, 0, 1, [], none⟩ : Group)], h.id = 9 ∧ h.result = none) ∧
    (at_ .check tk).phase = .check ∧ 64 < 60 + 5 ∧ ef.pack + 5 ≤ 64 ∧ (∀ m ∈ consumes ef, (slotOf tk m).st ≠ .free) ∧
    (∀ r < 5, tk.sReg (ef.pack + r) = 0) ∧ 3 ∈ consumes { ef with c0 := 3 } ∧ (slotOf tk 3).st = .free ∧
    (at_ .wait tk).phase = .wait ∧ (at_ .wait tk).iss.stall = false ∧ (at_ .commit tk).phase = .commit ∧ 16 ≤ 0x10 ∧ ef.ap = 0 ∧
    (slotOf { tk with tok := [(3, ⟨.error, 2, 0, 0, 0⟩)] } 3).st = .error ∧
    (let q := { tk with r := { tk.r with s := [(16, 0x200)] } }; 2 ≤ (q.sReg ef.pack).toNat / 256 % 4) ∧ (tk.sReg ef.pack).toNat / 256 % 4 < 2 ∧
    (fget tk.dq default 0).attached = false ∧ (fget [(0, (⟨true, 0, false, 0, 0⟩ : DqAtt))] default 0).attached = true := by
  refine ⟨by decide, by decide, ⟨?_, ?_, ?_, ?_⟩, ⟨?_, ?_, rfl⟩, by decide, ⟨_, List.mem_singleton_self _, rfl, rfl⟩, by decide⟩
  · rintro (h | h); · rcases h with h | h <;> (rcases h with h | h | h | h <;> revert h <;> decide)
    exact h (by decide)
  · exact .inr (by decide)
  · exact .inl (.inl (.inl (by decide)))
  · rintro (h | h); · rcases h with h | h <;> (rcases h with h | h | h | h <;> revert h <;> decide)
    exact h (by decide)
  · exact ⟨by decide, by decide⟩
  · exact fun h => absurd h.2 (by decide)

/-- The one command of a queue stands first in it. -/
theorem first (s : State) (c : Cmd) (h : s.eng.cmds = [c]) (ht : s.tasks = [(1, tk)]) (hs : c.st = .queued) (hh : c.head = 0) (hd : c.die = 0)
    (hk : c.task = 1) : FirstInQueue s 0 (c.opcode / 16) 0 c := by
  refine ⟨hh, rfl, ?_, ?_, ?_, ?_, ?_⟩ <;> try rw [h]
  · simp [hs, hd]
  · intro d m; rw [List.mem_singleton.1 m]; intros; rfl
  · intro d m e n; rw [List.mem_singleton.1 m, List.mem_singleton.1 n]; intros; rfl
  · intro t e; rw [ht, hk] at e; cases e; rfl
  · intro d m; rw [List.mem_singleton.1 m, hs]; intros; exact ⟨by decide, by decide, by rintro ⟨h, _⟩; exact (nomatch h)⟩

/-- `cpy` of `len` bytes from `src` to `dst` in shared SRAM, queued. -/
def copying (src dst len : DWord) : Cmd := cm (.cpy ef) 0x10 [src, dst, len, 0, 0] .queued
/-- `cpyt` of 4 by 4 elements of 4 bytes, pitch 16, from 0 to `dst`. -/
def turning (dst : DWord) : Cmd := cm (.cpyt ef) 0x12 [0, dst, 0, 4 + 4 * 2 ^ 32, 16 + 16 * 2 ^ 32, 2] .queued
/-- `pksel` of 16 queries from drain queue 0 (SSRC), pairs to `sel`. -/
def choosing (sel : DWord) : Cmd :=
  cm (.pksel ef) 0x50 [16 * 2 ^ 48 + 2 ^ 43 + 2 ^ 38 + 2 ^ 31 + 2 ^ 24 + 256, 0, sel * 2 ^ 32 + 0x3F800000] .queued

/-- A `cpy` that begins with two units and one that ends at once; one of 2 GiB; one past the partition; pairs at 4; a transposition onto
itself; a queue that is not attached. Producers that have failed, and have not finished. -/
theorem witness_EngineCommandsStart :
    let s (c : Cmd) : State := world tk [c]
    let a (c : Cmd) : Accept := (s c).acceptOf c
    let g : Group := ⟨9, 1, 1, 0x10, 0, false, 0, 1, [], none⟩
    let late := { copying 0 256 200 with cons := [.group 9] }
    (1 : Nat) ≠ 0 ∧ FirstInQueue (s (copying 0 256 200)) 0 1 0 (copying 0 256 200) ∧ FirstInQueue (s late) 0 1 0 late ∧
    FirstInQueue (s (choosing 4)) 0 5 0 (choosing 4) ∧ FirstInQueue (s (turning 0)) 0 1 0 (turning 0) ∧
    ((s late).ctx 0).ffault = none ∧ (s late).part.stopped = false ∧ ¬ Behind (s (copying 0 256 200)) (copying 0 256 200) ∧
    (Binding.group 9 ∈ late.cons ∧ ∃ h ∈ [g], h.id = 9 ∧ h.result = none) ∧ (∃ h ∈ [{ g with result := some 6 }], h.id = 9 ∧ ∃ r, h.result = some r ∧ 2 ≤ r) ∧
    (a (copying 0 256 200) = ⟨true, true, true, true, true, 2⟩ ∧ plainStart (copying 0 256 200).op = true) ∧ (a (copying 0 256 0)).total = 0 ∧
    (a (copying 0 256 0x80000000)).param = false ∧ ((a (copying 0 0x100000 1)).param = true ∧ (a (copying 0 0x100000 1)).range = false) ∧
    ((a (choosing 4)).param = true ∧ (a (choosing 4)).range = true ∧ (a (choosing 4)).align = false) ∧
    ((a (turning 0)).param = true ∧ (a (turning 0)).range = true ∧ (a (turning 0)).align = true ∧ (a (turning 0)).overlap = false) ∧
    ((a (choosing 0)).param = true ∧ (a (choosing 0)).range = true ∧ (a (choosing 0)).align = true ∧ (a (choosing 0)).overlap = true ∧
      (a (choosing 0)).state = false) ∧ hasStart (.vxget ef) = true := by
  have f (c : Cmd) (h : c.st = .queued ∧ c.head = 0 ∧ c.die = 0 ∧ c.task = 1) : FirstInQueue (world tk [c]) 0 (c.opcode / 16) 0 c :=
    first _ c rfl rfl h.1 h.2.1 h.2.2.1 h.2.2.2
  refine ⟨by decide, f _ (by decide), f _ (by decide), f _ (by decide), f _ (by decide), rfl, rfl, ?_, ⟨by decide, _, List.mem_singleton_self _, rfl, rfl⟩,
    ⟨_, List.mem_singleton_self _, rfl, 6, rfl, by decide⟩, by decide +kernel, by decide +kernel, by decide +kernel, by decide +kernel,
    by decide +kernel, by decide +kernel, by decide +kernel, rfl⟩
  rintro ⟨t, h, k⟩
  obtain rfl : tk = t := Option.some.inj h
  rcases k with ⟨_, h, _⟩ | ⟨_, h, _⟩ <;> exact (nomatch h)

/-- The tables of context 0, in the extent of function 0: buffer 0 of three pages of 64 KiB on stack 1, exported to context 5, of which the first is present and
the third reads zero, and of the first the words at 8, 16 and 24 are 1, 2 and 3; buffer 1 of one page, in migration, that may only be read; buffer 2 an import that its owner has not exported. -/
def shelf : Mem :=
  [(0x100002, 3), (0x100009, 0x10), (0x10000A, 0x10), (0x100010, 0x20), (0x100018, 7), (0x100019, 4), (0x10001B, 1), (0x100020, 1), (0x100102, 1), (0x100109, 0x20), (0x10010A, 0x10),
    (0x100118, 3), (0x10011B, 1), (0x100120, 1), (0x100202, 3), (0x100218, 0x47), (0x101000, 5), (0x101007, 0xC0), (0x101017, 0xE0), (0x102000, 9), (0x102007, 0x90),
    (0x1000050008, 1), (0x1000050010, 2), (0x1000050018, 3)]
/-- The world with those tables, in which host 7 owns the module. -/
def shelved (cs : List Cmd) : State :=
  let s := world tk cs
  { s with
    ctxs := [(0, { (default : Ctx) with live := true, btbase := 0x100000, btcount := 3, xflags := 1 })]
    fns := [(0, { FnBlock.init with extBase := 0x100000, extLim := 0x200000 })]
    mem := { s.mem with hbm := shelf }
    mod := { s.mod with featneg := 0xFF, featgo := true, bootstat := 5, ownerValid := true, owner := 7 } }
/-- A running `cpy` of 256 bytes from SRAM to offset `off` of buffer `k`. -/
def filing (k off : DWord) : Cmd := { cm (.cpy ef) 0x10 [0, off, 256, (0x4000 + k) * 2 ^ 16, 0] .running with total := 2 }

/-- How the next element of such a command ends: 0 it performs, 1 it waits, 16 + kind it fails. -/
def fate (c : Cmd) : Nat :=
  match (shelved [c]).elemOut c with
  | .err e _ => 16 + e.kind
  | .done d => if (command d 7).isSome then 0 else 2
  | .wait _ => 1
/-- `cpy` and `fill` in shared SRAM, under way. -/
def local_ : Cmd := { copying 0 256 200 with st := .running, total := 2 }
def zeros : Cmd := { cm (.fill ef) 0x14 [64, 300, 0, 0x55] .running with elem := 2, total := 3 }
/-- A `pkfwd` whose entries go to a ring. -/
def ringing : Cmd := cm (.pkfwd ef) 0x51 [0, 0, 0, 32] .running
theorem fates :
    [fate (filing 0 0x10000), fate (filing 0 0x20000), fate (filing 1 0), fate (filing 2 0), fate (filing 0 0x30000), fate local_,
      fate zeros, fate ringing] = [21, 23, 22, 29, 28, 0, 0, 1] := by decide +kernel
/-- What the port finds of those buffers. -/
def found (x : State) : List Bool :=
  let absent (p : Nat) : Bool := let e := x.pte 0 0 0 p; !e.2.testBit 63 || (!e.2.testBit 61 && !x.frameOk e.1 e.2) || !e.2.testBit 62
  [(x.useEntry 0 0).size == 0x30000, (x.useEntry 0 1).wr, x.ownerOk 0 (x.bufEntry 0 0), x.ownerOk 0 (x.bufEntry 0 2), (x.useEntry 0 0).wr,
    (x.useEntry 0 0).page == 2 ^ 16, (x.pte 0 0 0 2).2.testBit 61, absent 0, absent 1, absent 2]
theorem found_there : found (shelved []) = [true, false, true, false, true, true, true, false, true, false] := by decide +kernel

/-- Units that go through; a page that is absent, one that reads zero, a buffer without WR, ...; a `pkfwd` whose entries go elsewhere. -/
theorem witness_EngineElementsAndPortChecks :
    command (shelved [filing 0 0]) 7 = some (filing 0 0) ∧ (filing 0 0).st = .running ∧ ((shelved [filing 0 0]).ctx 0).ffault = none ∧
    (shelved [filing 0 0]).part.stopped = false ∧ (shelved [filing 0 0]).mem.sramErr = [] ∧ (shelved []).mem.err = [] ∧
    (shelved []).mem.poison = [] ∧ (packOf local_ 3 = 0 ∧ packOf local_ 4 = 0 ∧ ∀ e ∈ local_.saved, e.2 < 256) ∧ packOf zeros 2 = 0 ∧
    [fate (filing 0 0x10000), fate (filing 0 0x20000), fate (filing 1 0), fate (filing 2 0), fate (filing 0 0x30000), fate local_,
      fate zeros, fate ringing] = [21, 23, 22, 29, 28, 0, 0, 1] ∧
    found (shelved []) = [true, false, true, false, true, true, true, false, true, false] :=
  ⟨rfl, rfl, rfl, rfl, rfl, rfl, rfl, ⟨rfl, rfl, by decide⟩, rfl, fates, found_there⟩

/-- A `wsld` from an absent page, in a segment of which 64 bytes wait; a `cpy` that reads a burst with an uncorrectable error. -/
def loading : Cmd := { cm (.wsld ef) 0x15 [0x10000, 64, 256, 0x80004000, 0] .running with pf := true, vals := [0, 64, 5], total := 2 }
def reading : Cmd := { cm (.cpy ef) 0x10 [0, 256, 256, 0x4000, 0] .running with total := 2 }
/-- How the next element of a command fails: kind, whether for the system, burst. -/
def failure (s : State) (c : Cmd) : Option (Nat × Bool × Option Nat) :=
  match s.elemOut c with
  | .err e _ => some (e.kind, e.sys, e.burst)
  | _ => none
/-- The machine of `reading` with that burst. -/
def spoilt : State := let s := shelved [reading]; { s with mem := { s.mem with err := [(0x1000050000 / 64, 3)] } }
theorem failures : failure (shelved [loading]) loading = some (5, false, none) ∧ failure spoilt reading = some (11, false, some (0x1000050000 / 64)) := by
  decide +kernel
theorem witness_EngineElementsAndPortChecks_failures :
    command (shelved [loading]) 7 = some loading ∧ loading.st = .running ∧ loading.pf = true ∧ loading.op = .wsld ef ∧ loading.vals = [0, 64, 5] ∧
    (shelved [loading]).mem.wsErr = [] ∧ (∃ s w, s = world tk [{ local_ with st := .faulted }] ∧ w = ({ local_ with st := .faulted } : Cmd) ∧ w.st ≠ .running ∧ w.st ≠ .allocWait) ∧
    failure (shelved [loading]) loading = some (5, false, none) ∧ command spoilt 7 = some reading ∧ reading.pf = false ∧
    failure spoilt reading = some (11, false, some (0x1000050000 / 64)) ∧ 3 ≤ fget spoilt.mem.err 0 (0x1000050000 / 64) :=
  ⟨rfl, rfl, rfl, rfl, rfl, rfl, ⟨_, _, rfl, rfl, by decide, by decide⟩, failures.1, rfl, rfl, failures.2, by decide⟩
/-- A running copy whose pack holds `pack`. -/
def moving (i : Instr) (op : Nat) (pack : List DWord) : Cmd := { cm i op pack .running with total := 2 }
theorem witness_EngineElementsAndPortChecks_copies :
    let a := moving (.cpy2 ef) 0x11 [0, 256, 0, 0, 16 + 2 * 2 ^ 32, 16 + 32 * 2 ^ 32]
    let b := moving (.gthr ef) 0x18 [0, 256, 0, 4 + 16 * 2 ^ 32, 2 + 512 * 2 ^ 32, 0]
    Runs (world tk [a]) 7 a ∧ a.op = .cpy2 ef ∧ packOf a 3 = 0 ∧ a.opcode / 16 = 1 ∧ packOf a 2 = 0 ∧ copyList a = none ∧
    Runs (world tk [b]) 7 b ∧ b.op = .gthr ef ∧ b.opcode / 16 = 1 ∧ packOf b 2 = 0 ∧ copyList b = some (512, 2) ∧ (∀ e ∈ b.saved, e.2 < 256) ∧
    (∀ l, copyList b = some l → l.2 ≠ 0) ∧ ((copyRuns b 3).filter (fun p => decide (p.2.1 ≤ 256 ∧ 256 < p.2.1 + p.2.2))).getLast? = some (some 48, 256, 16) ∧
    ((copyRuns b 4).filter (fun p => decide (p.2.1 ≤ 256 ∧ 256 < p.2.1 + p.2.2))).getLast? = some (none, 256, 16) :=
  ⟨⟨rfl, rfl, rfl, rfl, rfl⟩, rfl, rfl, rfl, rfl, rfl, ⟨rfl, rfl, rfl, rfl, rfl⟩, rfl, rfl, rfl, rfl, by decide, by
    intro l h; cases h; decide, rfl, rfl⟩
/-- What the port finds of 16 bytes at the start of buffer 0, which is of this module, and of 4. -/
theorem rows_there : (shelved []).portErr 0 0 0 0 16 false = none ∧ (shelved []).atomicErr 0 0 0 0 16 = none ∧ (shelved []).atomicErr 0 0 0 0 4 = none ∧
    ((shelved []).bufEntry 0 0).remote = false ∧ wordAt (shelved []) (moving .nopE 0 []) 128 = 0 := by decide +kernel
/-- Tables of one row of one element, and of none; the first index is 0. -/
theorem witness_EngineElementsAndPortChecks_hamper :
    let c (i : Instr) (op : Nat) (rows : DWord) : Cmd := moving i op [2 ^ 16, 0, rows * 2 ^ 32 + 1, 128 * 2 ^ 32, 0]
    let o (far : DWord) : Cmd := { moving (.nmopt ef) 0x44 [far * 2 ^ 26 + 2 ^ 32, 0, 2 ^ 32 + 1, 128 * 2 ^ 32, 0, 0, 0] with vals := List.replicate 10 0 }
    (∀ i op, (i, op) ∈ [(Instr.nmadd ef, 0x40), (.nmamo ef, 0x41), (.nmgs ef, 0x42), (.nmdot ef, 0x43)] →
      Runs (shelved [c i op 1]) 7 (c i op 1) ∧ (c i op 1).opcode / 16 = 4 ∧ 0 < bitsOf (c i op 1) 2 32 32 ∧ bitsOf (c i op 0) 2 32 32 ≤ 0) ∧
    bitsOf (c (.nmamo ef) 0x41 1) 0 16 4 < 8 ∧
    Runs (shelved [o 0]) 7 (o 0) ∧ (o 0).vals.length = 10 ∧ (∀ v ∈ (o 0).vals, v < 2 ^ 32) ∧ bitsOf (o 0) 0 26 1 = 0 ∧ bitsOf (o 1) 0 26 1 = 1 ∧
    (shelved []).portErr 0 0 0 0 16 false = none ∧ (shelved []).atomicErr 0 0 0 0 16 = none ∧ (shelved []).atomicErr 0 0 0 0 4 = none ∧
    ((shelved []).bufEntry 0 0).remote = false := by
  refine ⟨?_, by decide, ⟨rfl, rfl, rfl, rfl, rfl⟩, rfl, by decide, by decide, by decide, rows_there.1, rows_there.2.1, rows_there.2.2.1, rows_there.2.2.2.1⟩
  intro i op h
  simp only [List.mem_cons, Prod.mk.injEq, List.not_mem_nil, or_false] at h
  rcases h with h | h | h | h <;> obtain ⟨rfl, rfl⟩ := h <;>
    exact ⟨⟨rfl, rfl, rfl, rfl, rfl⟩, rfl, by decide, by decide⟩

/-- A finished `cpy` and its group of `want` instances, of which none has reported. -/
theorem witness_EngineCommandsComplete :
    let c : Cmd := { copying 0 256 200 with st := .done, elem := 2, total := 2 }
    let g (want : Nat) : Group := ⟨9, 1, 1, 0x10, 0, true, 0, want, [], none⟩
    let s (want : Nat) : State := { world tk [c] with eng := { (world tk [c]).eng with groups := [g want] } }
    command (s 1) 7 = some c ∧ command (world tk [local_]) 7 = some local_ ∧ local_.st ≠ .done ∧
    (s 2).eng.groups.find? (fun h => h.id == c.group) = some (g 2) ∧ (g 2).got.length + 1 < (g 2).want ∧
    (s 1).eng.groups.find? (fun h => h.id == c.group) = some (g 1) ∧ (g 1).want ≤ (g 1).got.length + 1 ∧
    (g 1).got.Pairwise (fun x y => x.1 ≤ y.1) ∧ fget? (s 1).tasks (g 1).task = some tk ∧ tk.ctl.running = true ∧
    ReportsGive (c.opcode / 16) [(c.pos, c.status, c.elem, c.elem, auxOf c)] 0 0 2 2 0 :=
  ⟨rfl, rfl, by decide, rfl, by decide, rfl, by decide, .nil, rfl, rfl, by unfold ReportsGive; decide⟩

/-- A guarded `nmopt` that waits for its guard at offset `off` of buffer 0. -/
def guarded (off : DWord) : Cmd := { cm (.nmopt ef) 0x44 [2 ^ 24, 0, 0, 0, 0, 0, off] .running with vals := List.replicate 9 0 }
/-- What it reads there. -/
def guardRead (off : DWord) : Option Nat :=
  match (shelved [guarded off]).fetch (guarded off) [((guarded off).xbuf, packOf (guarded off) 6, 4)] with
  | .vals [(v, _)] => some v
  | _ => none
theorem guards : [guardRead 0, guardRead 8, guardRead 16, guardRead 24] = [some 0, some 1, some 2, some 3] := by decide +kernel
/-- An addition to offset `off` of buffer `k`. -/
def adding (k off : Nat) (held : Bool) : RfAdd := ⟨7, 1, 1, 0, 0, 0, 0, 0, k, off, 0x3F800000, 0, held⟩
/-- The kind of the error that its port check finds. -/
def addErr (k off : Nat) : Option Nat := ((shelved []).atomicErr 0 0 k off 4).map (·.kind)
theorem addErrs : [addErr 0 0, addErr 0 0x10000, addErr 1 0] = [none, some 5, some 6] := by decide +kernel

/-- A task that has one allocation failure held, of the instance at position 0. -/
def short (v : Bool) : Task := { tk with allocs := [⟨some 7, 0, 1, 0⟩], prog := { tk.prog with hdr := { hdr with trapv := v } } }
theorem witness_EngineCommandsComplete_allocation :
    At (bound (short true)) 0 (short true) ∧ At (bound (short false)) 0 (short false) ∧ (short true).allocs = [] ++ ⟨some 7, 0, 1, 0⟩ :: [] ∧
    (short true).errs = [] ∧ (short true).sys.tm = false ∧ (short true).ctl.ending = false ∧ (short true).ctl.halted = false ∧
    ((bound (short true)).ctx 0).ffault = none ∧ (bound (short true)).part.stopped = false ∧ (short true).held = [] ∧
    (short true).prog.hdr.trapv = true ∧ (short false).prog.hdr.trapv = false :=
  ⟨⟨rfl, rfl⟩, ⟨rfl, rfl⟩, rfl, rfl, rfl, rfl, rfl, rfl, rfl, rfl, rfl, rfl⟩
theorem witness_EngineCommandsComplete_shootDowns :
    let c (i : Instr) (op n : Nat) : Cmd := { cm i op [0, 0] .shooting with acks := List.range n }
    command (world tk [c (.vxinv ef) 0x63 23]) 7 = some (c (.vxinv ef) 0x63 23) ∧ (c (.vxinv ef) 0x63 23).st = .shooting ∧
    23 ∉ (c (.vxinv ef) 0x63 23).acks ∧ (world tk [c (.vxinv ef) 0x63 23]).volBusy (c (.vxinv ef) 0x63 23) 23 = false ∧
    (c (.vxinv ef) 0x63 22).acks.length < 23 ∧ 23 ≤ (c (.vxinv ef) 0x63 23).acks.length ∧ (c (.vxpoolInit ef) 0x65 23).op = .vxpoolInit ef ∧
    (let v : Cmd := { cm (.vxput ef) 0x61 [0, 0] .running with vals := [1] }
     (world tk [v]).volBusy (c (.vxinv ef) 0x63 0) 0 = true) := by decide +kernel

/-- Buffer 0 as a volume of 32 by 8 by 8 elements of one byte, BG 7, MODE `mode`, with one node and one tile, of which `m` tiles are free: node 0
at 0x1000 stands on every level, its pointer 1 leads to tile 0 at 0x2000, pointer 2 is empty. -/
def lattice (mode m : Byte) : Mem :=
  ([(0x100002, 1), (0x100009, 0x10), (0x10000A, 0x10), (0x100018, 0x17), (0x100019, 4), (0x10001B, 1), (0x100020, 1), (0x100084, 11), (0x100085, 1),
    (0x100086, mode), (0x100088, 32), (0x10008C, 8), (0x100090, 8), (0x100094, 1), (0x100098, 1), (0x1000A1, 0x10), (0x1000A9, 0x20), (0x1000B1, 0x30),
    (0x1000B9, 0x40), (0x1000C0, 7), (0x101000, 5), (0x101007, 0xC0), (0x1000050000, m), (0x1000051007, 0x80), (0x100005100F, 0xC0), (0x1000052000, 3)] : Mem).filter
    (fun e => e.2 != 0)
/-- The world with that volume, and the coordinates (8, 0, 0), (16, 0, 0), (40, 0, 0) in shared SRAM. -/
def latticed (mode m : Byte) (cs : List Cmd) : State :=
  let s := shelved cs
  { s with mem := { s.mem with hbm := lattice mode m, sram := [(0, 8), (12, 16), (24, 40)] } }
/-- Element `k` of an access of three elements, data at 64; `trap` asks for a trap when nothing is free. -/
def visiting (i : Instr) (op k : Nat) (trap : Bool) : Cmd :=
  { cm i op [3 * 2 ^ 16 + if trap then 2 ^ 12 else 0, 64] .running with elem := k, total := 3 }
/-- The descriptor of that volume. -/
def latticeImg (mode m : Byte) : Nat := (latticed mode m []).devRd (((latticed mode m []).useEntry 0 0).addr + 0x80) 128
/-- Coordinates within it; a walk; what the port allows. -/
def latticeFacts : List Bool :=
  let s := latticed 1 1 []
  let img := latticeImg 1 1
  let c := visiting (.vxput ef) 0x61 0 false
  let within (k : Nat) : Bool := (List.range 3).all (fun j =>
    let w := (BitVec.ofNat 32 (wordAt s c (12 * k + 4 * j))).toInt
    decide (0 ≤ w) && decide (w < (volField img (8 + 4 * j) 4 : Int)))
  let last (x : Nat) : Nat × Nat × Nat := (volPath s c img x 0 0 5 0).getLast?.getD default
  [within 0, within 1, within 2, last 8 == (1, 0x1008, 3 * 2 ^ 62), last 16 == (1, 0x1010, 0),
    ((volPath s c img 8 0 0 5 0) ++ volPath s c img 16 0 0 5 0).all (fun e => (s.portErr 0 0 0 e.2.1 8 false).isNone),
    (s.portErr 0 0 0 0x2000 1 false).isNone, (s.atomicErr 0 0 0 0x2000 1).isNone, (s.atomicErr 0 0 0 0 64).isNone,
    (s.atomicErr 0 0 0 0x4000 4).isNone, (s.atomicErr 0 0 0 0x2000 512).isNone, (s.atomicErr 0 0 0 0x1000 4096).isNone,
    s.bufRd 0 0 0 0 8 == 1, (latticed 1 0 []).bufRd 0 0 0 0 8 == 0, volField (latticeImg 0 1) 6 1 == 0, volField img 6 1 == 1]
theorem lattice_facts : latticeFacts = [true, true, false, true, true, true, true, true, true, true, true, true, true, true, true, true] := by
  decide +kernel
theorem lattice_layout : volLayout (latticeImg 1 1) 512 :=
  ⟨by decide +kernel, by decide +kernel, by decide +kernel, ⟨9, rfl⟩, by decide +kernel, by decide⟩
/-- The pointers met, which keep the table of R274; one that does not. -/
theorem lattice_pointers : volPointer (latticeImg 1 1) 5 (2 ^ 63) ∧ volPointer (latticeImg 1 1) 1 (3 * 2 ^ 62) ∧ volPointer (latticeImg 1 1) 1 0 ∧
    ¬ volPointer (latticeImg 1 1) 1 (2 ^ 63) := by
  refine ⟨.inr ⟨by decide, by decide, by decide, by decide +kernel⟩, .inr ⟨by decide, by decide, by decide, by decide +kernel⟩, .inl rfl, ?_⟩
  rintro (h | ⟨_, h, _⟩)
  · exact absurd h (by decide)
  · exact absurd h (by decide)
/-- Elements within the volume and outside it, of reads and writes; one with a look-aside entry; a child that waits for its pointer. -/
theorem witness_EngineCommandsComplete_volumes :
    let c := visiting (.vxput ef) 0x61
    let w : Cmd := { c 1 false with vals := [latticeImg 1 1, 16, 0, 0, 1, 0x1010, 0] }
    let look : LookEntry := ⟨0, 0, 0, 1, 0, 0, some 0⟩
    let seen (s : State) : State := { s with eng := { s.eng with look := [look] } }
    Runs (latticed 1 1 [c 0 false]) 7 (c 0 false) ∧ (c 0 false).opcode / 16 = 6 ∧ (c 0 false).vals = [] ∧
    Runs (latticed 1 1 [w]) 7 w ∧ (visiting (.vxget ef) 0x60 0 false).op = .vxget ef ∧
    (seen (latticed 1 1 [c 0 false])).eng.look.find? (fun e => e.die == 0 && e.ctx == 0 && e.buf == 0 && e.x == 8 / 8 && e.y == 0 && e.z == 0) = some look ∧
    (∀ d ∈ (seen (latticed 1 1 [c 0 false])).eng.cmds, d.shootPending = false) ∧ bitsOf (c 0 true) 0 12 1 = 1 ∧ bitsOf (c 0 false) 0 12 1 = 0 ∧
    fget? (latticed 1 0 [c 1 true]).tasks 1 = some tk ∧ volLayout (latticeImg 1 1) 512 ∧
    latticeFacts = [true, true, false, true, true, true, true, true, true, true, true, true, true, true, true, true] :=
  ⟨⟨rfl, rfl, rfl, rfl, rfl⟩, rfl, rfl, ⟨rfl, rfl, rfl, rfl, rfl⟩, rfl, rfl, by decide, by decide, by decide, rfl, lattice_layout, lattice_facts⟩
theorem witness_EngineCommandsComplete_pools :
    let c (i : Instr) (op total : Nat) : Cmd := { cm i op [3 * 2 ^ 16 + 2 ^ 13, 64] .running with total := total }
    let v : Cmd := { c (.vxpoolInit ef) 0x65 1 with vals := [latticeImg 1 1] }
    Runs (latticed 1 1 [c (.vxinv ef) 0x63 1]) 7 (c (.vxinv ef) 0x63 1) ∧ ((c (.vxinv ef) 0x63 1).total ≤ 0 + 1 ∧ (c (.vxinv ef) 0x63 1).status = 0) ∧
    ¬ (c (.vxinv ef) 0x63 3).total ≤ 0 + 1 ∧ bitsOf (c (.vxinv ef) 0x63 1) 0 13 1 = 1 ∧ Runs (latticed 1 1 [v]) 7 v ∧
    v.vals.head? = some (latticeImg 1 1) ∧ Runs (latticed 1 1 [c (.vxpoolAddt ef) 0x65 1]) 7 (c (.vxpoolAddt ef) 0x65 1) ∧
    Runs (latticed 1 1 [c (.vxtile ef) 0x64 1]) 7 (c (.vxtile ef) 0x64 1) ∧ volField (latticeImg 1 1) 0x18 4 = 1 ∧
    latticeFacts = [true, true, false, true, true, true, true, true, true, true, true, true, true, true, true, true] :=
  ⟨⟨rfl, rfl, rfl, rfl, rfl⟩, by decide, by decide, by decide, ⟨rfl, rfl, rfl, rfl, rfl⟩, rfl, ⟨rfl, rfl, rfl, rfl, rfl⟩, ⟨rfl, rfl, rfl, rfl, rfl⟩,
    by decide +kernel, lattice_facts⟩

/-- `pksel` that pops a row of 8192 elements from drain queue 2, where row 0 has passed every cell of row 31. -/
def popping : Cmd :=
  cm (.pksel ef) 0x50 [16 * 2 ^ 48 + 2 * 2 ^ 44 + 2 ^ 43 + 2 ^ 38 + 2 ^ 31 + 2 ^ 24 + 256, 0, 0x3F800000] .running
def passed : Task := { rowed with cells := (List.range 32).map (fun k => (992 + k, { (default : Cell) with n := 1 })) }
theorem witness_EngineHandshakes :
    let t (pend : Bool) (mark : Nat) : Task := { rowed with dq := [(2, ⟨true, 0, pend, mark, 9⟩)] }
    let ready (t : Task) : Prop := (fget t.dq default 2).attached = true ∧ (fget t.dq default 2).pending = true ∧
      ∀ e ∈ t.pos, ∀ r ∈ fget e.2.dq [] 2, r.n < (fget t.dq default 2).mark → r.popped = true
    (At (bound (t true 0)) 0 (t true 0) ∧ ready (t true 0) ∧ ¬ ready (t true 1) ∧ ¬ ready (t false 0)) ∧
    ([(⟨9, 1, 1, 0x02, 0, true, 0, 1, [], none⟩ : Group)].find? (fun g => g.id == 9)).isSome ∧
    (command (world passed [popping]) 7 = some popping ∧ popping.rowsWanted = some (2, 1) ∧ fget? (world passed [popping]).tasks 1 = some passed ∧
     popping.rows.length < 1 ∧ (rowsOf passed 0 2).find? (fun x => !x.popped) = some ⟨0, [], [(0, 1)], false⟩ ∧
     (∀ d ∈ (world passed [popping]).eng.cmds, d.id = popping.id ∨ d.task ≠ popping.task ∨ d.pos ≠ popping.pos ∨ d.st ≠ .running ∨ d.rowsWanted = none) ∧
     (∀ k < 32, 0 < (cellOf passed 0 31 k).n) ∧ ¬ (∀ k < 32, 0 < (cellOf rowed 0 31 k).n) ∧ (fget passed.dq default 2).pending = false ∧
     passed.ctl.running = true) :=
  ⟨⟨⟨rfl, rfl⟩, by decide, by decide, by decide⟩, rfl, ⟨rfl, rfl, rfl, by decide, by decide +kernel, by decide, by decide +kernel, by decide +kernel, rfl, rfl⟩⟩

/-- A running `agt` of one element among `np`, rank 0, at level `level`. -/
def gathering (np level : DWord) : Cmd := cm (.agt ef) 0x31 [0, 64, 0, 1 * 2 ^ 32 + np * 2 ^ 16, level * 2 ^ 46] .running
/-- The engines with collective `k` open. -/
def opened (c : Cmd) (k : Coll) : State := { world tk [c] with eng := { (world tk [c]).eng with colls := [k] } }
/-- Collectives of one member: full and agreeing, short of a member, in disagreement; one at level 3 whose home has matched it, with its share
there and without, and with another's that says otherwise; elements to write. -/
theorem witness_EngineHandshakes_collectives :
    let k (level np : Nat) (agree : Bool) : Coll := ⟨3, 0, level, 0, 0, np, [], [(7, 0)], agree⟩
    let g := gathering 1 0
    let h : Cmd := { gathering 1 3 with acks := [3, 5] }
    let share (rank : Nat) : CollShare := ⟨0, (opened h (k 3 1 true)).sysKey h, 5, 0, 0, rank, h.collParams, [9]⟩
    let e : Cmd := { g with vals := [9], total := 1 }
    ((opened g (k 1 1 true)).eng.colls.find? (fun k => k.id == 3) = some (k 1 1 true) ∧ (k 1 1 true).level ≠ 3 ∧
     (k 1 1 true).members.filterMap (fun m => command (opened g (k 1 1 true)) m.1) = [g] ∧ g.st = .running ∧ g.collReady = true ∧ packOf g 2 % 2 ^ 16 = 0 ∧
     (k 1 2 true).np ≠ 1 ∧ (k 1 1 false).agree = false) ∧
    ((k 3 1 true).level = 3 ∧ (k 3 1 true).members.filterMap (fun m => command (opened h (k 3 1 true)) m.1) = [h] ∧ h.acks = [3, 5] ∧
     bitsOf h 3 16 16 = 1 ∧
     (let mine (l : List CollShare) := l.filter (fun x => x.sdom == ((opened h (k 3 1 true)).ctx h.ctx).sdom && x.group == (opened h (k 3 1 true)).sysKey h && x.gen == 5)
      let alike (l : List CollShare) : Prop := (∀ x ∈ mine l, x.params = h.collParams ∧ x.rank < 1) ∧ ((mine l).map (·.rank)).Nodup
      (mine [share 0]).length = 1 ∧ (mine []).length < 1 ∧ alike [share 0] ∧ ¬ alike [share 1])) ∧
    (Runs (world tk [e]) 7 e ∧ e.opcode / 16 = 3 ∧ packOf e 2 / 2 ^ 16 % 2 ^ 16 = 0 ∧ e.vals ≠ [] ∧ e.elem < e.total ∧ (∀ v ∈ e.vals, v < 2 ^ 32)) :=
  ⟨⟨rfl, by decide, rfl, rfl, rfl, rfl, by decide, rfl⟩, ⟨rfl, rfl, rfl, by decide, by decide⟩, ⟨rfl, rfl, rfl, rfl, rfl⟩, rfl, rfl, by decide, by decide, by decide⟩

/-- A running `idec` of an image of 8 by 8 in the bi-level codec, 4 patches at most, whose stream is the byte `b`. -/
def decoding (b : Nat) : Cmd := { cm (.idec ef) 0x20 [0, 0, 4 * 2 ^ 48 + 2 ^ 42 + 2 * 2 ^ 37 + 8 * 2 ^ 16 + 8] .running with vals := [b], total := 1 }
/-- Eight lines of white, and a stream that breaks after six: of that one no patch is whole. -/
theorem streams :
    (decoding 0xFF).picture = .ok ⟨8, 8, 0, .t6 (List.replicate 8 (List.replicate 8 false)), true⟩ ∧
    (decoding 0xFC).picture = .ok ⟨8, 8, 0, .t6 (List.replicate 6 (List.replicate 8 false)), false⟩ ∧
    (decoding 0xFC).patchesWhole ((decoding 0xFC).grid 8 8) ⟨8, 8, 0, .t6 (List.replicate 6 (List.replicate 8 false)), false⟩ = 0 := by decide +kernel
theorem witness_EngineHandshakes_images :
    let c := decoding 0xFF
    let d := decoding 0xFC
    command (world (ringed 1) [c]) 7 = some c ∧ fget? (world (ringed 1) [c]).tasks 1 = some (ringed 1) ∧ (ringed 1).ctl.running = true ∧ c.st = .running ∧
    (world (ringed 1) [c]).mem.sramErr = [] ∧ c.opcode = 0x20 ∧ c.vals ≠ [] ∧ 1 ≤ bitsOf c 2 48 16 ∧
    fget? (ringed 1).rings (bitsOf c 2 37 5) = some ⟨0, 7, 4, 1, 0, 1, 0⟩ ∧ ((1 : Word) - 0).toNat < 4 ∧ 4 ≤ ((4 : Word) - 0).toNat ∧
    c.picture = .ok ⟨8, 8, 0, .t6 (List.replicate 8 (List.replicate 8 false)), true⟩ ∧
    ∃ p, d.picture = .ok p ∧ p.whole = false ∧ min (Config.codedPatches d.vals (d.pack.map (·.toNat))) (d.patchesWhole (d.grid 8 8) p) ≤ d.elem :=
  ⟨rfl, rfl, rfl, rfl, rfl, rfl, by decide, by decide, rfl, by decide, by decide, streams.1, _, streams.2.1, rfl,
    streams.2.2 ▸ Nat.min_le_right _ _⟩

/-- A running `pkfwd` of one index of the row at buffer 0, to ring 2 or to shared SRAM. -/
def forwarding (ring : DWord) : Cmd := cm (.pkfwd ef) 0x51 [2 ^ 38 + 2 ^ 31 + 2 ^ 16, 0, 2 ^ 32, ring] .running
/-- The gradients of one index of one row; with a table for them; the merging of one pair. -/
def backing (gen : DWord) : Cmd := cm (.pkbwd ef) 0x52 [2 ^ 38 + 2 ^ 31 + 2 ^ 16, 0, 2 ^ 32, 64 + 128 * 2 ^ 32, 256 + 512 * 2 ^ 32, gen, 0] .running
def merging (vals : List Nat) : Cmd := { cm (.pkmrg ef) 0x53 [2 ^ 32 + 2 ^ 16, 0, 64 + 128 * 2 ^ 32, 0] .running with vals := vals }
/-- What the port finds of a row of two bytes at the start of buffer 0, which is of this module. -/
theorem row_there : (shelved []).portErr 0 0 0 0 2 false = none ∧ ((shelved []).bufEntry 0 0).remote = false := by decide +kernel
theorem witness_EngineHandshakes_lookups :
    let near := { popping with pack := [2 ^ 38 + 2 ^ 31 + 2 ^ 24 + 256, 0, 0x3F800000], total := 1 }
    let s (c : Cmd) : State := { shelved [c] with tasks := [(1, ringed 1)] }
    (Runs (world passed [popping]) 7 popping ∧ bitsOf popping 0 43 1 = 1 ∧ 8192 * popping.rows.length < (0 + 1) * 2 * 256 ∧
     ¬ 8192 * ({ popping with rows := [[]] } : Cmd).rows.length < (0 + 1) * 2 * 256 ∧ Runs (world tk [near]) 7 near ∧ bitsOf near 0 43 1 = 0 ∧
     bitsOf near 0 24 7 ≤ bitsOf near 0 0 13 ∧ bitsOf near 0 31 7 ≤ bitsOf near 0 24 7 * bitsOf near 0 24 7) ∧
    (Runs (s (forwarding 0)) 7 (forwarding 0) ∧ bitsOf (forwarding 0) 3 5 1 = 0 ∧ bitsOf (forwarding 34) 3 5 1 = 1 ∧
     fget? (s (forwarding 34)).tasks 1 = some (ringed 1) ∧ fget? (ringed 1).rings (bitsOf (forwarding 34) 3 0 5) = some ⟨0, 7, 4, 1, 0, 1, 0⟩ ∧
     ((1 : Word) - 0).toNat < 4 ∧ 4 ≤ ((4 : Word) - 0).toNat ∧ rowBytes 0 1 = 2) ∧
    (Runs (s (backing 0)) 7 (backing 0) ∧ bitsOf (backing 0) 5 12 1 = 0 ∧ bitsOf (backing (2 ^ 12)) 5 12 1 = 1) ∧
    (Runs (world tk [merging []]) 7 (merging []) ∧ (merging []).vals = [] ∧ (merging [1, 5, 9]).vals = 1 :: [5, 9]) ∧
    ((shelved []).portErr 0 0 0 0 2 false = none ∧ ((shelved []).bufEntry 0 0).remote = false) :=
  ⟨⟨⟨rfl, rfl, rfl, rfl, rfl⟩, by decide, by decide, by decide, ⟨rfl, rfl, rfl, rfl, rfl⟩, by decide, by decide, by decide⟩,
   ⟨⟨rfl, rfl, rfl, rfl, rfl⟩, by decide, by decide, rfl, rfl, by decide, by decide, rfl⟩, ⟨⟨rfl, rfl, rfl, rfl, rfl⟩, by decide, by decide⟩,
   ⟨⟨rfl, rfl, rfl, rfl, rfl⟩, rfl, rfl⟩, row_there⟩
theorem witness_EngineHandshakes_guards :
    (¬ waitsForGuard local_ ∧ waitsForGuard (guarded 0) ∧
     [guardRead 0, guardRead 8, guardRead 16, guardRead 24] = [some 0, some 1, some 2, some 3]) ∧
    ([adding 0 0 false, adding 0 0 true][0]? = some (adding 0 0 false) ∧ (∃ b ∈ [adding 0 0 false, adding 0 0 false].take 1, b.off = (adding 0 0 false).off) ∧
     [addErr 0 0, addErr 0 0x10000, addErr 1 0] = [none, some 5, some 6]) := by
  refine ⟨⟨?_, ⟨⟨_, rfl⟩, rfl, by decide, rfl⟩, guards⟩, ⟨rfl, ⟨_, List.mem_singleton_self _, rfl⟩, addErrs⟩⟩
  rintro ⟨⟨_, h⟩, _⟩
  exact (nomatch h)

/-! ## Witnesses: Rambler, the link, the host, the module -/

theorem rdByte_window (a n x : Nat) (h : a ≤ x ∧ x < a + n) : ∀ m : Mem, rdByte (window m a n) x = rdByte m x
  | [] => rfl
  | e :: m => by
    have ih := rdByte_window a n x h m
    unfold window rdByte at *
    by_cases k : a ≤ e.1 ∧ e.1 < a + n
    · simp only [List.filter_cons, k, and_self, decide_true, if_true, fget_cons, ih]
    · have : e.1 ≠ x := fun he => k (he ▸ h)
      simp only [List.filter_cons, k, decide_false, Bool.false_eq_true, if_false, fget_cons, this, ih]
theorem rdNat_window (a n : Nat) (m : Mem) : ∀ k x, a ≤ x → x + k ≤ a + n → rdNat (window m a n) x k = rdNat m x k
  | 0, _, _, _ => rfl
  | k + 1, x, h, h' => by
    unfold rdNat; rw [rdByte_window a n x ⟨h, by omega⟩, rdNat_window a n m k (x + 1) (by omega) (by omega)]
/-- A task that is bound again, whose image lies at address 0 as it was saved. -/
def away : Task := { tk with prog := { tk.prog with hdr := { hdr with chain := 0 } }, ctl := { tk.ctl with running := false, imgKey := 5 } }
def image : Mem := wrNat (wrNat [] 0x1000 4096 (Config.freePrivate 5 0x1000)) 0x2000 24576 (Config.freePrivate 5 0x2000)
def saved : State := { bound away with mem := { State.reset.mem with hbm := image } }
theorem private_there (m : Mem) (k a n : Nat) : rdNat (wrNat m a n (Config.freePrivate k a)) a n = Config.freePrivate k a % 2 ^ (8 * n) := by
  rw [rdNat_wrNat_same, Nat.pow_mul]
theorem image_there : ∀ p ∈ away.prog.hdr.privateRegions,
    saved.devRd (away.ctl.img + p.1) p.2 = Config.freePrivate away.ctl.imgKey p.1 % 2 ^ (8 * p.2) := by
  have e : away.prog.hdr.privateRegions = [(0x1000, 4096), (0x2000, 24576)] := rfl
  have a : away.ctl.img = 0 := rfl
  have m : saved.mem.hbm = image := by unfold saved; dsimp only
  have k : away.ctl.imgKey = 5 := rfl
  intro p h
  simp only [e, List.mem_cons, List.not_mem_nil, or_false] at h
  unfold State.devRd
  rw [m, a, k, Nat.zero_add]
  rcases h with rfl | rfl
  · exact (rdNat_wrNat_apart _ _ _ _ _ _ (.inl (by omega))).trans (private_there _ _ _ _)
  · exact private_there _ _ _ _
/-- An image whose first private region has been written over. -/
theorem image_spoilt : rdNat (wrNat [] 0x1000 4096 (Config.freePrivate 5 0x1000 + 1)) 0x1000 4096 ≠ Config.freePrivate 5 0x1000 % 2 ^ (8 * 4096) := by
  rw [rdNat_wrNat_same, Nat.pow_mul]
  have h (x m : Nat) (k : 2 ≤ m) : (x + 1) % m ≠ x % m := by
    intro h
    have d := (Nat.sub_mod_eq_zero_of_mod_eq h)
    rw [Nat.add_sub_cancel_left, Nat.mod_eq_of_lt k] at d
    exact absurd d (by decide)
  exact h _ _ (Nat.le_trans (by decide : 2 ≤ 256) (Nat.le_self_pow (by decide) 256))
/-- Task `t` bound, in a stopped or a running module, at tick 3000. -/
def timed (t : Task) : State := { bound t with ram := { State.reset.ram with tick := 3000, nextTask := 2 } }
/-- A task of its own group of `n` at the system level, whose arrival has code `a`. -/
def meeting (a : Nat) : Task :=
  { tk with
    id := { tk.id with barn := 0x0002000100010001 }
    ctl := { tk.ctl with arrived := some (3, a) } }
/-- What its member says. -/
def hello (n : Nat) : SysMsg := ⟨0, 0, n, 0, 1, false, 0⟩
/-- A tick in P0, in P1 and in P3, in a stopped module; a task placed on arrays that another has left. -/
theorem witness_SchedulerEvents :
    let s := timed tk
    let p (k : Nat) : State := { s with mod := { s.mod with pstate := k } }
    let t := { tk with ctl := { tk.ctl with running := false, placed := true } }
    s.part.stopped = false ∧ s.mod.pstate = 0 ∧ TasksNumbered s ∧ tk.ctl.ending = false ∧ (p 3).mod.pstate = 3 ∧ (p 1).mod.pstate ≠ 3 ∧
    (p 1).mod.pstate ≠ 0 ∧ ({ s with part := { s.part with stopped := true } } : State).part.stopped = true ∧ TasksNumbered (timed t) ∧
    fget? (timed t).tasks 1 = some t ∧ t.ctl.placed = true ∧ WindowLeft (timed t) t ∧ tk.ctl.placed = false ∧ tk.ctl.bound = true := by
  refine ⟨rfl, rfl, by unfold TasksNumbered; decide, rfl, rfl, by decide, by decide, rfl, by unfold TasksNumbered; decide, rfl, rfl, ?_, rfl, rfl⟩
  intro e h k
  rw [List.mem_singleton.1 h] at k
  exact absurd rfl k
theorem witness_SchedulerEvents_leaves :
    let t := { tk with ctl := { tk.ctl with waiting := .semw 17 } }
    let m : Sem := ⟨2, [(1, 3)]⟩
    let u := { tk with ctl := { tk.ctl with stopReq := true } }
    let v := { u with errs := [⟨.q, true⟩] }
    (At (timed tk) 0 tk ∧ tk.ctl.sliceAt + (timed tk).mod.tslice ≤ (timed tk).ram.tick ∧ tk.ctl.waiting = .none) ∧
    (t.ctl.waiting = .semw 17 ∧ fget? (semmed (timed t)).ctxs 0 = some { (default : Ctx) with sems := [(17, ⟨3, [(1, 3)]⟩)] } ∧
     m.waiters = (1, 3) :: [] ∧ ¬ 3 ≤ m.val ∧ t.ctl.waitFrom + (timed t).mod.bquant ≤ (timed t).ram.tick) ∧
    (At (timed u) 0 u ∧ u.ctl.stopReq = true ∧ Drained u ∧ u.ctl.ending = false ∧ ¬ tk.ctl.stopReq = true ∧ ((timed u).ctx u.id.ctx).ffault = none ∧
     (¬ ((∃ e ∈ u.errs, e.hard = true) ∨ ∃ c ∈ u.cells, ∃ e ∈ c.2.errs, e.hard = true)) ∧ (∃ e ∈ v.errs, e.hard = true)) :=
  ⟨⟨⟨rfl, rfl⟩, by decide, rfl⟩, ⟨rfl, rfl, rfl, by decide, by decide⟩,
   ⟨⟨rfl, rfl⟩, rfl, ⟨rfl, rfl, rfl, fun _ h => (nomatch h), fun _ h => (nomatch h)⟩, rfl, by decide, rfl,
    by rintro (⟨_, h, _⟩ | ⟨_, h, _⟩) <;> exact (nomatch h), ⟨_, List.mem_singleton_self _, rfl⟩⟩⟩
theorem witness_SchedulerEvents_resumes :
    fget? saved.tasks 1 = some away ∧ 1 = away.id.uid ∧ away.ctl.bound = true ∧ away.ctl.running = false ∧ away.ctl.placed = false ∧
    away.ctl.halted = false ∧ (saved.ctx 0).ffault = none ∧ WindowLeft saved away ∧ ¬ WindowLeft (timed tk) { away with id := { tk.id with uid := 2 } , prog := tk.prog } ∧
    (let s : State := { saved with mem := { saved.mem with poison := [(0, 1)] } }
     64 * 0 < away.ctl.img + away.prog.hdr.imageSize ∧ away.ctl.img < 64 * 0 + 64 ∧ ∃ e ∈ s.mem.poison, e.1 = 0 ∧ e.2 ≠ 0) ∧
    (saved.mem.poison = [] ∧ saved.mem.err = []) ∧ (0x1000, 4096) ∈ away.prog.hdr.privateRegions ∧
    (∀ p ∈ away.prog.hdr.privateRegions, saved.devRd (away.ctl.img + p.1) p.2 = Config.freePrivate away.ctl.imgKey p.1 % 2 ^ (8 * p.2)) := by
  refine ⟨rfl, rfl, rfl, rfl, rfl, rfl, rfl, ?_, ?_, ⟨by decide, by decide, _, List.mem_singleton_self _, rfl, by decide⟩, ⟨rfl, rfl⟩, by decide, image_there⟩
  · intro e h k; rw [List.mem_singleton.1 h] at k; exact absurd rfl k
  · intro h; exact absurd (h _ (List.mem_singleton_self _) (by decide) rfl rfl) (by decide)
/-- A running LEVEL-3 `agt` of two participants, of which this one has rank 0, and what it says to its home. -/
def meetCmd (acks : List Nat) : Cmd := { gathering 2 3 with acks := acks }
def call (n : Nat) : SysMsg := ⟨0, (world tk [meetCmd []]).sysKey (meetCmd []), n, 0, 7, true, 5⟩
/-- The first of two members arrives, a second of the same count, one of another; what the home has said is heard. -/
theorem witness_SchedulerEvents_homes :
    let s := timed (meeting 0)
    let half (x : State) (coll : Nat) (grp : Nat) : State := { x with ram := { x.ram with sysGroups := [⟨0, grp, 1, 2, coll, 0⟩] } }
    (((({ timed tk with ctxs := [(0, { (default : Ctx) with live := true, ffault := some (default : FaultRec) })] } : State).ctx 0).ffault = some default) ∧
     ((timed tk).ctx 0).ffault = none) ∧
    ((hello 2).coll = false ∧ (hello 2).module = s.mod.modid ∧ s.sysTask (hello 2) = some (meeting 0) ∧
     (meeting 0).ctl.arrived = some (3, 0) ∧ (s.ctx 0).shome = s.mod.modid ∧ (hello 2).count = ((meeting 0).id.barn.extractLsb' 48 16).toNat ∧
     (hello 3).count ≠ ((meeting 0).id.barn.extractLsb' 48 16).toNat ∧ ((homeGroup s (hello 2)).arrived = 0 ∧ ¬ (hello 2).count ≤ 0 + 1) ∧
     ((homeGroup (half s 0 0) (hello 2)).arrived = 1 ∧ (homeGroup (half s 0 0) (hello 2)).need = 2 ∧ (hello 2).count ≤ 1 + 1) ∧
     hello 2 ∈ [hello 2] ∧ s.ram.sysDone = [] ∧ (hello 0).count = 0) ∧
    (let x := world tk [meetCmd []]
     (call 2).coll = true ∧ (call 2).module = x.mod.modid ∧ x.sysCmd (call 2) = some (meetCmd []) ∧ (meetCmd []).acks = [] ∧ (x.ctx 0).shome = x.mod.modid ∧
     (call 2).count = bitsOf (meetCmd []) 3 16 16 ∧ (homeGroup x (call 2)).arrived = 0 ∧ (homeGroup (half x 1 (call 2).group) (call 2)).arrived = 1 ∧
     call 2 ∈ [call 2] ∧ (call 2).count ≠ 0 ∧ (call 0).count = 0 ∧ (meetCmd [1]).acks ≠ []) := by decide +kernel

/-- A port that is up, and the world with it. -/
def up : LinkPort := { (default : LinkPort) with state := 2, inbox := [], kept := [⟨4, true, false, default⟩] }
def linked (q : LinkPort) : State := { shelved [] with ports := [(0, q)] }
/-- An access of context 5 of module 3 to offset `off` of buffer 0. -/
def far (fromCtx off : Nat) : LinkAccess :=
  { (default : LinkAccess) with id := 1, fromModule := 3, fromCtx := fromCtx, off := off, len := 8 }
/-- The kind of the error that its check at the remote port finds. -/
def farErr (off : Nat) (write : Bool) : Option Nat := ((linked up).portErr (24 + 64 * 3 + 5) 0 0 off 8 write).map (·.kind)
/-- Whether the entry is there for the accesses of a context. -/
def farOwned (fromCtx : Nat) : Bool :=
  let e := (linked up).bufEntry 0 0
  (linked up).feat 1 && ((linked up).ctx 0).live && e.valid && !e.imp && !e.remote && bitAt e.expmask fromCtx && bitAt e.pg 2 &&
  ((linked up).ctx 0).sdom == 0
theorem fars : [farErr 0 false, farErr 0 true, farErr 0x10000 false] = [none, none, some 5] ∧ farOwned 5 = true ∧ farOwned 4 = false := by
  decide +kernel
/-- Whether a migration of a page of a buffer is marked in its page table; whether one may start. -/
def marked (k p : Nat) : Bool := let x := (shelved []).freshPte ((shelved []).bufEntry 0 k) p; x.testBit 63 && x.testBit 60
theorem marks : marked 1 0 = true ∧ marked 0 0 = false ∧ (shelved []).migRefused 0 ⟨0, 0, 7, 2 ^ 63 + 1⟩ = false := by decide +kernel
/-- A copy of 100 bytes by function 0 that has begun. -/
def copyFn (ctl dev : Nat) : FnBlock :=
  { FnBlock.init with extBase := 0x100000, extLim := 0x200000, dcctl := ctl, dcst := 1, dcrun := [0, dev, 100] }
/-- A flit with the number expected, with a bad CRC, and out of sequence, of an access for this module and for another, in P0 and in P2; a replay from a
flit that is kept, and the eighth of it. -/
theorem witness_LinkAndMemoryEvents :
    let on (x : State) : Prop := 0 < 18 ∧ (portOf x 0).state = 2 ∧ x.part.stopped = false ∧ x.mod.pstate ≤ 2
    let deep : State := { linked up with mod := { (linked up).mod with pstate := 2 } }
    let f (seq : Nat) (crc answer : Bool) (dest : Nat) : Flit := ⟨seq, crc, answer, { far 5 0 with toModule := dest }⟩
    let q (again : Nat) : LinkPort := { up with againSeq := 4, again := again }
    on (linked up) ∧ (linked up).mod.pstate < 2 ∧ on deep ∧ deep.mod.pstate = 2 ∧ ¬ on (shelved []) ∧ (f 0 false false 0).crcOk = false ∧
    (f 0 true false 0).crcOk = true ∧ (f 0 true false 0).seq = (portOf (linked up) 0).rxSeq ∧ (f 1 true false 0).seq ≠ (portOf (linked up) 0).rxSeq ∧
    (f 0 true false 0).access.toModule = (linked up).mod.modid ∧ (f 0 true false 2).access.toModule ≠ (linked up).mod.modid ∧
    (f 0 true true 0).access.fromModule ≠ (linked up).mod.modid ∧ ({ far 5 0 with fromModule := 0 } : LinkAccess).fromModule = (linked up).mod.modid ∧
    (portOf (linked up) 0).kept = [] ++ ⟨4, true, false, default⟩ :: [] ∧ (∀ g ∈ ([] : List Flit), g.seq ≠ 4) ∧
    (if (q 6).againSeq = 4 then (q 6).again + 1 else 1) < 8 ∧ 8 ≤ (if (q 7).againSeq = 4 then (q 7).again + 1 else 1) ∧
    ¬ (∃ f ∈ (portOf (linked up) 0).kept, f.seq = 5) :=
  ⟨⟨by decide, rfl, rfl, by decide⟩, by decide, ⟨by decide, rfl, rfl, by decide⟩, rfl, fun h => absurd h.2.1 (by decide), rfl, rfl, rfl, by decide, rfl, by decide,
   by decide, rfl, rfl, (fun _ h => nomatch h), by decide, by decide, by rintro ⟨_, h, k⟩; rw [List.mem_singleton.1 h] at k; exact absurd k (by decide)⟩
theorem witness_LinkAndMemoryEvents_timeOuts :
    let c := { local_ with ctx := 0 }
    let o (at_ : Nat) : Outstanding := ⟨{ far 5 0 with toModule := 3 }, 7, 0, none, at_, false⟩
    let s (at_ : Nat) (cs : List Cmd) : State := { world tk cs with out := [o at_], ram := { State.reset.ram with tick := 10000 } }
    let m : Task := meeting 0
    let x (home : Nat) : State := { bound m with ctxs := [(0, { (default : Ctx) with live := true, shome := home })] }
    (s 0 [c]).out.find? (fun o => o.access.id == 1) = some (o 0) ∧ command (s 0 [c]) 7 = some c ∧ command (s 0 []) 7 = none ∧ ((s 0 [c]).ctx 0).ffault = none ∧
    (o 0).answer = none ∧ (o 0).access.toModule ≠ (s 0 [c]).mod.modid ∧ (o 0).sentAt + 10000 ≤ (s 0 [c]).ram.tick ∧ ¬ (o 1).sentAt + 10000 ≤ (s 1 [c]).ram.tick ∧
    fget? (x 2).tasks 1 = some m ∧ ((x 2).ctx 0).ffault = none ∧ m.ctl.arrived = some (3, 0) ∧ ((x 2).ctx 0).shome ≠ (x 2).mod.modid ∧
    ¬ ((x 0).ctx 0).shome ≠ (x 0).mod.modid :=
  ⟨rfl, rfl, rfl, rfl, rfl, by decide, by decide, by decide, rfl, rfl, rfl, by decide, by decide⟩
/-- Accesses of one part and of two, the first that fails, one that is not owned, one with a share; one to this module that waits here. -/
theorem witness_LinkAndMemoryEvents_remote :
    let x (a : LinkAccess) : State := linked { up with inbox := [a] }
    let p (off : Nat) : LinkPart := ⟨0, off, 8, 7⟩
    let a := far 5 0
    let b (off : Nat) : LinkAccess := { a with parts := [p 0, p off], write := true }
    let h : LinkAccess := { a with share := some ⟨0, 0, 5, 3, 0, 1, [], [9]⟩ }
    let o : Outstanding := ⟨{ a with fromModule := 0 }, 7, 0, none, 0, false⟩
    let y : State := { linked up with out := [o] }
    (x a).part.stopped = false ∧ (portOf (x a) 0).inbox.head? = some a ∧ a.amo = 0 ∧ a.parts = [] ∧ a.share = none ∧ (∃ k, h.share = some k) ∧
    (b 8).parts ≠ [] ∧ (b 8).write = true ∧ (∀ q ∈ (b 8).parts, q.kind = 0) ∧ (b 0x10000).parts = [p 0] ++ p 0x10000 :: [] ∧
    [farErr 0 false, farErr 0 true, farErr 0x10000 false] = [none, none, some 5] ∧ farOwned 5 = true ∧ farOwned 4 = false ∧
    (∀ p < 18, (portOf y p).inbox.head? ≠ some o.access) ∧ y.out.find? (fun o => o.access.toModule == y.mod.modid && o.answer.isNone) = some o ∧
    ¬ (∀ o ∈ y.out, o.access.toModule = y.mod.modid → o.answer ≠ none) :=
  ⟨rfl, rfl, rfl, rfl, rfl, ⟨_, rfl⟩, by decide, rfl, by decide, rfl, fars.1, fars.2.1, fars.2.2, by decide, rfl,
   fun h => absurd rfl (h _ (List.mem_singleton_self _) rfl)⟩
theorem witness_LinkAndMemoryEvents_memory :
    let at_ (e : Nat) : State := { linked up with mem := { (linked up).mem with err := [(0, e)] } }
    let mig (k passes copies : Nat) : Migration := ⟨k, 0, 7, passes, copies⟩
    let moving (g : Migration) : State := { shelved [] with ctxs := [(0, { (shelved []).ctx 0 with migs := [g] })] }
    let c (ctl dev : Nat) : State := { shelved [] with fns := [(0, copyFn ctl dev)] }
    let k (next : Option (Nat × Nat)) (skip : Nat) : Ctx := { (shelved []).ctx 0 with inval := [3], btnext := next, btskip := skip, btdone := [0, 1, 2] }
    ((linked up).mod.bootstat = 5 ∧ (linked up).mod.pstate < 2 ∧ (fget (linked up).scrub default 0).nextBurst < 2 ^ 30 ∧
     fget (at_ 2).mem.err 0 (scrubbed (at_ 2) 0) = 2 ∧ fget (at_ 3).mem.err 0 (scrubbed (at_ 3) 0) = 3) ∧
    (((moving (mig 1 1 1024)).ctx 0).migs = [mig 1 1 1024] ∧ ((shelved []).ctx 0).migs = [] ∧ marked 1 0 = true ∧ marked 0 0 = false ∧
     (mig 1 1 1024).passes * (2 ^ 16 / 64) ≤ (mig 1 1 1024).copies ∧ ¬ (mig 1 1 1023).passes * (2 ^ 16 / 64) ≤ (mig 1 1 1023).copies) ∧
    ((k none 0).inval = 3 :: [] ∧ 3 / 2 ^ 43 % 2 ^ 21 = 0 ∧ (2 ^ 43 + 3) / 2 ^ 43 % 2 ^ 21 ≠ 0 ∧ (k none 0).btnext = none ∧ (k (some (0, 1)) 2).btnext ≠ none ∧
     0 < (k (some (0, 1)) 2).btskip ∧ (k (some (0, 1)) 0).btskip = 0 ∧ (∀ i < (k none 0).btcount, i ∈ 3 :: (k none 0).btdone) ∧
     ¬ ∀ i < (k none 0).btcount, i ∈ ([3] : List Nat)) ∧
    ((fget (c 5 0x100000).fns FnBlock.init 0).dcst % 4 = 1 ∧ (copyFn 5 0).dcctl / 4 % 4 = 1 ∧ (copyFn 5 0).dcctl / 2 % 2 = 0 ∧
     (copyFn 7 0).dcctl / 2 % 2 = 1 ∧ (c 5 0).mem.err = [] ∧ (c 5 0).mem.poison = [] ∧ ((copyFn 5 0x100000).extBase ≤ copyAt (copyFn 5 0x100000) ∧
      copyAt (copyFn 5 0x1FFF9C) + copyLen (copyFn 5 0x1FFF9C) ≤ (copyFn 5 0).extLim) ∧
     0 + 0 + copyPiece (copyFn 5 0) ≤ 2 ^ 64 ∧
     ¬ copyAt (copyFn 5 0x1FFF9D) + copyLen (copyFn 5 0x1FFF9D) ≤ (copyFn 5 0).extLim) :=
  ⟨⟨rfl, by decide, by decide, rfl, rfl⟩, ⟨rfl, rfl, marks.1, marks.2.1, by decide, by decide⟩,
   ⟨rfl, by decide, by decide, rfl, by decide, by decide, rfl, by decide, by decide⟩, ⟨rfl, rfl, rfl, rfl, rfl, rfl, by decide, by decide, by decide⟩⟩

/-- Writes by the owner host, and by a host through function 1. -/
def owner : Req := ⟨0, 7⟩
def other : Req := ⟨1, 7⟩
/-- A queue of four records with two outstanding. -/
def qu : Queue := { (default : Queue) with log2n := 2, tail := 3, cmpl := 1 }
/-- A descriptor of queue 2, and one of context 1: its table and save area in the extent of function 0. -/
def qd : Quad := ⟨256, 2 * 2 ^ 40 + 2 * 2 ^ 16, 4, 0⟩
def cd (table : Nat) : Quad := ⟨table, 48 * 2 ^ 32 + 16, 0, 0x110000⟩
/-- Two megabytes of the second die, on boundaries of the steps of a partition. -/
def pt (lim : Nat) : Part := ⟨0x40000, lim, 0, 2 ^ 25⟩
theorem witness_ContextBlockWrites :
    let s := shelved [{ local_ with st := .faulted }]
    let names (v : Nat) (z : Cmd) : Bool := z.ctx == 0 && z.head == v % 64 && z.slot == v / 64 % 64
    blockWrite (.invalidate owner 0 1) = some (owner, 0, 0x40) ∧ blockThere s owner 0 ∧ ¬ blockThere s owner 64 ∧ mayWrite s owner 0 ∧
    mayWrite s owner 63 ∧ ¬ mayWrite s other 0 ∧ byOwner s owner ∧
    (let room (v : Word) : Prop := (v - qu.cmpl).toNat ≤ 2 ^ qu.log2n ∧ (v - qu.tail).toNat ≤ (v - qu.cmpl).toNat
     room 5 ∧ room 3 ∧ ¬ room 6 ∧ ¬ room 2) ∧
    (let fits (q : Nat) : Prop := (s.ctx 0).live = true ∧ qd.d0 % 256 = 0 ∧ qd.d1 / 2 ^ 16 % 2 ^ 8 ≤ 12 ∧ qd.d1 / 2 ^ 32 % 2 ^ 8 ≤ 23 ∧
      qd.d1 / 2 ^ 40 % 2 ^ 8 = q ∧ q < 64
     fits 2 ∧ ¬ fits 3 ∧ fget? (s.ctx 0).queues 2 = none ∧ (BitVec.ofNat 32 qd.d2).toNat ≤ 2 ^ (qd.d1 / 2 ^ 16 % 2 ^ 8)) ∧
    (let f := fget s.fns FnBlock.init 0
     let limits (d : Quad) : Prop := d.d0 % 4096 = 0 ∧ 1 ≤ d.d1 % 2 ^ 16 ∧ d.d1 % 2 ^ 16 ≤ 4096 ∧ 1 ≤ d.d1 / 2 ^ 32 % 2 ^ 8 ∧
      d.d1 / 2 ^ 32 % 2 ^ 8 ≤ 48 ∧ d.d2 % 2 ^ 8 ≤ 3 ∧ d.d2 / 2 ^ 8 % 2 ^ 8 ≤ 23 ∧ d.d2 / 2 ^ 16 % 2 ^ 8 ≤ 13 ∧ d.d3 % 4096 = 0
     let placed (d : Quad) : Prop := f.extBase ≤ d.d0 ∧ d.d0 + 256 * (d.d1 % 2 ^ 16) ≤ f.extLim ∧ f.extBase ≤ d.d3 ∧ d.d3 + 4096 ≤ f.extLim
     (s.ctx 1).live = false ∧ limits (cd 0x1FF000) ∧ placed (cd 0x1FF000) ∧ limits (cd 0x200000) ∧ ¬ placed (cd 0x200000) ∧ ¬ limits (cd 0x1FF800)) ∧
    (s.mod.featgo = true ∧ s.mod.bootstat = 5 ∧ s.part.stopped = false ∧ (s.ctx 0).live = true) ∧
    ((2 ^ 63 + 1).testBit 63 = true ∧ Nat.testBit 1 63 = false ∧ (s.ctx 0).migs = [] ∧
     (shelved []).migRefused 0 ⟨0, 0, 7, 2 ^ 63 + 1⟩ = false) ∧
    (Nat.testBit 64 63 = false ∧ 64 / 64 % 64 ≠ 63 ∧ (2 ^ 63 + 64).testBit 63 = true ∧ (2 ^ 63 + 64) / 64 % 64 ≠ 63 ∧
     (∃ z ∈ s.eng.cmds, names (2 ^ 63 + 64) z = true ∧ z.st = .faulted) ∧ ∀ z ∈ s.eng.cmds, names (2 ^ 63 + 128) z = true → z.st ≠ .faulted) ∧
    (s.taskAt 0 = some tk ∧ tk.id.ctx = 0 ∧ tk.ctl.ending = false ∧ tk.ctl.halted = false ∧ ((semmed s).ctx 0).attach = false ∧
     ({ s with ctxs := [(0, { (default : Ctx) with attach := true })] } : State).taskAt 0 = some tk) ∧
    (s.partOk 0 1 (pt 0x80000) = true ∧ s.partOk 0 1 (pt 0x80001) = false ∧ (s.partOf 0 1).ssbase ≤ (s.partOf 0 1).sslim ∧
     (s.partOf 0 1).wsbase ≤ (s.partOf 0 1).wslim) := by
  refine ⟨rfl, ?_, ?_, .inl ⟨rfl, rfl, rfl⟩, .inl ⟨rfl, rfl, rfl⟩, ?_, ⟨rfl, rfl, rfl⟩, by decide, by decide, by decide, ⟨rfl, rfl, rfl, rfl⟩,
    ⟨by decide, by decide, rfl, marks.2.2⟩, ⟨by decide, by decide, by decide, by decide, ⟨_, List.mem_singleton_self _, rfl, rfl⟩, ?_⟩,
    ⟨rfl, rfl, rfl, rfl, rfl, rfl⟩, by decide +kernel⟩
  · exact ⟨by decide, by decide, by decide⟩
  · exact fun h => absurd h.1 (by decide)
  · rintro (h | h)
    · exact absurd h.1 (by decide)
    · exact absurd h (by decide)
  · intro z hz
    rw [List.mem_singleton.1 hz]
    intro h
    exact absurd h (by decide)

theorem witness_FunctionAndModuleWrites :
    let s := shelved []
    let b (st : Nat) : FnBlock := { FnBlock.init with dcst := st }
    let reserved (ctl : Nat) : Prop :=
      ∃ n, ctl.testBit n = true ∧ n ∉ [0, 1, 2, 3, 8, 9, 10, 11, 12, 13, 16, 17, 18, 19, 20, 21, 22, 23, 24, 25, 26, 27]
    owner.fn = 0 ∧ other.fn ≠ 0 ∧ s.mod.pstate ≠ 3 ∧ byOwner s owner ∧ ¬ byOwner s ⟨0, 8⟩ ∧ s.extentOk 1 0x200000 0x300000 = true ∧
    s.extentOk 1 0x1FF000 0x300000 = false ∧ (fget s.fns FnBlock.init 0).extBase ≤ (fget s.fns FnBlock.init 0).extLim ∧
    (owner.fn < 32 ∧ (b 2).dcst % 4 ≠ 1 ∧ (b 1).dcst % 4 = 1 ∧ ¬ reserved 0 ∧ reserved 16 ∧ Nat.testBit 5 0 = true ∧ Nat.testBit 4 0 = false) ∧
    (rangedRegister s.mod 0x1058 60 = some (1, 60, { s.mod with lease := 60 }) ∧ rangedRegister s.mod 0x1058 61 = some (1, 60, { s.mod with lease := 61 }) ∧
     0x1000 ≤ 0x1058 ∧ 0x1058 < 0x10000) ∧ (0x1218 < 0x10000 ∧ (17 ≤ 17 ∨ 17 = 0xFF)) := by
  refine ⟨rfl, by decide, by decide, ⟨rfl, rfl, rfl⟩, ?_, by decide, by decide, by decide, ⟨by decide, by decide, by decide, ?_, ?_, rfl, rfl⟩,
    ⟨rfl, rfl, by decide, by decide⟩, by decide, .inl (by decide)⟩
  · rintro ⟨_, _, h⟩; exact absurd h (by decide)
  · rintro ⟨n, h, _⟩; simp at h
  · exact ⟨4, by decide, by decide⟩

/-- A live context whose table and save area lie in the extent of function 0, and the tables that its host writes for it then. -/
theorem witness_ContextBlockWrites_live :
    let s0 := shelved []
    let c : Ctx := { s0.ctx 0 with maxarr := 1, savebase := 0x110000 }
    let s : State := { s0 with ctxs := [(0, c)] }
    let f := fget s.fns FnBlock.init c.fn
    let limits (d : Quad) : Prop := d.d0 % 4096 = 0 ∧ 1 ≤ d.d1 % 2 ^ 16 ∧ d.d1 % 2 ^ 16 ≤ 4096
    let placed (d : Quad) : Prop := f.extBase ≤ d.d0 ∧ d.d0 + 256 * (d.d1 % 2 ^ 16) ≤ f.extLim ∧ f.extBase ≤ c.savebase ∧ c.savebase + 4096 ≤ f.extLim
    let d (a n : Nat) : Quad := ⟨a, n, 0, 0⟩
    byOwner s owner ∧ s.ctx 0 = c ∧ c.live = true ∧ (c.btbase < 2 ^ 64 ∧ c.btcount < 2 ^ 16 ∧ c.fn < 32 ∧ c.pcap < 4 ∧ c.xflags < 8 ∧ c.sdom < 2 ^ 16 ∧
      c.shome < 2 ^ 19 ∧ c.savebase < 2 ^ 64 ∧ c.savebase % 4096 = 0 ∧ 1 ≤ c.maxarr ∧ c.maxarr ≤ 48 ∧ c.imode ≤ 3 ∧ c.idie ≤ 23 ∧ c.igran ≤ 13) ∧
    limits (d 0x1FF000 16) ∧ placed (d 0x1FF000 16) ∧ limits (d 0x1FF000 17) ∧ ¬ placed (d 0x1FF000 17) ∧ ¬ limits (d 0x1FF000 0) ∧
    Nat.testBit (63 * 64) 63 = false ∧ 63 * 64 / 64 % 64 = 63 :=
  ⟨⟨rfl, rfl, rfl⟩, rfl, rfl, by decide, by decide, by decide, by decide, by decide, by decide, by decide, by decide⟩
theorem witness_FunctionAndModuleWrites_others :
    0 < other.fn ∧ other.fn < 32 ∧ (shelved []).mod.pstate ≠ 3 ∧ 5 < 64 ∧ (∃ c, (0, c) ∈ (shelved []).ctxs ∧ c.fn = 0) ∧
    ¬ ∃ c, (5, c) ∈ (shelved []).ctxs ∧ c.fn = 0 :=
  ⟨by decide, by decide, by decide, by decide, ⟨_, List.mem_singleton_self _, rfl⟩, by rintro ⟨c, h, _⟩; simp [shelved] at h⟩
/-- A `call` when the carve-out is full, and the `ret` that follows: the frame lies in the task's half of buffer 0. -/
theorem witness_CallsAndReturnsMatch_overflow :
    let h := { hdr with stkbuf := 0 }
    let t (ovp : Nat) : Task := { tk with
      id := { tk.id with setsize := 2, idx := 1 }
      prog := { tk.prog with hdr := h }
      ctl := { tk.ctl with sp := 16, ovp := ovp } }
    let s (ovp : Nat) : State := { shelved [] with t := t ovp, phase := .commit, iss := { (default : Issue) with t0 := t ovp } }
    Performed (s 0) 15 0 ∧ (t 0).prog.hdr.stack ≤ (t 0).ctl.sp ∧ (t 0).prog.hdr.stkbuf ≠ 0xFFFF ∧ (t 0).ctl.ovp + 8 ≤ overflowRegion (s 0) (t 0) ∧
    (s 8).iss.sstA = none ∧ (s 8).t = (s 8).iss.t0 ∧ 0 < (t 8).ctl.ovp :=
  ⟨⟨rfl, rfl⟩, by decide, by decide, by decide +kernel, rfl, rfl, by decide⟩

/-- The module with block `m` and nothing bound. -/
def moded (m : ModRegs) : State := { State.reset with mod := m }
/-- Owned by host 7, up, at power state `p`, its links quiet, with LTOL `l`. -/
def mo (p l : Nat) : ModRegs :=
  { ModRegs.reset with ownerValid := true, owner := 7, bootstat := 5, pstate := p, ltol := l, featneg := 0xFF }
theorem witness_ModuleEvents :
    (let s (p l tick : Nat) : State := { moded (mo p l) with ram := { State.reset.ram with tick := tick } }
     let free := { s 0 0 0 with mod := { mo 0 0 with ownerValid := false } }
     moduleWrite (.beat owner) = some (owner, 0x1060) ∧ other.fn ≠ 0 ∧ ¬ byOwner free owner ∧ byOwner (s 0 0 0) owner ∧ (s 0 0 0).mod.pstate ≠ 3 ∧
     (s 3 0 0).mod.pstate = 3 ∧
     (owner.fn = 0 ∧ free.mod.pstate ≠ 3 ∧ free.mod.bootstat = 5 ∧ free.mod.ownerValid = false) ∧
     ((s 0 0 10000000).mod.ownerValid = true ∧ (s 0 0 10000000).mod.beat + (s 0 0 0).mod.lease * 1000000 ≤ (s 0 0 10000000).ram.tick) ∧
     (mo 0 0).attbusy = false ∧ ({ mo 0 0 with attbusy := true } : ModRegs).attbusy = true ∧
     (let m := { mo 0 0 with idset := true, porten := 1 }
      m.idset = true ∧ m.porten.testBit 0 = true ∧ (portOf (moded m) 0).state ≠ 2 ∧ (portOf (linked up) 0).state = 2) ∧
     Idle (s 0 40 1000) ∧ DeepIdle (s 0 40 1000) ∧ ¬ DeepIdle (s 0 39 1000) ∧ 2 ≤ (s 0 39 1000).mod.ltol ∧ ¬ Idle (bound tk) ∧
     (s 0 0 0).part.stopped = false) := by
  refine ⟨rfl, by decide, ?_, ⟨rfl, rfl, rfl⟩, by decide, rfl, ⟨rfl, by decide, rfl, rfl⟩, ⟨rfl, by decide⟩, rfl, rfl, ⟨rfl, rfl, by decide, rfl⟩,
    ⟨fun _ h => (nomatch h), rfl⟩, ⟨⟨fun _ h => (nomatch h), rfl⟩, fun _ h => (nomatch h), by decide, by decide, by decide⟩, ?_, by decide, ?_, rfl⟩
  · rintro ⟨_, h, _⟩; exact absurd h (by decide)
  · rintro ⟨_, _, _, _, h⟩; exact absurd h (by decide)
  · rintro ⟨h, _⟩; exact absurd (h _ (List.mem_singleton_self _)) (by decide)

/-- A module at each step of its bring-up, after a self-test that found nothing and one that found a die. -/
theorem witness_ModuleEvents_bringUp :
    let s (n : Nat) : State := moded { ModRegs.reset with bootstat := n }
    let b (fresh : Bool) (bist : Nat) : BootResult := { (default : BootResult) with fresh := fresh, bist := bist, hbmOk := true, meshOk := true }
    (b true 0).fresh = true ∧ (b false 0).fresh = false ∧ (b false 0).bist % 2 ^ 24 = 0 ∧ (b false 1).bist % 2 ^ 24 ≠ 0 ∧
    (∀ n ≤ 4, (s n).mod.bootstat = n) ∧ (b false 0).meshOk = true ∧ (b false 0).hbmOk = true ∧
    ({ b false 0 with meshOk := false } : BootResult).meshOk = false ∧ ({ b false 0 with hbmOk := false } : BootResult).hbmOk = false ∧
    (4 < (s 5).mod.bootstat ∧ (s 0).mod.bootstat = 0) := ⟨rfl, rfl, rfl, by decide, fun _ _ => rfl, rfl, rfl, rfl, rfl, by decide, rfl⟩
/-- P1 with the exit begun, a module that has stopped, and one that runs. -/
theorem witness_ModuleEvents_power :
    let m (p : Nat) (w : Bool) : State := moded { mo p 40 with waking := w }
    ((m 1 true).mod.pstate = 1 ∧ (m 1 true).mod.waking = true ∧ (m 0 true).mod.waking = true ∧ (m 0 false).mod.waking = false) ∧
    ({ m 0 false with part := { (m 0 false).part with stopped := true } } : State).part.stopped = true ∧ (m 0 false).part.stopped = false ∧
    0xBB ≠ 0xBE := ⟨⟨rfl, rfl, rfl, rfl⟩, rfl, rfl, by decide⟩

/-- A step from a state with the forms, and one that ends in a fault. -/
theorem witness_EveryStepKeepsTheForms :
    let s := { State.reset with script := [.event .schedule] }
    s.MemOk ∧ s.FeatOk ∧ s.RangesOk ∧ step s = .next (got (step s)) :=
  ⟨⟨rfl, rfl, rfl, rfl⟩, by unfold State.FeatOk; decide, by unfold State.RangesOk; decide, next_got (by decide +kernel)⟩
/-- `add` (R163: op 0x01) in slot SA stands in its own bits. -/
theorem witness_DecodeOfEncode :
    let i : Instr := .add .sa ⟨63, 1, 2, 14, 1, 0⟩
    i.wf = true ∧ isEvent i = false ∧ (encode i).isSome = true ∧ encode i = some (.sa, 2 ^ 40 + 63 * 2 ^ 34 + 1 * 2 ^ 28 + 2 * 2 ^ 22 + 14 * 2 ^ 18 + 2 ^ 17) := ⟨rfl, rfl, rfl, by decide⟩

/-! ## Witnesses: clauses about the access of SA, and conditions at issue -/

/-- A handler's last bundle, `eret`, whose `$epc` lies in the code, and one whose does not. -/
theorem witness_ClosingABundle_eret :
    let s (epc : DWord) : State :=
      let o := at_ .commit { tk with sys := { tk.sys with tm := true, epc := epc } }
      { o with iss := { o.iss with eret := true } }
    let d (epc : DWord) : Task := ({ s epc with iss := { (s epc).iss with eret := false } } : State).closeIssue.t
    (s 7).iss.after = none ∧ (s 7).iss.eret = true ∧ (d 7).sys.epc.toNat < (d 7).prog.hdr.codesz ∧ (d 8).prog.hdr.codesz ≤ (d 8).sys.epc.toNat := by
  decide +kernel
/-- A bundle whose SA access has been made with its arrival, and one of another address. -/
theorem witness_arrivedValue :
    let s (a : Nat) : State := at_ .commit { tk with ctl := { tk.ctl with own := some ⟨a, false, 9⟩ } }
    arrivedValue (s 0) .sa = some 9 ∧ arrivedValue (s 0) .sb = none ∧ arrivedValue (s 1) .sa = none ∧ arrivedValue (at_ .commit tk) .sa = none :=
  ⟨rfl, rfl, rfl, rfl⟩
/-- A bundle whose SA holds a load that has not performed (for `acq`, `eret` and `bar`). -/
theorem witness_saLoad :
    let p : PStore := ⟨0, 0, 0, 56, 8, 1, 0, some 4, false, false⟩
    let s (ph : Phase) : State := { at_ ph (accessing p) with iss := { (at_ ph (accessing p)).iss with sstA := some p } }
    (s .commit).iss.sstA = some p ∧ p.ld ≠ none ∧ p.size ≤ 8 ∧ (∃ x ∈ (s .commit).t.pstores, x.ld = p.ld) ∧ soundAt (s .commit) tk.die 56 8 ∧
    (s .wait).phase = .wait ∧ (s .wait).iss.stall = false ∧ SaHeldBack (s .wait) ∧ ReadOutstanding (s .wait).t :=
  ⟨rfl, by decide, by decide, ⟨_, List.mem_singleton_self _, rfl⟩, (fun _ h => nomatch h), rfl, rfl,
   ⟨_, rfl, by decide, .inl ⟨_, List.mem_singleton_self _, .inl rfl⟩⟩, .inl ⟨_, List.mem_singleton_self _, by decide⟩⟩
/-- A ring that owes a publication, and a ring that does not while another does. -/
theorem witness_RingOperations_owed :
    let t (k : Nat) : Task := { ringed 4 with pubs := [⟨k, true, 0⟩] }
    (∃ u ∈ (t 2).pubs, u.ring = 2 % 32) ∧ Settled (t 3) ∧ (∀ u ∈ (t 3).pubs, u.ring ≠ 2 % 32) ∧
    StillToPerform { tk with pstores := [⟨0, 0, 0, 56, 8, 15, 5, none, false, false⟩] } (2 ^ 16 - 1) :=
  ⟨⟨_, List.mem_singleton_self _, rfl⟩, ⟨rfl, fun _ h => nomatch h⟩, by decide, .inl ⟨_, List.mem_singleton_self _, by decide⟩⟩
/-- A record at 256 of a partition of 512 bytes, one past it, one misaligned; a word of the record with an uncorrectable error. -/
theorem witness_LaunchTrigAndDone_record :
    let s (o : DWord) : State := { at_ .check { tk with r := { tk.r with s := [(1, o)] } } with parts := [(0, ⟨0, 512, 0, 0⟩)] }
    let bad : State := { at_ .commit tk with mem := { (at_ .commit tk).mem with sramErr := [(31, 2)] } }
    let o (x : DWord) : Nat := ((s x).iss.t0.sReg 1).toNat
    let inside (x : DWord) : Prop := (let p := (s x).partOf (s x).iss.t0.id.ctx (s x).iss.t0.die; p.ssbase ≤ o x ∧ o x + 256 ≤ p.sslim)
    (s 256).iss.sstA = none ∧ ((s 256).iss.t0.qReg 15 ^^ decide (0 = 1)) = true ∧ (s 256).phase = .check ∧ (o 256 % 256 = 0 ∧ inside 256) ∧
    o 8 % 256 ≠ 0 ∧ (o 512 % 256 = 0 ∧ ¬ inside 512) ∧
    (∃ x ∈ bad.mem.sramErr, x.2 = 2 ∧ tk.die * 2 ^ 27 + 0 < 8 * x.1 + 8 ∧ 8 * x.1 < tk.die * 2 ^ 27 + 0 + 256) ∧ soundAt (at_ .commit tk) tk.die 0 256 :=
  ⟨rfl, rfl, rfl, by decide, by decide, by decide, ⟨_, List.mem_singleton_self _, by decide⟩, fun _ h => nomatch h⟩
/-- The first arrival of two, with a store of SA in its bundle, in a group of the module and at the system level. -/
theorem witness_BarriersCountArrivals_own :
    let p : PStore := ⟨0, 0, 0, 56, 8, 1, 5, none, false, false⟩
    let t : Task := { barred 2 with id := { (barred 2).id with barn := 0x0002000200020002 } }
    let s : State := { at_ .wait t with iss := { (at_ .wait t).iss with sstA := some p } }
    let G (k : Nat) : Nat := (s.t.id.dom.extractLsb' (16 * k) 16).toNat
    let N (k : Nat) : Nat := (s.t.id.barn.extractLsb' (16 * k) 16).toNat
    s.iss.sstA = some p ∧ p.ld = none ∧ Settled s.t ∧ soundAt s s.t.die 56 8 ∧ s.t.ctl.arrived = none ∧ (G 2 = 7 ∧ N 2 = 2 ∧ G 3 = 0 ∧ N 3 = 2) ∧
    (s.barFind 0 2 (G 2)).arrived = 0 ∧
    StillToPerform ({ t with pstores := [p] } : Task) (2 ^ 16 - 1) :=
  ⟨rfl, rfl, ⟨rfl, fun _ h => nomatch h⟩, (fun _ h => nomatch h), rfl, by decide, by decide, .inl ⟨_, List.mem_singleton_self _, by decide⟩⟩
/-- Zero has no sign of its own; −1 is negative. A sum of opposite infinities. -/
theorem witness_FloatVectorResults_exact :
    ((0 : Rat) = 0 ∨ true = decide ((0 : Rat) < 0)) ∧ ((-1 : Rat) = 0 ∨ true = decide ((-1 : Rat) < 0)) ∧ (1 : Rat) + -1 = 0 ∧
    ((1 : Rat) ≠ 0 ∧ 0 < (1 : Rat)) := by decide +kernel
/-- A block of zeros, one of ones, one with a NaN. -/
theorem witness_ReductionsBlocksAndPacks_blocks :
    let xs (x : Rv) : List Rv := List.replicate 32 x
    (∀ x, (xs x).length = 32) ∧ (∃ x ∈ xs .nan, ∀ (q : Rat) (z : Bool), x ≠ .fin q z) ∧ (∀ x ∈ xs (.fin 0 false), ∃ z, x = .fin 0 z) ∧
    (∀ x ∈ xs (.fin 1 false), ∃ q z, x = .fin q z ∧ size q ≤ 1) ∧ (∃ x ∈ xs (.fin 1 false), ∃ q z, x = .fin q z ∧ size q = 1) ∧
    pow2 0 ≤ 1 ∧ 1 < pow2 (0 + 1) :=
  ⟨fun _ => by simp, ⟨_, List.mem_replicate.2 ⟨by decide, rfl⟩, fun _ _ h => nomatch h⟩,
   fun _ h => ⟨false, (List.mem_replicate.1 h).2⟩, fun _ h => ⟨1, false, (List.mem_replicate.1 h).2, by decide +kernel⟩,
   ⟨_, List.mem_replicate.2 ⟨by decide, rfl⟩, 1, false, rfl, by decide +kernel⟩, by decide +kernel, by decide +kernel⟩
/-- The BF16 patterns of 1, 2, an infinity and a NaN; lists with a NaN, with both infinities, with one, with none. -/
theorem witness_ReductionsBlocksAndPacks_ranks :
    dec (typeFmt 10) 0x3F80 = .fin 1 false ∧ dec (typeFmt 10) 0x4000 = .fin 2 false ∧ dec (typeFmt 10) 0x7F80 = .inf false ∧
    dec (typeFmt 10) 0x7FC0 = .nan ∧ (9 ≤ 10 ∧ 0x7FC0 < 2 ^ typeWidth 10) ∧
    (let l : List Rv := [.inf false, .inf true]; .nan ∉ l ∧ .inf false ∈ l ∧ .inf true ∈ l) ∧
    (let l : List Rv := [.inf false, .fin 1 false]; .nan ∉ l ∧ .inf false ∈ l ∧ .inf (!false) ∉ l) ∧
    ([Rv.fin 1 false, .fin 2 true] = ([1, 2].zip [false, true]).map (fun x => Rv.fin x.1 x.2)) := by decide +kernel
/-- A column that has its tile, met again in sum mode. -/
theorem witness_DrainsAndScoreboard_sum :
    let r : DrainRow := ⟨0, [(0, 7)], [(0, 1)], false⟩
    fget r.have_ 0 0 ≠ 0 ∧ (1 : Nat) ≠ 0 := by decide

/-! ## Witnesses: the acceptance checks of R227, at the bounds of their values -/

/-- The five checks of a command in the world with tables: pack values, ranges, alignment, overlap, state. -/
def checks (s : State) (c : Cmd) : List Bool := let a := s.acceptOf c; [a.param, a.range, a.align, a.overlap, a.state]
/-- A queued command. -/
def qc (i : Instr) (op : Nat) (pack : List DWord) : Cmd := cm i op pack .queued
/-- Copies: LEN below and at 2^31; arrays below and at 2^24 elements; a permutation, and none; patches of 256 and of 257 rows; lists below and
at 2^24; `wsld` to the weight store and to shared SRAM; a source and a destination that meet, and that do not. -/
def copyFacts : List (List Bool) :=
  let s := shelved []
  [(checks s (qc (.fill ef) 0x14 [0, 0x80000000, 0, 0])).take 1, (checks s (qc (.cpy ef) 0x10 [0, 0, 0x7FFFFFFF, 0x4000, 0])).take 2,
    (checks s (qc (.cpy ef) 0x10 [0, 0, 0x80000000, 0x4000, 0])).take 1,
    (checks s (qc (.cpyt ef) 0x12 [0, 0, 0, 4096 * 2 ^ 32 + 4095, 0, 0])).take 1, (checks s (qc (.cpyt ef) 0x12 [0, 0, 0, 4096 * 2 ^ 32 + 4096, 0, 0])).take 1,
    checks s (qc (.cpyp ef) 0x13 [0, 64, 0, 0x0002000200020002, 0xE4]), (checks s (qc (.cpyp ef) 0x13 [0, 64, 0, 0x0002000200020002, 0xE5])).take 1,
    (checks s (qc (.gth2 ef) 0x16 [0, 64, 0, 0, 0x01000001, 1, 1, 0])).take 1, (checks s (qc (.gth2 ef) 0x16 [0, 64, 0, 0, 0x01010001, 1, 1, 0])).take 1,
    (checks s (qc (.gthr ef) 0x18 [0, 64, 0, 0, 0xFFFFFF, 0])).take 1, (checks s (qc (.gthr ef) 0x18 [0, 64, 0, 0, 0x1000000, 0])).take 1,
    checks s (qc (.wsld ef) 0x15 [0, 0, 128, 0x80000000, 0]), (checks s (qc (.wsld ef) 0x15 [0, 0, 128, 0, 0])).take 1,
    checks s (qc (.sctr ef) 0x19 [0, 15, 0, 2 ^ 36 + 1, 512 * 2 ^ 32 + 1]), checks s (qc (.sctr ef) 0x19 [0, 16, 0, 2 ^ 36 + 1, 512 * 2 ^ 32 + 1])]
theorem witness_CopyAcceptance :
    copyFacts = [[true], [true, false], [false], [true], [false], [true, true, true, true, true], [false], [true], [false], [true], [false],
      [true, true, true, true, true], [false], [true, true, true, false, true], [true, true, true, true, true]] ∧
    named (qc (.cpyp ef) 0x13 []) ∧ named (qc (.wsld ef) 0x15 []) ∧ (qc (.cpyp ef) 0x13 []).opcode / 16 = 1 :=
  ⟨by decide +kernel, ⟨ef, 5, by decide⟩, ⟨ef, 5, by decide⟩, by decide⟩
/-- Copies under MXFMT from SRAM to a buffer with a sideband: aligned, not aligned, in no format; to a buffer without one. -/
def mxFacts : List (List Bool) :=
  let s (ctrl : Byte) : State := { shelved [] with mem := { (shelved []).mem with hbm := shelf.map (fun e => if e.1 == 0x100018 then (e.1, ctrl) else e) } }
  let c (off mx : DWord) : Cmd := qc (.cpy ef) 0x10 [off, 0, 64, 0x40000000, mx]
  [checks (s 15) (c 0 14), checks (s 15) (c 8 14), (checks (s 15) (c 0 13)).take 1, (checks (s 15) (c 0 17)).take 1, (checks (s 7) (c 0 14)).take 1,
    checks (s 15) (c 0 (2 ^ 32 * 0x100000 + 14))]
theorem witness_CopyAcceptance_mx : mxFacts =
    [[true, true, true, true, true], [true, true, false, true, true], [false], [false], [false], [true, false, true, true, true]] := by decide +kernel

/-- `idec`: a ring of entries of 2^11 bytes holds a patch of 32 by 32 in BF16, not in FP32; LEN 2^31; no DINO. The collectives: N at 2^24, a ROOT
at NP, DQSRC on `agt`, a queue that is not attached, one that is. -/
def otherFacts : List (List Bool) :=
  let s := { shelved [] with tasks := [(1, { tk with rings := [(2, ⟨0, 12, 4, 0, 0, 0, 0⟩)], dq := [(2, ⟨true, 0, false, 0, 9⟩)] })] }
  let i (len f : DWord) : Cmd := qc (.idec ef) 0x20 [0, len * 2 ^ 32, 4 * 2 ^ 48 + f * 2 ^ 44 + 2 * 2 ^ 37]
  let x (n np f : DWord) : List DWord := [0, 64, 0, n * 2 ^ 32 + np * 2 ^ 16, f]
  let queue (q : DWord) : DWord := 2 ^ 37 + q * 2 ^ 35
  [checks s (i 64 0), (checks s (i 64 8)).take 1, (checks s (i 64 12)).take 1, (checks s (i 0x80000000 0)).take 1, (checks s (i 0 0)).take 1,
    checks { s with mod := { s.mod with featneg := 0x7F } } (i 64 0),
    checks s (qc (.ard ef) 0x32 (x 0xFFFFFF 1 0)), (checks s (qc (.ard ef) 0x32 (x 0x1000000 1 0))).take 1, (checks s (qc (.rsc ef) 0x30 (x 9 2 0))).take 1,
    checks s (qc (.bcs ef) 0x33 (x 8 2 1)), (checks s (qc (.bcs ef) 0x33 (x 8 2 2))).take 1, (checks s (qc (.agt ef) 0x31 (x 8192 1 (queue 2)))).take 1,
    checks s (qc (.ard ef) 0x32 (x 8192 1 (queue 2))), checks s (qc (.ard ef) 0x32 (x 8192 1 (queue 1)))]
theorem witness_ImageAndCollectiveAcceptance : otherFacts =
    [[true, true, true, true, true], [true], [false], [false], [false], [false, true, true, true, true], [true, false, true, true, true], [false], [false],
      [true, true, true, true, true], [false], [false], [true, true, true, true, true], [true, true, true, true, false]] := by decide +kernel
/-- The commands on tables: buffer 1, which may only be read; K 64 and 65; a row as long as the
granule, a longer one; an HPAR with a reserved word and one misaligned; a fence on a buffer that is not there. -/
def hamperFacts : List (List Bool) :=
  let s := { shelved [] with mem := { (shelved []).mem with sram := [(0x1024, 1)] } }
  let rows (d : DWord) : DWord := d * 2 ^ 16
  let g (k toff d kk : DWord) : Cmd := qc (.nmgs ef) 0x42 [k + rows d, toff, 1, 0x8000000000, kk]
  let o (hpar guard : DWord) : Cmd := qc (.nmopt ef) 0x44 [2 ^ 32, 0, 1, 0, hpar * 2 ^ 32, 0, guard]
  [checks s (g 0 0 1 64), (checks s (g 0 0 1 65)).take 1, (checks s (g 0 0 128 1)).take 1, (checks s (g 0 0 256 1)).take 1,
    (checks s (qc (.nmadd ef) 0x40 [1 + rows 1, 0, 1, 0, 0])).take 1, (checks s (qc (.nmadd ef) 0x40 [rows 1, 0, 1, 0, 0])).take 1,
    (checks s (qc (.nmamo ef) 0x41 [7 * 2 ^ 16, 0, 1, 0, 0])).take 1, (checks s (qc (.nmamo ef) 0x41 [0x170000, 0, 1, 0, 0])).take 1,
    (checks s (qc (.nmdot ef) 0x43 [rows 1, 0, 0x1000000, 0, 0])).take 1, (checks s (o 0x1000 0)).take 1, checks s (o 0x20 0), checks s (o 0 4),
    checks s (qc (.nmfence ef) 0x45 [0]), (checks s (qc (.nmfence ef) 0x45 [9])).take 1]
theorem witness_HamperAcceptance : hamperFacts =
    [[true, true, true, true, true], [false], [true], [false], [false], [true], [true], [false], [false], [false], [true, true, false, true, true],
      [true, true, false, true, true], [true, true, true, true, true], [false]] := by decide +kernel
/-- The lookup commands: K1 at N and above it; K at K1² and above it; T at the bounds of its range; an area that is misaligned; areas that meet. -/
def lookupFacts : List (List Bool) :=
  let s := { shelved [] with tasks := [(1, ringed 1)] }
  let p (k k1 n w t : DWord) : Cmd := qc (.pksel ef) 0x50 [2 ^ 48 + 2 ^ 38 + k * 2 ^ 31 + k1 * 2 ^ 24 + n, 64 * 2 ^ 32, w * 2 ^ 32 + t]
  let f (d n r : DWord) : Cmd := qc (.pkfwd ef) 0x51 [2 ^ 48 + 2 ^ 38 + 2 ^ 31 + d * 2 ^ 16, 0, n * 2 ^ 32, r]
  let m (d w : DWord) : Cmd := qc (.pkmrg ef) 0x53 [2 ^ 32 + d * 2 ^ 16, 64, w * 2 ^ 32 + 256, 512 * 2 ^ 32]
  [checks s (p 4 2 2 128 0x3F800000), (checks s (p 4 3 2 128 0x3F800000)).take 1, (checks s (p 5 2 2 128 0x3F800000)).take 1,
    (checks s (p 4 2 2 128 1)).take 1, (checks s (p 4 2 2 128 0x7F7FFFFF)).take 1, (checks s (p 4 2 2 128 0)).take 1,
    (checks s (p 4 2 2 128 0x7F800000)).take 1, checks s (p 4 2 2 132 0x3F800000), checks s (p 4 2 2 64 0x3F800000), checks s (p 4 2 2 72 0x3F800000),
    checks s (f 1 1 (2 ^ 40)), (checks s (f 1 0 (2 ^ 40))).take 1, (checks s (f 1 4096 (2 ^ 40))).take 1, (checks s (f 1 4097 (2 ^ 40))).take 1,
    (checks s (f 32 1 34)).take 1, (checks s (f 33 1 34)).take 1, (checks s (f 1 1 35)).take 1,
    checks s (m 1 128), checks s (m 1 130), checks s (m 1 64), (checks s (m 0 128)).take 1, (checks s (m 2049 128)).take 1]
theorem witness_LookupAcceptance : lookupFacts =
    [[true, true, true, true, true], [false], [false], [true], [true], [false], [false], [true, true, false, true, true], [true, true, true, false, true],
      [true, true, true, true, true], [true, true, true, true, true], [false], [true], [false], [true], [false], [false], [true, true, true, true, true],
      [true, true, false, true, true], [true, true, true, false, true], [false], [false]] := by decide +kernel
/-- The commands on the volume of `latticed`, which an INIT has made or not: START at COUNT and above it; static and dynamic; on every instance; from
a class below module scope; blocks of numbers within the volume, of more, and with the root. -/
def volumeFacts : List (List Bool) :=
  let s (mode : Byte) (made : Bool) : State :=
    let s := latticed mode 1 []
    { s with ctxs := [(0, { s.ctx 0 with volInit := if made then [(0, 1)] else [] })] }
  let c (i : Instr) (op : Nat) (start n : DWord) : Cmd := { qc i op [start * 2 ^ 40 + n * 2 ^ 16, 256] with scope := 4, vxinvOk := true }
  let spreads (c : Cmd) (scope : Nat) : Cmd := { c with scope := scope }
  let e1 : FmtE := { ef with ap := 1 }
  let pool (i : Instr) (first n : DWord) : Cmd := { qc i 0x65 [0, first * 2 ^ 32 + n] with scope := 4 }
  [checks (s 1 true) (c (.vxget ef) 0x60 3 3), (checks (s 1 true) (c (.vxget ef) 0x60 4 3)).take 1, (checks (s 1 false) (c (.vxget ef) 0x60 3 3)).take 1,
    (checks (s 0 true) (c (.vxput ef) 0x61 0 1)).take 1, (checks (s 1 true) (c (.vxadd ef) 0x62 0 1)).take 1,
    (checks (s 1 true) (c (.vxinv ef) 0x63 0 1)).take 1, (checks (s 1 true) (c (.vxinv e1) 0x63 0 1)).take 1, (checks (s 1 true) (spreads (c (.vxinv ef) 0x63 0 1) 3)).take 1,
    (checks (s 1 true) (c (.vxtile ef) 0x64 0 1)).take 1, (checks (s 1 true) { c (.vxtile ef) 0x64 0 1 with vxinvOk := false }).take 1,
    (checks (s 1 true) (pool (.vxpoolAddt ef) 0 1)).take 1, (checks (s 1 true) (pool (.vxpoolAddt ef) 1 1)).take 1,
    (checks (s 1 true) (pool (.vxpoolAddn ef) 0 1)).take 1, (checks (s 1 true) (pool (.vxpoolInit ef) 0 0)).take 1,
    checks (s 1 true) (pool (.vxpoolInit ef) 0 0x100000)]
theorem witness_VolumeAcceptance : volumeFacts =
    [[true, true, true, true, true], [false], [false], [false], [false], [true], [false], [false], [true], [false], [true], [false], [false],
      [false], [true, false, true, true, true]] := by decide +kernel
/-- A descriptor of one brick, static, whose regions follow each other: accepted in a buffer that ends with the last, refused in a shorter one. -/
theorem witness_VolumeAcceptance_images :
    let img (bg : Nat) : Nat := 11 * 2 ^ 32 + 2 ^ 40 + bg + (8 + 8 * 2 ^ 32 + 8 * 2 ^ 64 + 2 ^ 96 + 2 ^ 128) * 2 ^ 64 +
      (0x1000 + 0x2000 * 2 ^ 64 + 0x2200 * 2 ^ 128 + 0x2208 * 2 ^ 192) * 2 ^ 256
    [volImageOk (img 0) 0x3000 4096, volImageOk (img 0) 0x2208 4096, volImageOk (img (2 ^ 56)) 0x3000 4096, volImageOk (img 0) 0x3000 2048,
      volImageOk (img (2 ^ 520)) 0x3000 4096] = [true, false, false, false, false] := by decide +kernel

/-! ## Witnesses: commands that do more than begin as they start -/

/-- A command stands first and passes every check. -/
def accepted (s : State) (c : Cmd) : Bool := checks s c == [true, true, true, true, true]
/-- Commands of the shelf that start: `nmopt` with a guard and without, a fence, an empty `pkmrg` and one of one pair, `ard` at levels 1 and 3. -/
def opting (guard : DWord) : Cmd := qc (.nmopt ef) 0x44 [2 ^ 32 + guard * 2 ^ 24, 0, 1, 0, 0, 0, 0]
def fencing : Cmd := { qc (.nmfence ef) 0x45 [0] with id := 8 }
def merging0 (n : DWord) : Cmd := qc (.pkmrg ef) 0x53 [n * 2 ^ 32 + 2 ^ 16, 64, 128 * 2 ^ 32 + 256, 512 * 2 ^ 32]
def reducing (level : DWord) : Cmd := qc (.ard ef) 0x32 [0, 64, 0, 8 * 2 ^ 32 + 2 * 2 ^ 16, level * 2 ^ 46]
theorem starts_accepted :
    (accepted (shelved []) (opting 0) ∧ accepted (shelved []) (opting 1) ∧ accepted (shelved []) fencing ∧ accepted (shelved []) (merging0 0) ∧
    accepted (shelved []) (merging0 1) ∧ accepted (shelved []) (reducing 1) ∧ accepted (shelved []) (reducing 3)) ∧
    ((shelved []).acceptOf (merging0 0)).total = 0 ∧ ((shelved []).acceptOf (merging0 1)).total = 1 := by decide +kernel
theorem witness_CommandsStart_kinds :
    let s (c : Cmd) : State := shelved [c]
    let add (k : Nat) : State := { s fencing with eng := { (s fencing).eng with adds := [adding k 0 false] } }
    let k (level np : Nat) : Coll := ⟨3, 0, level, 0, 0, np, [], [(5, 0)], true⟩
    let fits (c : Cmd) (k : Coll) : Prop := bitsOf c 4 46 2 ≠ 3 ∧ k.ctx = c.ctx ∧ k.level = bitsOf c 4 46 2 ∧ k.grp = tk.id.dom.toNat / 2 ^ (16 * bitsOf c 4 46 2) % 2 ^ 16 ∧
      k.tag = bitsOf c 4 48 16 ∧ k.members.length < k.np
    FirstInQueue (s (opting 0)) 0 4 0 (opting 0) ∧ FirstInQueue (s fencing) 0 4 0 fencing ∧ FirstInQueue (s (merging0 0)) 0 5 0 (merging0 0) ∧
    FirstInQueue (s (reducing 1)) 0 3 0 (reducing 1) ∧ (s fencing).mem.sramErr = [] ∧ ((s fencing).ctx 0).ffault = none ∧
    fenceHolds (s fencing) fencing ∧ fenceHolds (add 1) fencing ∧ ¬ fenceHolds (add 0) fencing ∧
    (bitsOf (reducing 1) 4 46 2 ≠ 3 ∧ bitsOf (reducing 3) 4 46 2 = 3 ∧ (s (reducing 3)).mod.featneg.getLsbD 1 = true ∧
      (s (reducing 3)).reachable ((s (reducing 3)).ctx 0).shome = true ∧ State.reset.mod.featneg.getLsbD 1 = false) ∧
    fits (reducing 1) (k 1 2) ∧ ¬ fits (reducing 1) (k 1 1) ∧ ¬ fits (reducing 3) (k 3 2) := by
  refine ⟨first _ _ rfl rfl rfl rfl rfl rfl, first _ _ rfl rfl rfl rfl rfl rfl, first _ _ rfl rfl rfl rfl rfl rfl, first _ _ rfl rfl rfl rfl rfl rfl, rfl, rfl,
    ⟨?_, fun _ h => nomatch h⟩, ⟨?_, ?_⟩, ?_, by decide +kernel, by decide, by decide, by decide⟩
  · intro d h _ l; rw [List.mem_singleton.1 h] at l; exact absurd l (by decide)
  · intro d h _ l; rw [List.mem_singleton.1 h] at l; exact absurd l (by decide)
  · intro a h _ _; rw [List.mem_singleton.1 h]; decide
  · intro h; exact absurd (h.2 _ (List.mem_singleton_self _) rfl (by decide)) (by decide)
/-- A running fence, and the same while an earlier `nmadd` to its buffer has not finished. -/
theorem witness_FenceCompletes :
    let c := { fencing with st := .running }
    let a : Cmd := { cm (.nmadd ef) 0x40 [2 ^ 16, 0, 1, 0, 0] .running with id := 6 }
    Runs (shelved [c]) 8 c ∧ fenceHolds (shelved [c]) c ∧ Runs (shelved [a, c]) 8 c ∧ ¬ fenceHolds (shelved [a, c]) c := by
  refine ⟨⟨rfl, rfl, rfl, rfl, rfl⟩, ⟨?_, fun _ h => nomatch h⟩, ⟨rfl, rfl, rfl, rfl, rfl⟩, ?_⟩
  · intro d h _ l; rw [List.mem_singleton.1 h] at l; exact absurd l (by decide)
  · intro h; exact h.1 _ (List.mem_cons_self ..) rfl (by decide) (by decide) rfl
/-- The volume of `latticed`, INITed, and buffer 2 an import of it that it does not export. -/
def imported (cs : List Cmd) : State :=
  let s := latticed 1 1 cs
  { s with
    ctxs := [(0, { s.ctx 0 with volInit := [(0, 1)] })]
    mem := { s.mem with hbm := wrNat (wrNat s.mem.hbm 0x100202 1 3) 0x100218 1 0x47 } }
/-- An empty `vxinv` that changes MODE, on buffer `k`. -/
def emptying (k mode : DWord) : Cmd := { qc (.vxinv ef) 0x63 [mode * 2 ^ 13 + k, 0] with scope := 4 }
/-- Facts of the entries: the owner check of both, acceptance. -/
def importFacts : List Bool :=
  let s := imported []
  [s.ownerOk 0 (s.bufEntry 0 0), s.ownerOk 0 (s.bufEntry 0 2), accepted s (emptying 0 1), accepted s (emptying 2 1), accepted s (emptying 0 0),
    (s.acceptOf (emptying 0 1)).total == 0]
theorem import_facts : importFacts = [true, false, true, true, true, true] := by decide +kernel
theorem witness_CommandsStart_volumes :
    FirstInQueue (imported [emptying 0 1]) 0 6 0 (emptying 0 1) ∧ FirstInQueue (imported [emptying 2 1]) 0 6 0 (emptying 2 1) ∧
    entrySound (imported [emptying 0 1]) (emptying 0 1) ∧ bitsOf (emptying 0 1) 0 13 1 = 1 ∧ bitsOf (emptying 0 0) 0 13 1 = 0 ∧ (emptying 0 1).status = 0 ∧
    importFacts = [true, false, true, true, true, true] ∧ (∀ t ∈ (imported []).eng.tlb, t.buf ≠ 2) :=
  ⟨first _ _ rfl rfl rfl rfl rfl rfl, first _ _ rfl rfl rfl rfl rfl rfl, fun _ _ => ⟨rfl, rfl⟩, by decide, by decide, rfl, import_facts, fun _ h => nomatch h⟩

/-! ## Witnesses: elements between endpoints, rows, shoot-downs -/

/-- Units to a buffer, out of one, to a swizzled range, of a `fill` and of a `wsld`, which all go through, and one under MXFMT. -/
def endpoints : List Cmd :=
  let w : Cmd := { cm (.wsld ef) 0x15 [0, 64, 256, 0x80000000, 0] .running with total := 2 }
  [filing 0 0, reading, { reading with pack := [0, 256, 256, 0x10004000, 0] }, { cm (.fill ef) 0x14 [0, 256, 0x40000000, 7] .running with total := 2 },
    w, { w with vals := [0, 64, 5] }, { filing 0 0 with pack := [0, 0, 256, 0x40000000, 14] }]
/-- Whether the accesses of the unit pass the port. -/
def endpointFacts : List Bool :=
  let s := shelved []
  [(s.bufEntry 0 0).remote, (s.portErr 0 0 0 0 128 true).isNone, (s.portErr 0 0 0 0 128 false).isNone]
theorem endpoint_forms : ∀ c ∈ endpoints, (c.op, c.opcode, c.pack.length) ∈ engineForms ef := by decide
theorem endpoint_facts : endpointFacts = [false, true, true] := by decide +kernel
theorem witness_EndpointCopies :
    (∀ c ∈ endpoints, Runs (shelved [c]) 7 c ∧ named c ∧ (c.op = .cpy ef ∨ c.op = .fill ef ∨ c.op = .wsld ef) ∧ c.saved = [] ∧ turnOf (copySrc c) ≠ 3 ∧
      turnOf (copyDst c) ≠ 3 ∧ (c.op ≠ .fill ef → spaceOf (copySrc c) < 2) ∧ (copyMx c % 2 ^ 5 = 0 ∨ (c.op = .cpy ef ∧ copyMx c % 2 ^ 5 = 14))) ∧
    endpoints.map (fun c => (spaceOf (copySrc c), spaceOf (copyDst c), turnOf (copyDst c))) =
      [(0, 1, 0), (1, 0, 0), (1, 0, 1), (0, 1, 0), (0, 2, 0), (0, 2, 0), (0, 1, 0)] ∧
    endpointFacts = [false, true, true] ∧ (shelved []).mem.wsErr = [] ∧
    (∀ a l v, [0, 64, 5] = [a, l, v] → a + l = copyTo { (default : Cmd) with op := .wsld ef, pack := [0, 64, 256, 0x80000000, 0] } ∧ v < 256 ^ l) := by
  refine ⟨?_, by decide, endpoint_facts, rfl, ?_⟩
  · intro c h
    have n : named c := ⟨ef, _, endpoint_forms c h⟩
    simp only [endpoints, List.mem_cons, List.not_mem_nil, or_false] at h
    rcases h with rfl | rfl | rfl | rfl | rfl | rfl | rfl <;>
      exact ⟨⟨rfl, rfl, rfl, rfl, rfl⟩, n, by decide, rfl, by decide, by decide, by decide, by decide⟩
  · intro a l v h
    cases h
    exact ⟨by decide, by decide⟩
/-- An earlier `pksel` still in its queue pops the queue before a later command does; one that has its rows does not. -/
theorem witness_DrainRowsAndDetach_queued :
    let q : Cmd := { popping with id := 6, st := .queued }
    let pops (d : Cmd) : Prop := d.task = 1 ∧ d.pos = 0 ∧ (d.st = .running ∨ d.st = .faulted ∨ (d.st = .queued ∧ d.opcode = 0x50)) ∧
      ∃ m, d.rowsWanted = some (2, m) ∧ d.rows.length < m
    (world passed [q, popping]).eng.cmds = [q] ++ popping :: [] ∧ (∀ d ∈ [q], d.id ≠ popping.id) ∧ pops q ∧ ¬ pops { q with rows := [[]] } ∧
    popping.rowsWanted = some (2, 1) ∧ passed.id.uid = popping.task :=
  ⟨rfl, by decide, ⟨rfl, rfl, .inr (.inr ⟨rfl, rfl⟩), 1, by decide, by decide⟩,
    (fun ⟨_, _, _, m, h, k⟩ => by
      have e : 1 = m := (Prod.mk.inj (Option.some.inj (show some (2, 1) = some (2, m) from h))).2
      rw [← e] at k
      exact absurd k (by decide)), by decide, rfl⟩
/-- A collective of one participant, ready, whose source ends inside it; an element to a misaligned destination. -/
theorem witness_CollectiveResults_sources :
    let g := gathering 1 0
    let e : Cmd := { cm (.agt ef) 0x31 [0, 100, 0, 40 * 2 ^ 32 + 2 ^ 16, 0] .running with vals := List.replicate 40 9, total := 40 }
    g.collReady = true ∧ packOf g 2 % 2 ^ 16 = 0 ∧ bitsOf g 4 37 1 = 0 ∧ Runs (world tk [e]) 7 e ∧ packOf e 2 / 2 ^ 16 % 2 ^ 16 = 0 ∧ e.elem < e.total ∧
    (∀ v ∈ e.vals, v < 2 ^ 32) ∧ min ((packOf e 1 + 1 * 4 + 127) / 128 * 128) (packOf e 1 + e.total * 4) = 128 :=
  ⟨rfl, by decide, by decide, ⟨rfl, rfl, rfl, rfl, rfl⟩, by decide, by decide, by decide, by decide⟩
/-- The last acknowledgement of an INIT whose entry stands as it found it, and of one whose entry has been replaced; a die with an element under
way on the volume; the handler's `vxpool` on the volume of an element that waits for it. -/
theorem witness_ShootDowns :
    let c (v : List Nat) (acks : Nat) : Cmd := { cm (.vxpoolInit ef) 0x65 [0, 0] .shooting with acks := List.range acks, vals := v, handler := true, task := 1 }
    let d (st : CmdState) : Cmd := { cm (.vxput ef) 0x61 [0, 0] st with id := 5, vals := [1], task := 1 }
    let busy (s : State) (c d : Cmd) : Prop := d.die = 0 ∧ d.opcode / 16 = 6 ∧ hasStart d.op = true ∧ d.vals ≠ [] ∧ s.volOf d = c.vol ∧
      ¬ (c.opcode = 0x65 ∧ c.handler = true ∧ c.task = d.task ∧ d.st = .allocWait)
    command (latticed 1 1 [c [9] 23]) 7 = some (c [9] 23) ∧ (c [9] 23).st = .shooting ∧ 23 ∉ (c [9] 23).acks ∧ 23 ≤ (c [9] 23).acks.length ∧
    (c [9] 23).vals ≠ [] ∧ (c [] 23).vals = [] ∧ (c [9] 22).acks.length < 23 ∧ busy (latticed 1 1 []) (c [9] 0) (d .running) ∧
    ¬ busy (latticed 1 1 []) (c [9] 0) (d .allocWait) := by decide +kernel

/-! ## Witnesses: placing candidates, admitting records -/

/-- An admitted set of two tasks, launched by a task, ready since tick `age`. -/
def setOf (age : Nat) : LaunchSet :=
  { (default : LaunchSet) with
    id := 1, src := .pool 0 0 0 0, rec_ := { (default : LaunchRec) with head := 0xFF, setsize := 2 }, prog := some tk.prog, age := age }
/-- Context 0, allowed one array, has a save area for array 1 and partitions on die 0; that set waits at tick 3000, and tasks `ts` stand. -/
def placing (ts : FMap Task) (age : Nat) : State :=
  { State.reset with
    tasks := ts
    parts := [(0, ⟨0, 2 ^ 20, 0, 2 ^ 20⟩)]
    ctxs := [(0, { (default : Ctx) with live := true, maxarr := 1, savebase := 0x110000 })]
    fns := [(0, { FnBlock.init with extBase := 0x100000, extLim := 2 ^ 32 })]
    mem := { State.reset.mem with hbm := [(0x110012, 0x20), (0x11001B, 2)] }
    ram := { State.reset.ram with tick := 3000, sets := [setOf age], nextSet := 2, nextTask := 2 } }
/-- What that set offers. -/
def offered (age : Nat) : Cand := ⟨2, 1, 0, 0, 0, age, 0, 1, none, 16, tk.prog.hdr.imageSize, []⟩
/-- A task on array 1, of the set's priority, at the end of its slice or not. -/
def holder (done : Bool) : FMap Task :=
  [(1, { tk with id := { tk.id with head := 1 }, ctl := { tk.ctl with sliceDone := done } })]
theorem placing_quiet (ts : FMap Task) (h : ts = [] ∨ ∃ d, ts = holder d) (age : Nat) : Quiet (placing ts age) (fun _ _ => False) := by
  refine ⟨rfl, rfl, rfl, rfl, ⟨?_, ?_⟩, ⟨?_, ?_⟩, ?_, ?_, ?_, ?_⟩
  · rcases h with rfl | ⟨d, rfl⟩ <;> simp [placing, holder]
  · rcases h with rfl | ⟨d, rfl⟩ <;> simp [placing, holder, tk]
  · simp [placing]
  · intro l h; rw [List.mem_singleton.1 h]; exact (by decide : 1 < 2)
  · intro l h; rw [List.mem_singleton.1 h]; rfl
  · rcases h with rfl | ⟨d, rfl⟩
    · exact fun _ h => nomatch h
    · intro e h; rw [List.mem_singleton.1 h]; exact ⟨rfl, rfl⟩
  · simp [placing]
  · intro e h; rw [List.mem_singleton.1 h]; exact ⟨rfl, List.nodup_nil, fun _ h => nomatch h⟩
theorem placing_offers (ts : FMap Task) (h : ts = [] ∨ ∃ d, ts = holder d) (age : Nat) :
    Offers (placing ts age) (offered age) ∧ ∀ d, Offers (placing ts age) d → d.eprio ≤ 3 ∧ d = offered age := by
  refine ⟨.inr ⟨setOf age, List.mem_singleton_self _, tk.prog, rfl, (by decide : 0 < 2), (by decide : 0 < 0 + 256), rfl, 2, rfl, ?_⟩, ?_⟩
  · rfl
  · rintro d (⟨e, he, hb, _⟩ | ⟨l, hl, p, hp, _, _, _, k, hk, hd⟩)
    · rcases h with rfl | ⟨b, rfl⟩
      · exact (nomatch he)
      · rw [List.mem_singleton.1 he] at hb; exact absurd hb (by cases b <;> decide)
    · obtain rfl := List.mem_singleton.1 hl
      obtain rfl : tk.prog = p := Option.some.inj hp
      obtain rfl : k = 2 := hk
      rw [hd]
      exact ⟨Nat.zero_le _, rfl⟩
theorem area_of (a : Nat) (h : a < 48) (k : a ≠ 1) : (placing [] 0).devRd (0x110000 + 16 * a + 8) 8 = 0 := by
  have all : ∀ a < 48, a ≠ 1 → (placing [] 0).devRd (0x110000 + 16 * a + 8) 8 = 0 := by decide +kernel
  exact all a h k
theorem area_there :
    let s := placing [] 0
    tk.prog.hdr.imageSize ≤ s.devRd (0x110010 + 8) 8 ∧ s.devRd 0x110010 8 ≠ 0 ∧
    s.devRd 0x110010 8 / 2 ^ 36 = (s.devRd 0x110010 8 + s.devRd (0x110010 + 8) 8 - 1) / 2 ^ 36 ∧ 0x100000 ≤ s.devRd 0x110010 8 ∧
    s.devRd 0x110010 8 + s.devRd (0x110010 + 8) 8 ≤ 2 ^ 32 := by decide +kernel
/-- Array 1 serves the set, and no other does. -/
theorem placing_serves (ts : FMap Task) (h : ts = [] ∨ ∃ d, ts = holder d) (age a : Nat) :
    Serves (placing ts age) (offered age) a ↔ a = 1 := by
  constructor
  · rintro ⟨l, _, _, i, _⟩
    by_contra k
    have w : tk.prog.hdr.imageSize ≤ (placing [] 0).devRd (0x110000 + 16 * a + 8) 8 := (i (by decide : tk.prog.hdr.imageSize ≠ 0)).1
    rw [area_of a (by have : a + 1 ≤ 48 := l; omega) k] at w
    exact absurd w (by decide)
  · rintro rfl
    refine ⟨(by decide : 1 + 1 ≤ 48), (fun _ h => nomatch h), ?_, (fun _ => ?_), (fun _ _ => ⟨128, by decide, ?_, ?_, ?_⟩), (fun _ h => nomatch h)⟩
    · intro i hi; obtain rfl : i = 0 := by have : i < 1 := hi; omega
      exact (by decide : 0 < 2 ^ 20)
    · exact area_there
    · exact (by decide : 0 ≤ 128)
    · exact (by decide : 128 + 16 ≤ 2 ^ 20)
    · rcases h with rfl | ⟨d, rfl⟩
      · exact fun _ h => nomatch h
      · cases d <;> exact (by decide : ∀ g ∈ [((0 : Nat), 16)], 128 + 16 ≤ g.1 ∨ g.1 + g.2 ≤ 128)
/-- Array 1 is free; a task whose slice has ended holds it; one whose slice has not, while the set has waited 999 ticks and 1000. -/
theorem witness_CandidatesArePlaced :
    Lowest (FreeFor (placing [] 0) (offered 0)) 1 ∧ (∀ b, ¬ FreeFor (placing (holder true) 0) (offered 0) b) ∧
    Lowest (Takes (placing (holder true) 0) (offered 0)) 1 ∧
    (∀ b, ¬ FreeFor (placing (holder false) 0) (offered 0) b ∧ ¬ Takes (placing (holder false) 0) (offered 0) b) ∧
    ((placing [] 0).ram.tick + 1 < (offered 2002).age + 1000 ∧ (offered 2001).age + 1000 ≤ (placing [] 0).ram.tick + 1) ∧
    0 < (offered 0).len ∧ SetsNumbered (placing [] 0) ∧ ArraysApart (placing (holder false) 0) ∧ (∀ l ∈ (placing [] 0).ram.sets, l.next ≤ l.retired + 256) := by
  have S (d : Bool) (a : Nat) := placing_serves (holder d) (.inr ⟨d, rfl⟩) 0 a
  have held (d : Bool) (b : Nat) : ¬ FreeFor (placing (holder d) 0) (offered 0) b := by
    rintro ⟨s, h, _⟩
    obtain rfl := (S d b).1 s
    exact absurd (h _ (List.mem_singleton_self _)) (by cases d <;> decide)
  refine ⟨⟨⟨(placing_serves [] (.inl rfl) 0 1).2 rfl, (fun _ h => nomatch h), by decide⟩, ?_⟩, held true, ⟨⟨(S true 1).2 rfl, by decide, ?_⟩, ?_⟩,
    fun b => ⟨held false b, ?_⟩, ⟨by decide, by decide⟩, by decide, ?_, ?_, ?_⟩
  · intro b hb h; rw [(placing_serves [] (.inl rfl) 0 b).1 h.1] at hb; omega
  · intro e h _; rw [List.mem_singleton.1 h]; exact ⟨rfl, rfl, .inr (.inl ⟨rfl, rfl⟩)⟩
  · intro b hb h; rw [(S true b).1 h.1] at hb; omega
  · intro h
    obtain rfl := (S false b).1 h.1
    have := (h.2.2 _ (List.mem_singleton_self _) (by decide)).2.2
    rcases this with h | ⟨_, h⟩ | ⟨h, _⟩
    · exact absurd h (by decide)
    · exact absurd h (by decide)
    · exact absurd h (by decide)
  · exact (placing_quiet [] (.inl rfl) 0).2.2.2.2.2.1
  · constructor
    · intro e h; rw [List.mem_singleton.1 h]; exact ⟨fun _ => ⟨rfl, rfl⟩, fun h => nomatch h⟩
    · intro e h d k n; rw [List.mem_singleton.1 h, List.mem_singleton.1 k] at n; exact absurd rfl n
  · intro l h; rw [List.mem_singleton.1 h]; exact Nat.zero_le _
/-- A queue of two records in buffer `b` from `off` on, of which one is not yet admitted. -/
def queueAt (b off : Nat) : Queue := { (default : Queue) with rbuf := b, roff := off, log2n := 1, tail := 1, mapped := true }
/-- At 0x1000 of buffer 0 a launch record of one task whose header lies at `hoff`, at 0x2000 a class-2 header of one bundle that waits for a
semaphore which queue `w` signals. -/
def filed (hoff : Nat) (w : Byte) : Mem :=
  wrNat (wrNat (wrNat shelf 0x1000051000 16 (hoff + 2 ^ 88 * 0xFF + 2 ^ 96)) 0x1000052000 0x20
    (0x53523234 + 2 ^ 32 + 2 ^ 48 * 0x120 + 2 ^ 64 * 2 + 2 ^ 72 + 2 ^ 192)) 0x1000052074 0x18
    (1 + 2 ^ 16 + 2 ^ 96 * 0x100 + 2 ^ 128 * 0x110 + 2 ^ 160 * 0x140) |> fun m => wrNat m 0x1000052112 3 (1 + 2 ^ 16 * w.toNat)
/-- The world with tables, no task and that queue in context 0. -/
def queued (hoff : Nat) (w : Byte) (y : Queue) : State :=
  let s := shelved []
  { s with
    tasks := []
    ram := { s.ram with tick := 3000, nextSet := 2, nextTask := 2 }
    ctxs := [(0, { s.ctx 0 with maxarr := 1, queues := [(0, y)] })]
    mem := { s.mem with hbm := filed hoff w } }
theorem witness_RecordsAreAdmitted (hoff : Nat) (w : Byte) (b off : Nat) :
    let y := queueAt b off
    let s := queued hoff w y
    Quiet s (fun a b => a = 0 ∧ b = 0) ∧ (s.ctx 0).live = true ∧ (0, s.ctx 0) ∈ s.ctxs ∧ fget? (s.ctx 0).queues 0 = some y ∧ y.headc ≠ y.tail ∧
    y.told = [] ∧ (∀ l ∈ s.ram.sets, l.ctx = 0 → l.queue = 0 → (match l.src with | .host _ => False | .pool .. => True)) ∧ s.ram.edges = [] := by
  refine ⟨⟨rfl, rfl, rfl, rfl, ⟨List.nodup_nil, fun _ h => nomatch h⟩, ⟨List.nodup_nil, fun _ h => nomatch h⟩, (fun _ h => nomatch h), (fun _ h => nomatch h),
    ?_, ?_⟩, rfl, List.mem_singleton_self _, rfl, (by decide : (0 : Word) ≠ 1), rfl, (fun _ h => nomatch h), rfl⟩
  · exact List.nodup_singleton _
  · intro e h; rw [List.mem_singleton.1 h]
    refine ⟨rfl, List.nodup_singleton _, ?_⟩
    intro q k; rw [List.mem_singleton.1 k]; exact ⟨rfl, .inl ⟨rfl, rfl⟩⟩
/-- Buffer 0 of those tables, and its page 0. -/
def entry0 : BufEntry := (shelved []).usedEntry 0 0 0
/-- Reads at `off` of page 0 of buffer 0, which lies at 0x1000050000. -/
def plain (s : State) (off : Nat) : HdrRead := fun o n =>
  if off + o + n ≤ 2 ^ 16 then rdNat s.mem.hbm (0x1000050000 + (off + o)) n else s.bufRd 0 0 0 (off + o) n
theorem entry0_facts : entry0.page = 2 ^ 16 ∧ entry0.host = false ∧ entry0.stk = [1] ∧ entry0.granule = 256 := by decide +kernel
theorem plain_eq (s : State) (off P : Nat) (he : s.usedEntry 0 0 0 = entry0) (ht : s.eng.tlb = []) (hp : s.freshPte entry0 0 = P)
    (h61 : bitAt P 61 = false) (hf : bitsAt P 0 48 = 5) : (fun o n => s.bufRd 0 0 0 (off + o) n) = plain s off := by
  obtain ⟨page, host, stk, gran⟩ := entry0_facts
  have one (a : Nat) (h : a < 2 ^ 16) : s.bufByte 0 0 0 a = rdByte s.mem.hbm (0x1000050000 + a) := by
    have p : s.pte 0 0 0 (a / entry0.page) = (entry0, P) := by
      unfold State.pte State.heldPte
      rw [he, ht, page, Nat.div_eq_of_lt h]
      show (entry0, s.freshPte entry0 0) = _
      rw [hp]
    have : s.byteLoc 0 0 0 a = .dev (0x1000050000 + a) := by
      unfold State.byteLoc
      rw [he]
      show ((s.pte 0 0 0 (a / entry0.page)).1.locate _ (s.pte 0 0 0 (a / entry0.page)).2 a) = _
      rw [p]
      unfold BufEntry.locate BufEntry.share
      simp only [h61, host, stk, gran, page, hf, List.length_singleton, Nat.mod_one, List.getD_cons_zero, Bool.false_eq_true, if_false]
      exact congrArg Loc.dev (by omega)
    unfold State.bufByte; rw [this]
  have all (n : Nat) : ∀ a, a + n ≤ 2 ^ 16 → s.bufRd 0 0 0 a n = rdNat s.mem.hbm (0x1000050000 + a) n := by
    induction n with
    | zero => intros; rfl
    | succ n ih =>
      intro a h
      unfold State.bufRd rdNat
      rw [one a (by omega), ih (a + 1) (by omega), Nat.add_assoc]
  funext o n
  unfold plain
  split
  · exact all n _ (by omega)
  · rfl
/-- The buffer's entry and page there. -/
theorem plain_queued (off : Nat) (y : Queue) (hy : y = queueAt 0 0x1000 ∨ y = queueAt 0 0x4000) :
    (fun o n => (queued 0x2000 1 y).bufRd 0 0 0 (off + o) n) = plain (queued 0x2000 1 y) off := by
  rcases hy with rfl | rfl <;> exact plain_eq _ off (5 + 2 ^ 62 * 3) (by decide +kernel) rfl (by decide +kernel) (by decide) (by decide)
/-- How the read of a queue's record ends; whether the record keeps its limits. -/
def recordErr (y : Queue) : Option Nat := ((queued 0x2000 1 y).portErr 0 0 y.rbuf y.roff 256 false).map (·.kind)
def recordOk (off : Nat) : Bool :=
  (readRecord (fun o n => (queued 0x2000 1 (queueAt 0 off)).bufRd 0 0 0 (off + o) n)).ok
/-- A record that is good, one of zeros; one on an absent page, one in a buffer that is not this context's. -/
theorem record_fates : [recordErr (queueAt 0 0x1000), recordErr (queueAt 0 0x4000), recordErr (queueAt 0 0x10000), recordErr (queueAt 2 0)] =
    [none, none, some 5, some 13] ∧ recordOk 0x1000 = true ∧ recordOk 0x4000 = false := by
  refine ⟨by decide +kernel, ?_, ?_⟩ <;> unfold recordOk
  · rw [plain_queued _ _ (.inl rfl)]; decide +kernel
  · rw [plain_queued _ _ (.inr rfl)]; decide +kernel
/-- A class-2 header that passes the checks is loaded. -/
theorem load_of (s : State) (r : HdrRead) (hoff : Nat) (hr : (fun o n => s.bufRd 0 0 0 (hoff + o) n) = r)
    (p : s.portErr 0 0 0 hoff 256 false = none) (p' : s.portErr 0 0 0 hoff (max 256 (r 6 2)) false = none)
    (c : (fixedOk r (readHeader r) && tablesOk r && reservedOk r && entriesOk (readHeader r) && s.placeOk 0 (readHeader r)) = true)
    (k : (readHeader r).latcls = 2) (q : s.portErr 0 0 0 (hoff + (readHeader r).codeoff) (64 * (readHeader r).codesz) false = none) :
    ∃ code, s.loadProgram 0 0 0 hoff = .ok ⟨readHeader r, code⟩ := by
  have cls : s.classOk (readHeader r) = true := by unfold State.classOk; rw [k]; rfl
  have img (code : List Bundle) (b : Bool) : (Program.image ⟨readHeader r, code⟩ b) = ⟨readHeader r, code⟩ := by
    unfold Program.image; simp [k]
  have at_ (o n : Nat) : s.bufRd 0 0 0 (hoff + o) n = r o n := congrFun (congrFun hr o) n
  refine ⟨(List.range (readHeader r).codesz).map (fun k => BitVec.ofNat 512 (r ((readHeader r).codeoff + 64 * k) 64)), ?_⟩
  unfold State.loadProgram
  simp only [at_, p, p', q, c, cls, img, Option.map_none, Bool.or_true, Bool.and_true, if_true]
/-- Headers: one on an absent page, one of zeros, one that is good and waits for queue 1. -/
theorem program_fates :
    let load (hoff : Nat) : LoadResult := (queued hoff 1 (queueAt 0 0x1000)).loadProgram 0 0 0 hoff
    (match load 0x10000 with | .retry e => e.kind == 5 | _ => false) = true ∧ load 0x6000 = .reject ∧
    ∃ h code, load 0x2000 = .ok ⟨h, code⟩ ∧ h.waits.map (·.signaller) = [1] ∧ h.chain = 1 := by
  have hr := plain_queued 0x2000 _ (.inl rfl)
  obtain ⟨code, h⟩ := load_of _ _ 0x2000 hr (by decide +kernel) (by decide +kernel) (by decide +kernel) (by decide +kernel) (by decide +kernel)
  exact ⟨by decide +kernel, by decide +kernel, _, code, h, by decide +kernel, by decide +kernel⟩
/-- The wait of a queue for another is no cycle; for itself it is. -/
theorem witness_RecordsAreAdmitted_cycles : ¬ Cyclic [(0, 1)] ∧ Cyclic [(0, 0)] := by
  constructor
  · rintro ⟨n, h⟩
    obtain ⟨c, h1, _⟩ := Relation.TransGen.head'_iff.1 h
    obtain ⟨d, _, h2⟩ := Relation.TransGen.tail'_iff.1 h
    have a := (Prod.mk.inj (List.mem_singleton.1 h1)).1
    have b := (Prod.mk.inj (List.mem_singleton.1 h2)).2
    omega
  · exact ⟨0, .single (List.mem_singleton_self _)⟩

/-! ## Witnesses: blocking quanta, lost storage, the tables of a migration, accesses of other modules -/

/-- A task that waits at a barrier of its group (level 1, group 7, generation 4) or for an `ard` of two participants, one of which has come. -/
theorem witness_TaskLeaves_waits :
    let t : Task := { barred 2 with id := { (barred 2).id with dom := 0x0007000700070007 }, ctl := { tk.ctl with waiting := .bar, arrived := some (1, 4) } }
    let u : Task := { tk with ctl := { tk.ctl with waiting := .collective 9 } }
    let g : BarGroup := ⟨1, 7, 1, 2, 0, 4⟩
    let c (st : CmdState) : Cmd := { reducing 1 with st := st }
    let k (n : Nat) : Coll := ⟨3, 0, 1, 0, 0, 2, [], (7, 0) :: List.replicate n (5, 1), true⟩
    let s (st : CmdState) : State := { timed u with eng := { (timed u).eng with cmds := [c st] } }
    (t.ctl.waiting = .bar ∧ t.ctl.arrived = some (1, 4) ∧ g.level = 1 ∧ g.grp = t.id.dom.toNat / 2 ^ (16 * 1) % 2 ^ 16 ∧ g.gen = 4 ∧
      t.ctl.waitFrom + (timed t).mod.bquant ≤ (timed t).ram.tick) ∧
    (u.ctl.waiting = .collective 9 ∧ (∃ d ∈ (s .queued).eng.cmds, d.group = 9 ∧ d.opcode / 16 = 3 ∧ d.st = .queued) ∧ bitsOf (c .running) 4 46 2 ≠ 3 ∧
      (c .running).id = 7 ∧ ((k 0).members.length < (k 0).np ∧ ∃ m ∈ (k 0).members, m.1 = 7) ∧ ¬ (k 1).members.length < (k 1).np) := by
  refine ⟨⟨rfl, rfl, rfl, by decide, rfl, by decide⟩, rfl, ⟨_, List.mem_singleton_self _, rfl, rfl, rfl⟩, by decide, rfl,
    ⟨by decide, _, List.mem_cons_self .., rfl⟩, by decide⟩
/-- Tasks asked to stop, whose sequencer, whose cell (2, 3) and whose edge have lost what they stored. -/
theorem witness_TaskLeaves_lost :
    let u := { tk with ctl := { tk.ctl with stopReq := true } }
    let c : Task := { u with cells := [(67, { (default : Cell) with errs := [⟨default, 0, true⟩] })] }
    let p : Task := { u with pos := [(0, { (default : Pos) with errs := [⟨true, 0, 0, true⟩] })] }
    (∀ t ∈ [u, c, p], Drained t ∧ t.ctl.stopReq = true ∧ t.ctl.ending = false ∧ t.errs = []) ∧
    (∃ x ∈ c.cells, ∃ e ∈ x.2.errs, e.hard = true) ∧ (67 / 1024 = 0 ∧ 67 % 1024 / 32 = 2 ∧ 67 % 32 = 3) ∧ (∃ x ∈ p.pos, ∃ e ∈ x.2.errs, e.hard = true) := by
  refine ⟨?_, ⟨_, List.mem_singleton_self _, _, List.mem_singleton_self _, rfl⟩, by decide, ⟨_, List.mem_singleton_self _, _, List.mem_singleton_self _, rfl⟩⟩
  intro t h
  simp only [List.mem_cons, List.not_mem_nil, or_false] at h
  rcases h with rfl | rfl | rfl <;> refine ⟨⟨rfl, rfl, rfl, ?_, fun _ h => nomatch h⟩, rfl, rfl, rfl⟩
  · exact fun _ h => nomatch h
  · exact fun _ h => nomatch h
  · intro e h; rw [List.mem_singleton.1 h]; exact ⟨rfl, rfl⟩
/-- An image with a poisoned burst, and one whose lowest bad burst is the second. -/
theorem witness_TaskResumes_bursts :
    let burst (p : FMap Nat) (u : Nat) : Prop := 64 * u < away.ctl.img + away.prog.hdr.imageSize ∧ away.ctl.img < 64 * u + 64 ∧ ∃ e ∈ p, e.1 = u ∧ e.2 ≠ 0
    Lowest (burst [(1, 1), (5, 1)]) 1 ∧ ¬ burst [] 0 := by
  refine ⟨⟨⟨by decide, by decide, _, List.mem_cons_self .., rfl, by decide⟩, ?_⟩, fun ⟨_, _, _, h, _⟩ => nomatch h⟩
  rintro b hb ⟨_, _, e, h, k, _⟩
  simp only [List.mem_cons, List.not_mem_nil, or_false] at h
  rcases h with rfl | rfl <;> (simp only at k; omega)
/-- A function whose fault queue has room, and one whose queue is full. -/
theorem witness_ContextsAndHomes_queues :
    let room (b : FnBlock) : Prop := (b.fqtail + 2 ^ 32 - b.fqhead) % 2 ^ 32 < 2 ^ b.fqlog2
    room { FnBlock.init with fqlog2 := 4, fqtail := 15 } ∧ ¬ room { FnBlock.init with fqlog2 := 4, fqtail := 16 } ∧
    room { FnBlock.init with fqlog2 := 4, fqhead := 0xFFFFFFFF } ∧ (∀ l ∈ (timed tk).ram.sets, l.ctx ≠ 0) ∧ (∀ c ∈ (timed tk).eng.cmds, c.ctx ≠ 0) :=
  ⟨by decide, by decide, by decide, (fun _ h => nomatch h), fun _ h => nomatch h⟩
/-- The tables of page 0 of buffer 1, with and without an uncorrectable error. -/
def tablesOf (s : State) : List Nat := s.entryBursts 0 1 ++ s.walkBursts (s.bufEntry 0 1) 0
/-- The world with tables and these errors. -/
def erred (e : FMap Nat) : State := { shelved [] with mem := { (shelved []).mem with err := e } }
theorem tables_of : [tablesOf (erred [(0x4005, 3)]), tablesOf (erred [(0x4005, 2)])] =
    [[0x4004, 0x4005, 0x4006, 0x4007, 0x102000 / 64], [0x4004, 0x4005, 0x4006, 0x4007, 0x102000 / 64]] := by decide +kernel
theorem witness_LinkAndMemoryEvents_tables :
    let s := erred
    let lost (s : State) (u : Nat) : Prop := fget s.mem.poison 0 u ≠ 0 ∨ 3 ≤ fget s.mem.err 0 u
    (∃ u ∈ tablesOf (s [(0x4005, 3)]), lost (s [(0x4005, 3)]) u) ∧ (∀ u ∈ tablesOf (s [(0x4005, 2)]), ¬ lost (s [(0x4005, 2)]) u) := by
  obtain ⟨a, b, _⟩ := List.cons.inj tables_of |>.imp_right List.cons.inj
  dsimp only
  rw [a, b]
  refine ⟨⟨0x4005, by decide, .inr (by decide)⟩, ?_⟩
  intro u m
  simp only [List.mem_cons, List.not_mem_nil, or_false] at m
  rcases m with rfl | rfl | rfl | rfl | rfl <;> decide
/-- An invalidation of all pages of a buffer covers the entry held without a page; one of two pages of three does not. -/
theorem witness_LinkAndMemoryEvents_noPage :
    let e : TlbEntry := ⟨0, 0, 0, 2 ^ 64, 0, { (default : BufEntry) with size := 3 * 2 ^ 16 }⟩
    let covers (v : Nat) : Prop := v / 2 ^ 43 % 2 ^ 21 = 0 ∨ v / 2 ^ 12 % 2 ^ 31 = 0 ∧ 3 ≤ v / 2 ^ 43 % 2 ^ 21
    e.page = 2 ^ 64 ∧ covers 0 ∧ covers (3 * 2 ^ 43) ∧ ¬ covers (2 * 2 ^ 43) ∧ ¬ covers (3 * 2 ^ 43 + 2 ^ 12) := by decide
/-- LEVEL-3 collectives of two: one not yet matched by a home elsewhere, one matched whose other participant is away, one whose elements are here. -/
theorem witness_LinkAndMemoryEvents_collectives :
    let c := meetCmd [3, 5]
    let x := world tk [c]
    let share : CollShare := ⟨0, x.sysKey c, 5, 0, 1, 1, [], [9]⟩
    let away (l : List CollShare) : Prop :=
      (l.filter (fun h => h.sdom == (x.ctx c.ctx).sdom && h.group == x.sysKey c && h.gen == 5)).length + 0 < bitsOf c 3 16 16
    command x 7 = some c ∧ (x.ctx 0).ffault = none ∧ c.opcode / 16 = 3 ∧ bitsOf c 4 46 2 = 3 ∧ c.st = .running ∧ away [share] ∧
    ¬ away [share, { share with rank := 0 }] ∧ ({ x.ctx 0 with shome := 2 } : Ctx).shome ≠ x.mod.modid := by decide +kernel
/-- An atomic addition of another module to a word of buffer 0, one to an absent page; a step of an optimizer. -/
theorem witness_LinkAndMemoryEvents_atomics :
    let a (off amo len : Nat) : LinkAccess := { far 5 off with amo := amo, len := len, write := true }
    let die := 24 + 64 * 3 + 5
    ((linked up).atomicErr die 0 0 8 8).isNone = true ∧ (((linked up).atomicErr die 0 0 0x10000 8).map (·.kind)) = some 5 ∧
    ((linked up).atomicErr die 0 0 0 16).isNone = true ∧ (1 ≤ (a 8 1 8).amo ∧ (a 8 1 8).amo ≤ 8 ∧ (a 0 9 16).amo = 9) ∧ (a 8 1 8).parts = [] := by decide +kernel
/-- A descriptor written again: the queue stays where it is, or, mapped, moves to another die. -/
theorem witness_ContextBlockWrites_queue :
    let x := { qu with mapped := true }
    let y (home : Nat) : Quad := { qd with d1 := qd.d1 + home * 2 ^ 32 }
    let moves (d : Quad) : Prop := x.mapped = true ∧ x.home ≠ d.d1 / 2 ^ 32 % 2 ^ 8
    ¬ moves (y 0) ∧ moves (y 1) ∧ (y 1).d1 / 2 ^ 40 % 2 ^ 8 = 2 ∧
    (let room (tail : Word) : Prop := (tail - x.cmpl).toNat ≤ 2 ^ 2 ∧ (tail - x.tail).toNat ≤ (tail - x.cmpl).toNat
     room 4 ∧ ¬ room 6) := by decide
/-- Migrations: of the page whose migration MIGR names, and of another; requests that are refused and that are not. -/
theorem witness_ContextBlockWrites_migrations :
    let c : Ctx := { (shelved []).ctx 0 with migr := (1, 0), migs := [⟨0, 2, 7, 1, 0⟩, ⟨1, 0, 7, 1, 0⟩] }
    let refused (k p : Nat) : Bool :=
      let s := shelved []
      let e := s.bufEntry k 0
      let x := s.freshPte e p
      !e.valid || e.host || e.imp || e.remote || decide (e.size ≤ p * e.page) || !x.testBit 63 || x.testBit 60 || !s.frameOk e x || !s.frameOk e 7
    c.migs.find? (fun g => decide ((g.buf, g.page) = c.migr)) = some ⟨1, 0, 7, 1, 0⟩ ∧ (∀ g ∈ c.migs.take 1, (g.buf, g.page) ≠ c.migr) ∧
    refused 0 0 = false ∧ refused 0 1 = true ∧ (shelved []).feat 3 = true ∧ State.reset.feat 3 = false := by decide +kernel
/-- Writes of PORTEN, FEATREQ and ATTNONCE. -/
theorem witness_FunctionAndModuleWrites_wide :
    (0x1000 ≤ 0x1208 ∧ 0x1208 < 0x10000) ∧ (3 < 2 ^ 18 ∧ ¬ 2 ^ 18 < 2 ^ 18) ∧ (portOf (linked up) 0).state = 2 ∧ (portOf (linked up) 1).state = 0 ∧
    (0x1098 = 0x1090 + 8 * 1 ∧ (1 : Nat) < 2) ∧ (0x1638 = 0x1600 + 8 * 7 ∧ (7 : Nat) < 8) := by decide
end Sys2Proof.Tests
end

section
/-! The sequencer's arithmetic (R163 to R165): what a performed operation delivers, the model's arithmetic in the spec's terms, and
the three statements O1, O2 and O3. -/
namespace Sys2Proof.Machine
open Sys2Proof Sys2Proof.Spec

/-! ## What a performed operation of SA or SB delivers (R161, R173, R174) -/

section Delivery
variable {s : State} {i : Instr} {qp qn d lat : Nat}

theorem guard_of_performed (h : Performed s qp qn) : s.iss.t0.guard qp qn = true := (guard_eq ..).trans h.2

theorem hold_eq_later (s : State) (lat : Nat) (d : SDst) (v : DWord) : s.hold lat d v = later s lat d v := rfl

/-- An operation that has the shape of an ALU operation delivers its value, and delivers whatever that value equals. -/
theorem completes_of_aluTo {v w : DWord} (h : Performed s qp qn) (he : exec i s = aluTo s qp qn d lat v) (hv : v = w) :
    Completes i s (later s lat (.s d) w) := by
  rw [Completes, he, aluTo_commit h.1 (guard_of_performed h), hold_eq_later, hv]

/-- The same for a predicate. -/
theorem completes_of_predTo {v w : Bool} (h : Performed s qp qn) (he : exec i s = predTo s qp qn d v) (hv : v = w) :
    Completes i s (later s 1 (.q d) (bit w)) := by
  rw [Completes, he, predTo_commit h.1 (guard_of_performed h), hold_eq_later, hv]
  rfl

end Delivery

/-! ## Constants (R164) -/

/-- The model's sign extension, on numbers, is that of bit vectors. -/
theorem sextD_eq_signExtend (v w : Nat) : sextD v w = (BitVec.ofNat w v).signExtend 64 := by
  have hw : w = 0 ∨ 2 ^ w = 2 * 2 ^ (w - 1) := by
    cases w with
    | zero => exact .inl rfl
    | succ n => exact .inr (by rw [Nat.pow_succ, Nat.mul_comm]; rfl)
  have hsext : sext v w = (BitVec.ofNat w v).toInt := by
    unfold sext
    rw [BitVec.toInt_eq_toNat_cond, BitVec.toNat_ofNat]
    rcases hw with rfl | h
    · simp [Nat.mod_one]
    · simp only [h, Nat.mul_lt_mul_left Nat.two_pos]
  rw [sextD, hsext, BitVec.signExtend]

theorem ofNat_mod_two_pow (v w : Nat) : BitVec.ofNat 64 (v % 2 ^ w) = (BitVec.ofNat w v).setWidth 64 := by
  apply BitVec.eq_of_toNat_eq
  simp

theorem immS_eq_sext23 (imm : Nat) : immS imm = sext23 imm := sextD_eq_signExtend imm 23
theorem immZ_eq_zext23 (imm : Nat) : immZ imm = zext23 imm := ofNat_mod_two_pow imm 23

/-! ## Shifts -/

theorem shiftLeft_eq_mul_pow (a : DWord) (n : Nat) : a <<< n = a * BitVec.ofNat 64 (2 ^ n) := by
  rw [BitVec.shiftLeft_eq_mul_twoPow]
  congr 1
  apply BitVec.eq_of_toNat_eq
  rw [BitVec.toNat_twoPow, BitVec.toNat_ofNat]

theorem ushiftRight_eq_div_pow (a : DWord) (n : Nat) : a >>> n = BitVec.ofNat 64 (a.toNat / 2 ^ n) := by
  apply BitVec.eq_of_toNat_eq
  rw [BitVec.toNat_ushiftRight, Nat.shiftRight_eq_div_pow, BitVec.toNat_ofNat,
    Nat.mod_eq_of_lt ((Nat.div_le_self ..).trans_lt a.isLt)]

theorem shiftRight_eq (arith : Bool) (a : DWord) (n : Nat) :
    shiftRight arith a n = if arith then a.sshiftRight (n % 64) else BitVec.ofNat 64 (a.toNat / 2 ^ (n % 64)) := by
  rw [shiftRight, ushiftRight_eq_div_pow]

/-! ## Products, quotients, remainders (R107) -/

/-- The upper doubleword of an integer wrapped to 128 bits is its quotient by 2^64, rounded down. -/
theorem extractLsb'_ofInt_high (n : Int) : (BitVec.ofInt 128 n).extractLsb' 64 64 = BitVec.ofInt 64 (n / (2 ^ 64 : Nat)) := by
  apply BitVec.eq_of_toNat_eq
  rw [BitVec.extractLsb'_toNat, BitVec.toNat_ofInt, BitVec.toNat_ofInt, Nat.shiftRight_eq_div_pow]
  omega

theorem signExtend_mul_signExtend (a b : DWord) : a.signExtend 128 * b.signExtend 128 = BitVec.ofInt 128 (a.toInt * b.toInt) := by
  rw [BitVec.ofInt_mul]; rfl

theorem setWidth_mul_setWidth (a b : DWord) : a.setWidth 128 * b.setWidth 128 = BitVec.ofInt 128 ((a.toNat * b.toNat : Nat) : Int) := by
  rw [BitVec.ofInt_natCast, BitVec.ofNat_mul, BitVec.ofNat_toNat, BitVec.ofNat_toNat]

theorem mulHigh_eq (sgn : Bool) (a b : DWord) :
    mulHigh sgn a b = if sgn then (a.signExtend 128 * b.signExtend 128).extractLsb' 64 64
      else (a.setWidth 128 * b.setWidth 128).extractLsb' 64 64 := by
  rw [signExtend_mul_signExtend, setWidth_mul_setWidth, extractLsb'_ofInt_high, extractLsb'_ofInt_high, ← Int.natCast_ediv,
    BitVec.ofInt_natCast, mulHigh]

/-- The signed quotient wraps, so -2^63 / -1 stays -2^63. -/
theorem ofInt_tdiv_eq_sdiv (a b : DWord) : BitVec.ofInt 64 (a.toInt.tdiv b.toInt) = a.sdiv b := by
  apply BitVec.eq_of_toInt_eq
  rw [BitVec.toInt_ofInt, BitVec.toInt_sdiv]

theorem quot_eq (sgn : Bool) (a b : DWord) :
    quot sgn a b = if b = 0 then BitVec.allOnes 64 else if sgn then a.sdiv b else a.udiv b := by
  rw [quot, ofInt_tdiv_eq_sdiv, ← BitVec.udiv_def, BitVec.udiv_eq]

theorem sub_mul_sdiv_eq_srem (a b : DWord) : a - b * a.sdiv b = a.srem b := by
  calc a - b * a.sdiv b
      = BitVec.ofInt 64 a.toInt - BitVec.ofInt 64 b.toInt * BitVec.ofInt 64 (a.toInt.tdiv b.toInt) := by
        rw [ofInt_tdiv_eq_sdiv, BitVec.ofInt_toInt, BitVec.ofInt_toInt]
    _ = BitVec.ofInt 64 (a.toInt.tmod b.toInt) := by
        rw [← BitVec.ofInt_mul, Int.tmod_def, Int.sub_eq_add_neg, BitVec.ofInt_add, BitVec.ofInt_neg, BitVec.sub_eq_add_neg]
    _ = a.srem b := by rw [← BitVec.toInt_srem, BitVec.ofInt_toInt]

theorem sub_mul_udiv_eq_umod (a b : DWord) : a - b * a.udiv b = a.umod b := by
  rw [BitVec.umod_eq, BitVec.udiv_eq, sub_eq_iff_eq_add]
  apply BitVec.eq_of_toNat_eq
  rw [BitVec.toNat_add, BitVec.toNat_mul, BitVec.toNat_umod, BitVec.toNat_udiv, Nat.add_mod_mod, Nat.mod_add_div,
    Nat.mod_eq_of_lt a.isLt]

/-- The divisor 0, which the model tells apart, gives A by the definitions of `srem` and `umod` too. -/
theorem remainder_eq (sgn : Bool) (a b : DWord) : remainder sgn a b = if sgn then a.srem b else a.umod b := by
  by_cases hb : b = 0
  · subst hb
    cases sgn <;> simp [remainder]
  · rw [remainder, if_neg hb, quot_eq, if_neg hb]
    cases sgn
    · exact sub_mul_udiv_eq_umod a b
    · exact sub_mul_sdiv_eq_srem a b

/-! ## Order and the conditions of R73 -/

theorem less_eq_below (sgn : Bool) (a b : DWord) : less sgn a b = below sgn a b := by
  rw [less, below, BitVec.slt_eq_decide, BitVec.ult_eq_decide]

/-- What stands between two patterns is one of three, whatever the signedness. -/
theorem below_trichotomy (sgn : Bool) (a b : DWord) :
    (below sgn a b = true ∧ a ≠ b ∧ below sgn b a = false) ∨ (below sgn a b = false ∧ a = b ∧ below sgn b a = false) ∨
    (below sgn a b = false ∧ a ≠ b ∧ below sgn b a = true) := by
  cases sgn
  · simp only [below, Bool.false_eq_true, if_false, BitVec.ult_eq_decide, ne_eq, ← BitVec.toNat_inj, decide_eq_true_eq,
      decide_eq_false_iff_not]
    omega
  · simp only [below, if_true, BitVec.slt_eq_decide, ne_eq, ← BitVec.toInt_inj, decide_eq_true_eq, decide_eq_false_iff_not]
    omega

theorem smaller_eq (sgn : Bool) (a b : DWord) : (if less sgn a b then a else b) = if below sgn b a then b else a := by
  rw [less_eq_below]
  obtain ⟨h, -, h'⟩ | ⟨h, e, h'⟩ | ⟨h, -, h'⟩ := below_trichotomy sgn a b <;> simp [*]

theorem larger_eq (sgn : Bool) (a b : DWord) : (if less sgn a b then b else a) = if below sgn b a then a else b := by
  rw [less_eq_below]
  obtain ⟨h, -, h'⟩ | ⟨h, e, h'⟩ | ⟨h, -, h'⟩ := below_trichotomy sgn a b <;> simp [*]

/-- Smaller or equal is not larger. -/
theorem below_or_eq (sgn : Bool) (a b : DWord) : (below sgn a b || a == b) = !below sgn b a := by
  obtain ⟨h, -, h'⟩ | ⟨h, e, h'⟩ | ⟨h, e, h'⟩ := below_trichotomy sgn a b <;> simp_all

theorem compare64_iff (c : Nat) (sgn : Bool) (a b : DWord) : compare64 c sgn a b = true ↔ condition c sgn a b := by
  have hle := below_or_eq sgn a b
  have hgt : (!below sgn a b && !(a == b)) = below sgn b a := by rw [← Bool.not_or, hle, Bool.not_not]
  rw [compare64, less_eq_below]
  match c with
  | 0 => simp [condHolds, condition]
  | 1 => simp [condHolds, condition]
  | 2 => simp [condHolds, condition]
  | 3 => simp only [condHolds, hle]; simp [condition]
  | 4 => simp only [condHolds, hgt]; simp [condition]
  | n + 5 => simp [condHolds, condition]

/-! ## Bits of a doubleword -/

theorem bitAt_eq_testBit (v i : Nat) : bitAt v i = v.testBit i := by
  rw [bitAt, Nat.testBit_eq_decide_div_mod_eq, beq_eq_decide]

theorem popcNat_eq_countP (a : DWord) : popcNat 64 a.toNat = (List.range 64).countP (fun i => a.getLsbD i) := by
  simp only [popcNat, bitAt_eq_testBit, List.countP_eq_length_filter, BitVec.testBit_toNat]

/-- The leading one of a non-zero doubleword stands below its leading zeros. -/
theorem clzNat_spec (a : DWord) (h : a ≠ 0) : clzNat 64 a.toNat < 64 ∧ a.toNat / 2 ^ (63 - clzNat 64 a.toNat) = 1 := by
  have hne : a.toNat ≠ 0 := fun e => h (BitVec.eq_of_toNat_eq e)
  have hlog : a.toNat.log2 < 64 := (Nat.log2_lt hne).2 a.isLt
  have hclz : clzNat 64 a.toNat = 63 - a.toNat.log2 := if_neg hne
  refine ⟨by omega, ?_⟩
  rw [hclz, Nat.sub_sub_self (by omega), Nat.div_eq_iff (Nat.two_pow_pos _)]
  have hlow := Nat.log2_self_le hne
  have hhigh := Nat.lt_log2_self (n := a.toNat)
  rw [Nat.pow_succ] at hhigh
  omega

theorem getLsbD_bitExtract (a : DWord) (p wd i : Nat) (hi : i < 64) :
    (bitExtract a p wd).getLsbD i = (decide (i < wd) && a.getLsbD (p + i)) := by
  rw [bitExtract, BitVec.getLsbD_ofNat, Nat.testBit_mod_two_pow, Nat.testBit_div_two_pow, BitVec.testBit_toNat]
  simp [hi, Nat.add_comm]

theorem getLsbD_bitInsert (d a : DWord) (p wd i : Nat) (hi : i < 64) :
    (bitInsert d a p wd).getLsbD i = if p ≤ i ∧ i < p + wd then a.getLsbD (i - p) else d.getLsbD i := by
  have hmask : ((2 ^ wd - 1) * 2 ^ p).testBit i = decide (p ≤ i ∧ i < p + wd) := by
    rw [Nat.testBit_mul_two_pow, Nat.testBit_two_pow_sub_one, ← Bool.decide_and, decide_eq_decide]
    omega
  have hfield : (a.toNat % 2 ^ wd * 2 ^ p).testBit i = (decide (p ≤ i ∧ i < p + wd) && a.getLsbD (i - p)) := by
    rw [Nat.testBit_mul_two_pow, Nat.testBit_mod_two_pow, BitVec.testBit_toNat, ← Bool.and_assoc, ← Bool.decide_and]
    congr 1
    rw [decide_eq_decide]
    omega
  simp only [bitInsert, BitVec.getLsbD_or, BitVec.getLsbD_and, BitVec.getLsbD_not, BitVec.getLsbD_ofNat, hmask, hfield, hi]
  by_cases h : p ≤ i ∧ i < p + wd <;> simp [h]

/-! ## Fields of well-formed instructions (R70, R86) -/

theorem firstFail_isNone (l : List (Bool × Check)) : (firstFail l).isNone = l.all (·.1) := by
  induction l with
  | nil => rfl
  | cons e l ih =>
    obtain ⟨ok, c⟩ := e
    cases ok
    · rfl
    · exact ih

theorem wf_eq_all (i : Instr) : i.wf = i.checks.all (·.1) := firstFail_isNone _

theorem sel_k_lt_of_wf {u : SeqSlot} {f : FmtSR} (h : (Instr.sel u f).wf = true) : f.k < 32 := by
  rw [wf_eq_all] at h
  simp only [Instr.checks, FmtSR.checks, List.all_cons, Bool.and_eq_true, decide_eq_true_eq] at h
  obtain ⟨-, -, hk, -⟩ := h
  exact hk

theorem cmp_fields_lt_of_wf {u : SeqSlot} {f : FmtSR} (h : (Instr.cmp u f).wf = true) : f.d < 16 ∧ f.k < 16 := by
  rw [wf_eq_all] at h
  simp only [Instr.checks, FmtSR.checks, List.all_cons, Bool.and_eq_true, decide_eq_true_eq] at h
  obtain ⟨-, -, hd, -, hk, -⟩ := h
  exact ⟨hd, hk⟩

theorem cmpi_d_lt_of_wf {u : SeqSlot} {f : FmtSI} (h : (Instr.cmpi u f).wf = true) : f.d < 16 := by
  rw [wf_eq_all] at h
  simp only [Instr.checks, FmtSI.checks, List.all_cons, Bool.and_eq_true, decide_eq_true_eq] at h
  obtain ⟨-, -, hd, -⟩ := h
  exact hd

/-! ## The statements -/

/-- Settles O1: every row is an ALU operation that delivers its value; the value is the table's by the lemma named. -/
theorem registerAluResults : Obligations.RegisterAluResults := by
  intro u f s h
  refine ⟨completes_of_aluTo h rfl rfl, completes_of_aluTo h rfl rfl, completes_of_aluTo h rfl rfl,
    completes_of_aluTo h rfl (mulHigh_eq ..), completes_of_aluTo h rfl (quot_eq ..), completes_of_aluTo h rfl (remainder_eq ..),
    completes_of_aluTo h rfl rfl, completes_of_aluTo h rfl rfl, completes_of_aluTo h rfl rfl,
    completes_of_aluTo h rfl (shiftLeft_eq_mul_pow ..), completes_of_aluTo h rfl (shiftRight_eq ..),
    completes_of_aluTo h rfl (smaller_eq ..), completes_of_aluTo h rfl (larger_eq ..),
    ⟨_, completes_of_aluTo h rfl rfl, ?clzZero, ?clzOther⟩, completes_of_aluTo h rfl (congrArg _ (popcNat_eq_countP _)),
    completes_of_aluTo h rfl rfl, ?selField, completes_of_aluTo h rfl (congrArg _ (shiftLeft_eq_mul_pow ..)),
    ⟨_, completes_of_aluTo h rfl rfl, fun i hi => getLsbD_bitExtract _ _ _ i hi⟩,
    ⟨_, completes_of_aluTo h rfl rfl, fun i hi => getLsbD_bitInsert _ _ _ _ i hi⟩⟩
  case clzZero =>
    intro hA
    simp [opA, hA, clzNat]
  case clzOther =>
    intro hA
    obtain ⟨hlt, hdiv⟩ := clzNat_spec (opA s f.a) hA
    rw [BitVec.toNat_ofNat, Nat.mod_eq_of_lt (by omega)]
    exact ⟨hlt, hdiv⟩
  case selField =>
    intro hwf
    rw [bitAt_eq_testBit]
    exact Nat.testBit_lt_two_pow (sel_k_lt_of_wf hwf)

/-- Settles O2: as O1, with the constants of R164. -/
theorem immediateAluResults : Obligations.ImmediateAluResults := by
  intro u f s h
  refine ⟨completes_of_aluTo h rfl (congrArg _ (immS_eq_sext23 _)), completes_of_aluTo h rfl (congrArg _ (immS_eq_sext23 _)),
    completes_of_aluTo h rfl (congrArg _ (immS_eq_sext23 _)), completes_of_aluTo h rfl (congrArg _ (immZ_eq_zext23 _)),
    completes_of_aluTo h rfl (congrArg _ (immZ_eq_zext23 _)), completes_of_aluTo h rfl (shiftLeft_eq_mul_pow ..),
    completes_of_aluTo h rfl ?shri, completes_of_aluTo h rfl (immS_eq_sext23 _), completes_of_aluTo h rfl ?movh⟩
  case shri => simp only [shiftRight_eq, bitAt, Nat.mod_mod, beq_iff_eq, opA, Nat.reducePow]
  case movh => rw [shiftLeft_eq_mul_pow, immZ_eq_zext23]; rfl

/-- Settles O3: each row holds the predicate of `compare64` or of its table line for q[d]; q15 reads 1 in every task (R53). -/
theorem compareAndPredicateResults : Obligations.CompareAndPredicateResults := by
  intro u f g s
  refine ⟨fun h => ⟨⟨_, completes_of_predTo h rfl rfl, compare64_iff ..⟩, completes_of_predTo h rfl rfl, completes_of_predTo h rfl rfl,
      completes_of_predTo h rfl rfl, completes_of_predTo h rfl rfl⟩, ?cmpFields, cmpi_d_lt_of_wf, fun t => qReg_15 t.land, ?cmpi⟩
  case cmpFields =>
    intro hwf
    obtain ⟨hd, hk⟩ := cmp_fields_lt_of_wf hwf
    exact ⟨hd, Nat.div_eq_of_lt hk⟩
  case cmpi =>
    intro h
    refine ⟨_, completes_of_predTo h rfl rfl, ?_⟩
    rw [sextD_eq_signExtend, ofNat_mod_two_pow]
    exact compare64_iff ..

end Sys2Proof.Machine
end
